-- ==== Sys2Proof/Word.lean ====
section
/-!
DEFINITION. The word types of the machine and the sparse table `Tab` in which keyed state is kept.
A `Tab` is plain data: a list of keys and values, kept in rising order of its keys by `put`.
-/

namespace Sys2Proof

/-- A 64-bit general register, a queue payload, a bank or slot word. -/
abbrev Word := BitVec 64

/-- One byte of storage. -/
abbrev Byte := BitVec 8

/-- One 512-bit token row, tile row or element-store row (R98). -/
abbrev Row := BitVec 512

/-- A register number of the panel sequencer (R40). -/
abbrev Reg := BitVec 5

/-- A sparse table: keys with values, one entry a key. -/
abbrev Tab (α : Type) := List (Nat × α)

/-- The value at key `k`, or `d` where the table lists none. -/
def Tab.look {α : Type} (d : α) : Tab α → Nat → α
  | [], _ => d
  | (j, v) :: r, k => if j = k then v else Tab.look d r k

/-- Whether the table lists key `k`. -/
def Tab.has {α : Type} : Tab α → Nat → Bool
  | [], _ => false
  | (j, _) :: r, k => if j = k then true else Tab.has r k

/-- The table with `v` at key `k`. -/
def Tab.put {α : Type} : Tab α → Nat → α → Tab α
  | [], k, v => [(k, v)]
  | (j, w) :: r, k, v =>
    if k < j then (k, v) :: (j, w) :: r
    else if k = j then (k, v) :: r
    else (j, w) :: Tab.put r k v

/-- The table without key `k`. -/
def Tab.del {α : Type} : Tab α → Nat → Tab α
  | [], _ => []
  | (j, w) :: r, k => if j = k then Tab.del r k else (j, w) :: Tab.del r k

end Sys2Proof
end

