-- ==== Sys2Proof/Syntax.lean ====
section
/-!
DEFINITION. The syntax of a step: one constructor of `Instr` for every row of spec/opcode_table.json.
Sequencer words, element slots, stream commands and bank words carry their decoded fields; the events of the package
carry the numbers that say which item they act on.
-/

namespace Sys2Proof

/-- The scopes of R312, with their codes. -/
inductive Scope where
  | panel | cluster | die | package | system
  deriving DecidableEq, Repr, Inhabited

/-- The system registers of R65. -/
inductive SysReg where
  | sqid | jobn | rpli | rpln | cyc | cpc | spt | ic (n : BitVec 2) | wgt | proot | kpend | cpnl
  deriving DecidableEq, Repr, Inhabited

/-- The QC fields of `CMD` and `CMDNB` (R43). -/
structure Qc where
  xs : Reg
  row : BitVec 3
  wait : BitVec 8
  token : BitVec 3
  named : Bool
  deriving DecidableEq, Repr, Inhabited

/-- The fields of an element instruction besides its opcode (R47). -/
structure Slot where
  mod : BitVec 4
  in0 : BitVec 4
  in1 : BitVec 4
  in2 : BitVec 4
  outmask : BitVec 8
  tw : BitVec 2
  imm : BitVec 16
  deriving DecidableEq, Repr, Inhabited

/-- The fields of a stream command besides its op (R57). -/
structure Cmd where
  fused : BitVec 8
  size : BitVec 4
  space : BitVec 4
  port : BitVec 8
  reply : BitVec 5
  count : BitVec 27
  addr : BitVec 60
  flags : BitVec 4
  deriving DecidableEq, Repr, Inhabited

/-- What an allocator step does (R25): place the next replica of a launch on a die, or move a set to compact space. -/
inductive PlacementAct where
  | place (job node die : Nat)
  | move (strand : Nat)
  deriving DecidableEq, Repr, Inhabited

/-- What takes move 4 of R315: a departed request, or a dirty sector of a die point. -/
inductive SendWhat where
  | req (id : Nat)
  | sector (die line sector : Nat)
  deriving DecidableEq, Repr, Inhabited

/-- What takes move 7 of R315: a stream-buffer line of a panel or a die-point line; or a cached translation (R334). -/
inductive DropWhat where
  | streamLine (panel line : Nat)
  | dieLine (die line : Nat)
  | translation (index : Nat)
  deriving DecidableEq, Repr, Inhabited

/-- A firmware image as the boot ROM meets it (R390): its content as one number, and its security version. -/
structure FlashImage where
  content : Nat
  version : Nat
  deriving DecidableEq, Repr, Inhabited

/-- An SPDM request over DOE (R391). -/
inductive SpdmReq where
  | certificates
  | measurements
  deriving DecidableEq, Repr, Inhabited

/-- A host access of 8 bytes through a function's windows (R383): function 0 is the PF, 1 + v is VF v; window 0 is the
registers, 2 the device memory. -/
structure WindowAccess where
  fn : Nat
  window : Nat
  offset : Nat
  write : Option Word
  deriving DecidableEq, Repr, Inhabited

/-- A key-slot command of system software (R392). -/
structure KeyCommand where
  index : Nat
  use : Nat
  owner : Nat
  keyBits : Nat
  material : BitVec 512
  deriving DecidableEq, Repr, Inhabited

/-- A register of system software that has no row of its own (row REGISTER_WRITE). -/
inductive RegTarget where
  /-- R331 -/
  | translationRoot (slot : Nat)
  /-- R193 -/
  | stallControl (strand : Nat)
  /-- R193 -/
  | mapAddress (strand : Nat)
  /-- R213 -/
  | lockQuota (die slot : Nat)
  /-- R380 -/
  | perfControl (die n : Nat)
  /-- R380 -/
  | perfValue (die n : Nat)
  /-- R341 -/
  | templateOwner (t : Nat)
  /-- R299: by system software -/
  | queueDescriptor (q : Nat)
  /-- R9: by `ranzu-ld`, where the `.data` section of the strand stands that starts with a record of a job -/
  | dataSection (slot record : Nat)
  /-- R299, R400: by `ranzu-ld`, for a clause of the launch of a node -/
  | queueClause (q node : Nat)
  /-- R379 -/
  | heatLog (slot : Nat)
  /-- R393 -/
  | toolingRing (vf : Nat)
  /-- R27, R320: what the hardware loader is told of part n of a cut graph (log 87) -/
  | part (n : Nat)
  /-- R27, R310: what the hardware loader is told of cut edge n (log 87) -/
  | cut (n : Nat)
  /-- R389 -/
  | packageGroup
  /-- R389 -/
  | packageIndex
  /-- R383: the PF grants a VF a page of 64 KiB of device memory, or takes it back (log 117) -/
  | grant (vf page : Nat)
  /-- R396: what the sensors report to the management registers: package power in mW, and the temperature of a die or a stack in units of 0.125 °C (log 118) -/
  | power
  | dieTemperature (die : Nat)
  | stackTemperature (stack : Nat)
  deriving DecidableEq, Repr, Inhabited

/-- One constructor for each row of the table of operations and events. -/
inductive Instr where
  /-- ADD (R68): Writes x[xa] + x[xb] modulo 2^64 to x[xd]. -/
  | add (d a b : Reg)
  /-- SUB (R68): Writes x[xa] - x[xb] modulo 2^64 to x[xd]. -/
  | sub (d a b : Reg)
  /-- MUL (R68): Writes the low 64 bits of the product to x[xd]. -/
  | mul (d a b : Reg)
  /-- MULH (R68): Writes bits [127:64] of the signed 128-bit product to x[xd]. -/
  | mulh (d a b : Reg)
  /-- MULHU (R68): Writes bits [127:64] of the unsigned 128-bit product to x[xd]. -/
  | mulhu (d a b : Reg)
  /-- DIV (R69): Writes the signed quotient truncated towards zero, with the fixed results for the borderline cases. -/
  | div (d a b : Reg)
  /-- DIVU (R69): Writes the unsigned quotient, or all ones when b = 0. -/
  | divu (d a b : Reg)
  /-- REM (R69): Writes the signed remainder, which takes the sign of a. -/
  | rem (d a b : Reg)
  /-- REMU (R69): Writes the unsigned remainder. -/
  | remu (d a b : Reg)
  /-- AND (R68): Writes the bitwise AND of x[xa] and x[xb]. -/
  | and (d a b : Reg)
  /-- OR (R68): Writes the bitwise OR of x[xa] and x[xb]. -/
  | or (d a b : Reg)
  /-- XOR (R68): Writes the bitwise XOR of x[xa] and x[xb]. -/
  | xor (d a b : Reg)
  /-- ANDN (R68): Writes a AND NOT b. -/
  | andn (d a b : Reg)
  /-- SHL (R68): Writes a shifted left by b[5:0]. -/
  | shl (d a b : Reg)
  /-- SHR (R68): Writes a shifted logically right by b[5:0]. -/
  | shr (d a b : Reg)
  /-- SAR (R68): Writes a shifted arithmetically right by b[5:0]. -/
  | sar (d a b : Reg)
  /-- MIN (R68): Writes the signed minimum of the two registers. -/
  | min (d a b : Reg)
  /-- MAX (R68): Writes the signed maximum of the two registers. -/
  | max (d a b : Reg)
  /-- MINU (R68): Writes the unsigned minimum of the two registers. -/
  | minu (d a b : Reg)
  /-- MAXU (R68): Writes the unsigned maximum of the two registers. -/
  | maxu (d a b : Reg)
  /-- SLT (R68): Writes 1 if a < b as signed values, else 0. -/
  | slt (d a b : Reg)
  /-- SLTU (R68): Writes 1 if a < b as unsigned values, else 0. -/
  | sltu (d a b : Reg)
  /-- SEQ (R68): Writes 1 if a = b, else 0. -/
  | seq (d a b : Reg)
  /-- CLZ (R70): Writes the count of leading zero bits of x[xa], or 64 for zero. -/
  | clz (d a : Reg)
  /-- CTZ (R70): Writes the count of trailing zero bits of x[xa], or 64 for zero. -/
  | ctz (d a : Reg)
  /-- POPC (R70): Writes the number of set bits of x[xa]. -/
  | popc (d a : Reg)
  /-- AMADD (R84): Adds x[xb] indivisibly to the 8-byte word at x[xa] and returns the old value. -/
  | amadd (d a b : Reg)
  /-- AMSWP (R84): Swaps x[xb] indivisibly into the word at x[xa] and returns the old value. -/
  | amswp (d a b : Reg)
  /-- AMCAS (R84): Writes x[xb] to the word if it equals x[xd], and returns the old value. -/
  | amcas (d a b : Reg)
  /-- AMMAX (R84): Writes the signed maximum of the word and x[xb] indivisibly and returns the old value. -/
  | ammax (d a b : Reg)
  /-- CFGLD (R87): Waits for the drain, checks the record and image, and loads the configuration. -/
  | cfgld (a : Reg)
  /-- QPUSH (R303): Pushes an unweighted message to a hardware queue after releasing earlier writes at its scope. -/
  | qpush (a b : Reg)
  /-- QPUSH_WT (R303): Pushes a message carrying weight given from w by the lowest-set-bit rule. -/
  | qpushWt (a b : Reg)
  /-- QPOP (R304): Waits for and removes the oldest message, adds its weight to w, and acquires. -/
  | qpop (d a : Reg)
  /-- QTRY (R304): Pops as QPOP when a message is present, else writes all ones without waiting. -/
  | qtry (d a : Reg)
  /-- SPAWN (R303): Pushes a weighted task to a task-class queue. -/
  | spawn (a b : Reg)
  /-- QROOT (R374): Creates a nested root, saves PROOT and w on the root stack, and sets w to 1.0. -/
  | qroot (d : Reg)
  /-- WRET (R375): Returns an amount of w to the root that PROOT names. -/
  | wret (a : Reg)
  /-- WAITQ (R376): Returns w, waits until the nested root is quiet, releases it and pops the root stack. -/
  | waitq (a : Reg)
  /-- QCHK (R377): Writes expected minus returned of a root without waiting. -/
  | qchk (d a : Reg)
  /-- BARI (R361): Claims, resets or frees a barrier from the settings in x[xb]. -/
  | bari (a b : Reg)
  /-- BARA (R362): Releases earlier writes and makes one arrival at the barrier. -/
  | bara (a : Reg)
  /-- BARX (R362): Adds x[xb] to the pending bytes and makes one arrival, indivisibly. -/
  | barx (a b : Reg)
  /-- BARW (R364): Waits until the barrier's phase bit differs from P, then acquires. -/
  | barw (a : Reg)
  /-- FENCE (R85): Holds later accesses until earlier writes are performed at the scope, and discards fetch lines. -/
  | fence (scope : Scope)
  /-- TRAP (R93): Posts a software event to the supervisor and stops the sequencer at the next word. -/
  | trap (a : Reg)
  /-- JR (R76): Sets spt to x[xa][59:0]. -/
  | jr (a : Reg)
  /-- ADDI (R71): Writes x[xa] plus the sign-extended immediate. -/
  | addi (d a : Reg) (imm : BitVec 16)
  /-- ANDI (R71): Writes x[xa] AND the zero-extended immediate. -/
  | andi (d a : Reg) (imm : BitVec 16)
  /-- ORI (R71): Writes x[xa] OR the zero-extended immediate. -/
  | ori (d a : Reg) (imm : BitVec 16)
  /-- XORI (R71): Writes x[xa] XOR the zero-extended immediate. -/
  | xori (d a : Reg) (imm : BitVec 16)
  /-- SHLI (R71): Writes x[xa] shifted left by imm[5:0]. -/
  | shli (d a : Reg) (sh : BitVec 6)
  /-- SHRI (R71): Writes x[xa] shifted logically right by imm[5:0]. -/
  | shri (d a : Reg) (sh : BitVec 6)
  /-- SARI (R71): Writes x[xa] shifted arithmetically right by imm[5:0]. -/
  | sari (d a : Reg) (sh : BitVec 6)
  /-- SLTI (R71): Writes 1 if x[xa] is less than the sign-extended immediate, else 0. -/
  | slti (d a : Reg) (imm : BitVec 16)
  /-- LIH (R72): Replaces one 16-bit quarter of x[xd] and keeps the rest. -/
  | lih (d : Reg) (q : BitVec 2) (imm : BitVec 16)
  /-- BFX (R73): Extracts a bit field of x[xa] and sign-extends it. -/
  | bfx (d a : Reg) (pos widthM1 : BitVec 6)
  /-- BFXU (R73): Extracts a bit field of x[xa] and zero-extends it. -/
  | bfxu (d a : Reg) (pos widthM1 : BitVec 6)
  /-- BFI (R73): Inserts the low bits of x[xa] into a field of x[xd]. -/
  | bfi (d a : Reg) (pos widthM1 : BitVec 6)
  /-- MFS (R67): Reads a system register into x[xd]. -/
  | mfs (d : Reg) (r : SysReg)
  /-- MTS (R67): Writes x[xa][31:0] to a writable system register, IC0-IC3 or CPNL. -/
  | mts (r : SysReg) (a : Reg)
  /-- WAITK (R92): Stalls until no scoreboard token in the mask is pending. -/
  | waitk (mask : BitVec 8)
  /-- LDB (R79): Loads one byte from virtual memory and zero-extends it. -/
  | ldb (d a : Reg) (off : BitVec 16)
  /-- LDH (R79): Loads two bytes and zero-extends them. -/
  | ldh (d a : Reg) (off : BitVec 16)
  /-- LDW (R79): Loads four bytes and zero-extends them. -/
  | ldw (d a : Reg) (off : BitVec 16)
  /-- LDD (R79): Loads eight bytes. -/
  | ldd (d a : Reg) (off : BitVec 16)
  /-- STB (R79): Stores the low byte of the data register. -/
  | stb (v a : Reg) (off : BitVec 16)
  /-- STH (R79): Stores the low two bytes of the data register. -/
  | sth (v a : Reg) (off : BitVec 16)
  /-- STW (R79): Stores the low four bytes of the data register. -/
  | stw (v a : Reg) (off : BitVec 16)
  /-- STD (R79): Stores eight bytes of the data register. -/
  | std (v a : Reg) (off : BitVec 16)
  /-- LDP (R81): Synchronising acquire read of a SYNC word, deferred while the word is empty. -/
  | ldp (d a : Reg) (off : BitVec 16)
  /-- STP (R82): Package-scope release write that fills an empty SYNC word. -/
  | stp (v a : Reg) (off : BitVec 16)
  /-- CLRP (R83): Sets a SYNC word empty with value zero. -/
  | clrp (a : Reg) (off : BitVec 16)
  /-- BEQ (R74): Branches when the two registers are equal. -/
  | beq (a b : Reg) (off : BitVec 16)
  /-- BNE (R74): Branches when the two registers differ. -/
  | bne (a b : Reg) (off : BitVec 16)
  /-- BLT (R74): Branches when x[xa] < x[xb] as signed values. -/
  | blt (a b : Reg) (off : BitVec 16)
  /-- BGE (R74): Branches when x[xa] >= x[xb] as signed values. -/
  | bge (a b : Reg) (off : BitVec 16)
  /-- BLTU (R74): Branches when x[xa] < x[xb] as unsigned values. -/
  | bltu (a b : Reg) (off : BitVec 16)
  /-- BGEU (R74): Branches when x[xa] >= x[xb] as unsigned values. -/
  | bgeu (a b : Reg) (off : BitVec 16)
  /-- LOOPD (R75): Counts an iteration counter down and branches while it is nonzero. -/
  | loopd (n : BitVec 2) (off : BitVec 16)
  /-- JMP (R76): Jumps by the 26-bit word offset. -/
  | jmp (off : BitVec 26)
  /-- JAL (R76): Writes the next word's address to x31 and jumps. -/
  | jal (off : BitVec 26)
  /-- CMD (R90): Waits on the mask and token, then enqueues a 128-bit stream command, stalling while the queue is full. -/
  | cmd (c : Qc)
  /-- CMDNB (R90): Enqueues a stream command, or writes status 1 to xs when the queue is full. -/
  | cmdnb (c : Qc)
  /-- FADD (R136): Element firing that adds two operands lane by lane with one rounding. -/
  | fadd (sl : Slot)
  /-- FSUB (R136): Element firing that subtracts with one rounding. -/
  | fsub (sl : Slot)
  /-- FMUL (R136): Element firing that multiplies with one rounding. -/
  | fmul (sl : Slot)
  /-- FFMA (R136): Element firing that forms a × b + c with a single rounding. -/
  | ffma (sl : Slot)
  /-- FMIN (R136): Element firing giving the floating-point minimum by R120. -/
  | fmin (sl : Slot)
  /-- FMAX (R136): Element firing giving the floating-point maximum by R120. -/
  | fmax (sl : Slot)
  /-- FCMP (R138): Element firing that writes all ones where a comparison predicate holds. -/
  | fcmp (sl : Slot)
  /-- FRND (R139): Element firing that rounds each value to an integer under the mode. -/
  | frnd (sl : Slot)
  /-- FEXPX (R139): Element firing that writes floor(log2 |a|). -/
  | fexpx (sl : Slot)
  /-- FEXPI (R139): Element firing that scales a by 2^n with one rounding. -/
  | fexpi (sl : Slot)
  /-- FEXP2F (R140): Element firing computing 2^a on [-0.5, 0.5] as a fixed function. -/
  | fexp2f (sl : Slot)
  /-- FRCP (R140): Element firing computing the reciprocal within one neighbour. -/
  | frcp (sl : Slot)
  /-- FRSQ (R140): Element firing computing the reciprocal square root within one neighbour. -/
  | frsq (sl : Slot)
  /-- FCLAS (R138): Element firing writing a one-hot class mask. -/
  | fclas (sl : Slot)
  /-- IADD (R141): Integer element firing: a + b, wrapped or saturated. -/
  | iadd (sl : Slot)
  /-- ISUB (R141): Integer element firing: a - b. -/
  | isub (sl : Slot)
  /-- IMUL (R141): Integer element firing: a × b. -/
  | imul (sl : Slot)
  /-- IMAD (R141): Integer element firing: a × b + c. -/
  | imad (sl : Slot)
  /-- IMIN (R141): Integer element firing: minimum. -/
  | imin (sl : Slot)
  /-- IMAX (R141): Integer element firing: maximum. -/
  | imax (sl : Slot)
  /-- IAND (R141): Element firing: bitwise AND. -/
  | iand (sl : Slot)
  /-- IOR (R141): Element firing: bitwise OR. -/
  | ior (sl : Slot)
  /-- IXOR (R141): Element firing: bitwise XOR. -/
  | ixor (sl : Slot)
  /-- ISHL (R141): Integer element firing: shift left. -/
  | ishl (sl : Slot)
  /-- ISHR (R141): Integer element firing: logical shift right. -/
  | ishr (sl : Slot)
  /-- ISAR (R141): Integer element firing: arithmetic shift right. -/
  | isar (sl : Slot)
  /-- ICMP (R141): Integer element firing: all ones where the predicate holds. -/
  | icmp (sl : Slot)
  /-- ICLZ (R141): Integer element firing: leading zeros within the element width. -/
  | iclz (sl : Slot)
  /-- IPOPC (R141): Integer element firing: count of set bits. -/
  | ipopc (sl : Slot)
  /-- ISEL (R141): Element firing: selects a where c is nonzero, else b. -/
  | isel (sl : Slot)
  /-- CVT (R142): Element firing that converts tokens between formats at a fixed token ratio. -/
  | cvt (sl : Slot)
  /-- QNT4 (R143): Element firing that quantises six FP32 tokens into one Block-4 group. -/
  | qnt4 (sl : Slot)
  /-- DQN4 (R144): Element firing that decodes one Block-4 group. -/
  | dqn4 (sl : Slot)
  /-- BFLY (R145): Element firing that performs one butterfly stage. -/
  | bfly (sl : Slot)
  /-- RSUM (R146): Element firing that sums a token's elements in a fixed tree, optionally by segment. -/
  | rsum (sl : Slot)
  /-- RMAX (R146): Element firing that reduces a token to its maximum. -/
  | rmax (sl : Slot)
  /-- RMIN (R146): Element firing that reduces a token to its minimum. -/
  | rmin (sl : Slot)
  /-- SCAN (R147): Element firing that forms an inclusive prefix carried across a level-1 fibre. -/
  | scan (sl : Slot)
  /-- INTSC (R148): Element firing that intersects two pair streams by coordinate. -/
  | intsc (sl : Slot)
  /-- UNION (R148): Element firing that unites two pair streams by coordinate. -/
  | union (sl : Slot)
  /-- FILT (R149): Element firing that forwards or drops tokens by a test. -/
  | filt (sl : Slot)
  /-- STOPG (R150): Element firing that inserts a stop after every n DATA tokens. -/
  | stopg (sl : Slot)
  /-- STOPX (R151): Element firing that removes stop levels. -/
  | stopx (sl : Slot)
  /-- CNT (R152): Element firing that counts the DATA tokens of each level-1 fibre. -/
  | cnt (sl : Slot)
  /-- ROUTE (R153): Element firing that sends each DATA token to one selected output. -/
  | route (sl : Slot)
  /-- MUX (R154): Element firing that forwards the head of the input a selector chooses. -/
  | mux (sl : Slot)
  /-- DUP (R155): Element firing that repeats each DATA token m times on every output. -/
  | dup (sl : Slot)
  /-- HOLD (R156): Element firing that latches a token and re-emits it per trigger. -/
  | hold (sl : Slot)
  /-- ACCU (R157): Element firing that accumulates a pair into the element store. -/
  | accu (sl : Slot)
  /-- DRN (R158): Element firing that drains the accumulator in ascending coordinate, or discards data in stream mode. -/
  | drn (sl : Slot)
  /-- TLDI (R159): Element firing that writes tl from a tile token or one row. -/
  | tldi (sl : Slot)
  /-- TRD (R160): Element firing that emits ta or one row of it on a trigger. -/
  | trd (sl : Slot)
  /-- TTR (R161): Element firing that writes the transpose of ta into tl. -/
  | ttr (sl : Slot)
  /-- XPND (R162): Element firing that emits the fret-bank expansion of its input. -/
  | xpnd (sl : Slot)
  /-- MMA (R173): Matrix firing that adds A × B of a selected weight entry into an accumulator. -/
  | mma (sl : Slot)
  /-- MMAS (R174): Matrix firing whose B entry is selected by data on in1. -/
  | mmas (sl : Slot)
  /-- MMZ (R177): Matrix firing that zeroes an accumulator and empties its tag. -/
  | mmz (sl : Slot)
  /-- MRD (R176): Matrix firing that reads an accumulator out as a tile token at a control token. -/
  | mrd (sl : Slot)
  /-- MSCL (R177): Matrix firing that scales an accumulator column by column. -/
  | mscl (sl : Slot)
  /-- CONST (R163): Element firing that emits the immediate for each DATA token. -/
  | const (sl : Slot)
  /-- ITER (R163): Source firing that emits iteration tokens and then EOS after GO. -/
  | iter (sl : Slot)
  /-- SINK (R163): Element firing that consumes every token of in0. -/
  | sink (sl : Slot)
  /-- XLT (R335): AGE firing that translates eight virtual addresses and emits the results as data. -/
  | xlt (sl : Slot)
  /-- CHANNEL_DELIVERY (R290): A token arrives in order at its destination input after its route. -/
  | channelDelivery (elem entry : Nat)
  /-- SLD1 (R238): Streams a depth-1 shape from memory to an output port. -/
  | sld1 (c : Cmd)
  /-- SLD2 (R238): Streams a depth-2 shape, taking its shape word from the queue. -/
  | sld2 (c : Cmd)
  /-- SLD3 (R238): Streams a depth-3 shape, taking its shape word from the queue. -/
  | sld3 (c : Cmd)
  /-- SST1 (R239): Stores an input stream into a depth-1 shape. -/
  | sst1 (c : Cmd)
  /-- SST2 (R239): Stores an input stream into a depth-2 shape. -/
  | sst2 (c : Cmd)
  /-- SST3 (R239): Stores an input stream into a depth-3 shape. -/
  | sst3 (c : Cmd)
  /-- GATH (R240): Reads elements by index tokens and emits them in arrival order. -/
  | gath (c : Cmd)
  /-- SCAT (R241): Writes the value of each arriving pair to its coordinate's word. -/
  | scat (c : Cmd)
  /-- SCAD (R241): Combines the value of each arriving pair into its coordinate's word. -/
  | scad (c : Cmd)
  /-- BMLD (R242): Streams BM128 chunks densely or as pairs. -/
  | bmld (c : Cmd)
  /-- BLKX (R243): Expands a block table row by row as pair runs. -/
  | blkx (c : Cmd)
  /-- COPY (R244): Moves len bytes within one space, granule by granule. -/
  | copy (c : Cmd)
  /-- CPMS (R245): Copies contiguous memory to an output port. -/
  | cpms (c : Cmd)
  /-- CPSM (R245): Copies arriving tokens to consecutive memory bytes. -/
  | cpsm (c : Cmd)
  /-- CPSS (R245): Forwards tokens from an input port to an output port. -/
  | cpss (c : Cmd)
  /-- TARM (R342): Arms a copy template from a parameter block and binds its trigger queue. -/
  | tarm (c : Cmd)
  /-- TDIS (R343): Disarms a template and unbinds its trigger queue. -/
  | tdis (c : Cmd)
  /-- TFIR (R246): Fires an armed template as its trigger would. -/
  | tfir (c : Cmd)
  /-- AMOS (R247): Applies a 32-bit atomic for each arriving pair, optionally emitting the old values. -/
  | amos (c : Cmd)
  /-- TFIL (R248): Fills an empty scratch tile from memory. -/
  | tfil (c : Cmd)
  /-- TDRN (R248): Drains a ready scratch tile to memory. -/
  | tdrn (c : Cmd)
  /-- PREF (R249): Requests fills of lines, dropping any that cannot be filled. -/
  | pref (c : Cmd)
  /-- LOCK (R250): Locks lines in the issuing die's L2 and replies with counts. -/
  | lock (c : Cmd)
  /-- UNLK (R250): Releases the job's locked lines of a range. -/
  | unlk (c : Cmd)
  /-- FLSH (R251): Writes back dirty sectors of lines, optionally invalidating them. -/
  | flsh (c : Cmd)
  /-- XINV (R336): Purges translations and stream-buffer lines of a range and waits for accesses under them. -/
  | xinv (c : Cmd)
  /-- XPRE (R337): Walks and installs translations of a range. -/
  | xpre (c : Cmd)
  /-- FNEW (R262): Writes a new empty valid fibre head. -/
  | fnew (c : Cmd)
  /-- FMRG (R262): Merges one run of pairs from memory into a fibre. -/
  | fmrg (c : Cmd)
  /-- FMRG_PORT (R262): Merges each level-1 run of pair tokens from an input port into a fibre. -/
  | fmrgPort (c : Cmd)
  /-- FSCN (R265): Scans the pairs of one or more fibres in ascending coordinate. -/
  | fscn (c : Cmd)
  /-- FPRB (R266): Answers each arriving coordinate with a probe token. -/
  | fprb (c : Cmd)
  /-- FTOP (R267): Emits the k pairs with the greatest values. -/
  | ftop (c : Cmd)
  /-- FCNT (R268): Replies with the fibre's pair count. -/
  | fcnt (c : Cmd)
  /-- FCLR (R269): Empties a fibre and bumps its version. -/
  | fclr (c : Cmd)
  /-- FFRE (R269): Empties a fibre and clears its valid bit. -/
  | ffre (c : Cmd)
  /-- VOXL (R275): Voxelises points, dilates sites or finds neighbour sites through fibre merges and probes. -/
  | voxl (c : Cmd)
  /-- BKLD (R281): Checks and loads a bank program into the job's slot in every stack. -/
  | bkld (c : Cmd)
  /-- BKRN (R283): Runs the job's bank program once in every bank of a range. -/
  | bkrn (c : Cmd)
  /-- BKRL (R283): Runs the bank program once per DATA token on an input port. -/
  | bkrl (c : Cmd)
  /-- CBLD (R346): Loads a fret bank from memory and optionally emits a swap token. -/
  | cbld (c : Cmd)
  /-- BROW (R284): Releases any held row, waits for the pending queue, and opens a range row. -/
  | brow (row : BitVec 15)
  /-- BLDK (R284): Sets the key register. -/
  | bldk (v : BitVec 32)
  /-- BLDM (R284): Sets the mask register. -/
  | bldm (v : BitVec 32)
  /-- BTT (R284): Row pass that applies a 3-input truth table to bits of tagged columns. -/
  | btt (a b c out : BitVec 5) (table : BitVec 8)
  /-- BSHF (R284): Shifts the tag vector by n columns. -/
  | bshf (n : BitVec 10)
  /-- EVENT_RECORD_POST (R387): A 32-byte event record is written to the job's event ring once there is room, and MSI-X is signalled. -/
  | eventRecordPost (job : Nat)
  /-- EVENT_RING_CONTROL_WRITE (R387): The supervisor writes the ring head or clears the pending bit. -/
  | eventRingControlWrite (vf box : Nat) (v : Word)
  /-- CANCEL_LAUNCH (R367): Cancel register operation that cancels one launch node. -/
  | cancelLaunch (job node : Nat)
  /-- CANCEL_GRAPH (R367): Cancel register operation that cancels the job's graph. -/
  | cancelGraph (job : Nat)
  /-- CANCEL_PHASE (R367): Cancel register operation that cancels the current phase. -/
  | cancelPhase (job : Nat)
  /-- CANCEL_JOB (R367): Cancel register operation that cancels the job. -/
  | cancelJob (job : Nat)
  /-- MAILBOX_WRITE (R384): The host writes a job record pointer into a job mailbox. -/
  | mailboxWrite (vf box : Nat) (v : Word)
  /-- JOB_RESIDENCY (R386): The scheduler reads the job record and makes the job resident with its windows, or refuses it. -/
  | jobResidency (vf box : Nat)
  /-- PRIORITY_AGING (R24): A waiting job gains one level of effective priority after each 4 ms. -/
  | priorityAging (job : Nat)
  /-- ALLOCATOR_PLACEMENT (R25): The allocator places a replica's page set at the lowest free rectangle, or moves a set. -/
  | allocatorPlacement (act : PlacementAct)
  /-- PREEMPTION_REQUEST (R35): The scheduler chooses placed jobs to pre-empt for a higher-priority waiting job. -/
  | preemptionRequest (job : Nat)
  /-- STEP_DEADLINE_EXPIRY (R36): The step pre-emption deadline passes without a phase boundary, so the job halts at once. -/
  | stepDeadlineExpiry (job : Nat)
  /-- CONTEXT_RESTORE (R203): A saved strand is placed, reloaded, checked and restarted. -/
  | contextRestore (job index die : Nat)
  /-- GRAPH_LAUNCH_NODE (R350): The graph engine waits for producers, allocates edge buffers and makes a launch runnable or resumes it. -/
  | graphLaunchNode (job : Nat)
  /-- GRAPH_CONDITIONAL_NODE (R350): The engine reads and empties a full predicate and chooses a successor. -/
  | graphConditionalNode (job : Nat)
  /-- GRAPH_LOOP_NODE (R350): The engine waits for quiet, reads the predicate, ends the phase and re-arms or exits. -/
  | graphLoopNode (job : Nat)
  /-- GRAPH_END_NODE (R350): The engine waits as a loop node, halts carried replicas and completes the graph. -/
  | graphEndNode (job : Nat)
  /-- PHASE_COMPLETION (R368): A phase completes when its launch counter is zero and its root is quiet. -/
  | phaseCompletion (job : Nat)
  /-- EDGE_BUFFER_FREE (R221): An edge buffer is freed and zeroed once its consumers emitted EOS and their reads completed. -/
  | edgeBufferFree (job edge : Nat)
  /-- PANEL_ZEROING (R222): A freed page set is zeroed and reported free once every write to it is performed. -/
  | panelZeroing (panel : Nat)
  /-- CHUNK_RELEASE (R271): Old fibre chunks are zeroed and pushed on the free list once earlier registrations end. -/
  | chunkRelease (unit : Nat)
  /-- TEMPLATE_FIRING (R344): An armed template fires its snapshot command on a trigger message. -/
  | templateFiring (t : Nat)
  /-- TEMPLATE_DONE_PUSH (R344): A completed template firing pushes its number to the done queue once there is room. -/
  | templateDonePush (t : Nat)
  /-- DEPART (R315): A request leaves its issue queue when no earlier overlapping request or ordering holds it. -/
  | depart (req : Nat)
  /-- REACH_DIE_POINT (R315): A departed write reaches the die point and is performed at die scope. -/
  | reachDiePoint (req : Nat)
  /-- SEND_HOME (R315): A dirty sector or home-bound request joins the home queue. -/
  | sendHome (what : SendWhat)
  /-- SERIALISE (R315): The home applies its oldest request, dropping every die-point copy of the line. -/
  | serialise (req : Nat)
  /-- READ (R315): A departed read returns from the stream buffer, die point or home. -/
  | read (req : Nat)
  /-- DROP (R315): A stream buffer or die point drops a clean line or writes back a dirty sector. -/
  | drop (what : DropWhat)
  /-- DEFER (R220): A synchronising read of an empty SYNC word joins its deferral set. -/
  | defer (req : Nat)
  /-- DEFERRED_READ_RESEND (R220): A read refused by a full deferral table is resent after 64 memory-side cycles. -/
  | deferredReadResend (req : Nat)
  /-- MERGE (R326): A stitch unit applies one whole merge at the head of its queue. -/
  | merge (unit : Nat)
  /-- BRIDLE_CONTROL_WRITE (R181): A write to bridle control resets both counters and starts a new window. -/
  | bridleControlWrite (age : Nat) (v : Word)
  /-- POWER_LIMIT_WRITE (R396): Management firmware writes the bridle power-limit budget. -/
  | powerLimitWrite (age : Nat) (p : BitVec 16)
  /-- LINK_DOWN (R389): A link that fails beyond replay goes down and freezes its regions. -/
  | linkDown (link : Nat)
  /-- FLIT_REPLAY (R388): The link layer replays a flit that fails its CRC. -/
  | flitReplay (link : Nat)
  /-- PACKAGE_RESET (R390): The boot ROM checks and measures the firmware image and starts the security processor. -/
  | packageReset (flash : FlashImage)
  /-- RECOVERY_IMAGE (R390): In recovery, the DOE mailbox accepts, checks and writes a new firmware image. -/
  | recoveryImage (image : FlashImage)
  /-- SPDM_REQUEST (R391): An SPDM request over DOE is answered with certificates or signed measurements. -/
  | spdmRequest (req : SpdmReq)
  /-- FUNCTION_LEVEL_RESET (R383): A VF reset cancels its jobs, empties its mailboxes and clears its ring controls. -/
  | functionLevelReset (fn : Nat)
  /-- HOST_WINDOW_ACCESS (R383): A host access through a function's memory window, all ones outside windows or on marked pages. -/
  | hostWindowAccess (acc : WindowAccess)
  /-- KEY_SLOT_WRITE (R392): The security processor writes a key slot on a secured command. -/
  | keySlotWrite (k : KeyCommand)
  /-- TOOLING_DESCRIPTOR (R394): The tooling unit processes one descriptor, marking luma blocks into an output buffer. -/
  | toolingDescriptor (vf : Nat)
  /-- CHIP_WINDOW_WRITE (R208): A write to a chip-scratch window register, ignored on overlap and zeroing entering units. -/
  | chipWindowWrite (die slot : Nat) (v : Word)
  /-- FRAME_GROUP_MODE_WRITE (R215): A write that changes a frame group's mode zeroes the whole group. -/
  | frameGroupModeWrite (group : Nat) (linear : Bool)
  /-- REGISTER_WRITE (R184): A system-software write to a register that has no row of its own. -/
  | registerWrite (r : RegTarget) (v : BitVec 512)
  /-- ILLEGAL_INSTRUCTION (R46): A fetched sequencer word with an unassigned op or fn, or a nonzero must-be-zero field, raises a precise illegal-instruction fault and freezes the strand. -/
  | illegalInstruction (w : BitVec 32)
  /-- COMMAND_DECODE_FAULT (R59): A stream command with an unassigned op reaches the head of its AGE queue, is held there with class 1, and the region freezes. -/
  | commandDecodeFault (raw : BitVec 128)
  /-- JOB_LEAVING_RESIDENCY (R366): A complete or cancelled job leaves residency, freeing its slot, chip windows, locked lines, queues, barriers, bank program slot and translation root. -/
  | jobLeavingResidency (job : Nat)
  /-- CFGGO (R88): Issues GO to every element of the last load that has not yet received it. -/
  | cfggo
  /-- CFGNX (R89): Steps to the next configuration record, or halts when there is none. -/
  | cfgnx
  /-- CFGWT (R86): Stalls the sequencer until the current configuration is drained. -/
  | cfgwt
  /-- YIELD (R19): In a carried launch, waits for the drain and returns w as the phase yield; otherwise acts as NOP. -/
  | yield
  /-- SNAP (R381): Fires the common snapshot trigger for the job's blocks. -/
  | snap
  /-- HALT (R95): Waits for the drain, the tokens and the writes, returns w, and completes the strand. -/
  | halt
  /-- NOP (R94): Advances spt by 4 and does nothing else. -/
  | nop
  /-- TILE_EXCHANGE (R135): The element takes an XCHG token and swaps ta and tl with their flags. -/
  | tileExchange
  /-- FRET_SWAP (R135): The element takes a fret swap token and changes the active fret bank. -/
  | fretSwap
  /-- COMMAND_COMPLETION (R225): A command completes, writes its reply register and clears its scoreboard token. -/
  | commandCompletion
  /-- SPILL_DRAIN_ATTEMPT (R309): Every 256 cycles the oldest spilled write is translated afresh and issued if it passes. -/
  | spillDrainAttempt
  /-- BREL (R284): Releases the held row and drains the pending queue. -/
  | brel
  /-- BCMP (R284): Row pass that tags columns matching the key under the mask. -/
  | bcmp
  /-- BCMPA (R284): Row pass that ANDs the match into the tags. -/
  | bcmpa
  /-- BCMPO (R284): Row pass that ORs the match into the tags. -/
  | bcmpo
  /-- BWR (R284): Row pass that writes the key under the mask into tagged columns. -/
  | bwr
  /-- BTSET (R284): Sets every tag. -/
  | btset
  /-- BTCLR (R284): Clears every tag. -/
  | btclr
  /-- BTNOT (R284): Inverts every tag. -/
  | btnot
  /-- BCNT (R284): Sets the result to the number of set tags. -/
  | bcnt
  /-- BFST (R284): Sets the result to the lowest set tag. -/
  | bfst
  /-- BEND (R284): Releases any held row and ends the bank run. -/
  | bend
  /-- REFRESH (R287): A DRAM refresh takes place between bank passes. -/
  | refresh
  /-- RETRY (R192): Region command that clears fault registers and resumes every item of a frozen region without replay. -/
  | retry
  /-- RESUME (R191): Region command that clears the trap stop so the sequencer issues from spt. -/
  | resume
  /-- FREEZE (R189): Region command that starts the freeze with no fault recorded. -/
  | freeze
  /-- CANCEL (R18): Region command that cancels the strand. -/
  | cancel
  /-- REGION_FROZEN (R189): The region becomes frozen once no firing is in flight and no slot is ready. -/
  | regionFrozen
  /-- HANG_DECLARATION (R194): The quiet count reaches the interval with a token held, so the region freezes. -/
  | hangDeclaration
  /-- LAUNCH_LOAD (R26): The loader checks rates, races and rights, loads the ECWs and starts the strand. -/
  | launchLoad
  /-- PREEMPTION_HALT (R198): The pre-emption halt completes: sources stopped, firings and writes drained, state 3. -/
  | preemptionHalt
  /-- CONTEXT_SAVE (R201): A compact or full context record is written after the halt. -/
  | contextSave
  /-- SCAN_STEP (R326): A scan or probe reads one chunk single-copy atomically. -/
  | scanStep
  /-- BRIDLE_ADMISSION (R182): The token at a metered port is admitted when the window budget allows. -/
  | bridleAdmission
  /-- BRIDLE_WINDOW_END (R181): The bridle window counter reaches W and the admitted count resets. -/
  | bridleWindowEnd
  /-- SNAPSHOT_LATCH (R381): At cycle T every block of the snapshot latches its shadows. -/
  | snapshotLatch
  /-- SNAPSHOT_EXTERNAL_TRIGGER (R381): A host trigger schedules a package-wide snapshot 64 cycles later. -/
  | snapshotExternalTrigger
  /-- CRITICAL_TEMPERATURE (R396): At the critical temperature firmware freezes every region. -/
  | criticalTemperature
  /-- HARDWARE_TRIP (R396): Beyond the critical temperature a hardware trip removes power. -/
  | hardwareTrip
  /-- FETCH_FAULT (R77): The word at spt cannot be fetched because its page is unmapped, invalid, FIBRE or SYNC, or not readable, so a precise fetch fault is raised there. -/
  | fetchFault
  deriving DecidableEq, Repr, Inhabited

end Sys2Proof
end

