-- ==== Sys2Proof/WellFormed.lean ====
section
/-!
DEFINITION. Which instructions are well formed: the limits that the encodings of R42-R49, R57-R61 and the forms' own
rules put on the fields. What depends on the element's kind or format is the loader's (Machine/Loader.lean).
-/

namespace Sys2Proof

/-- R50: the opcode of a slot's instruction, with its fields. -/
def Instr.slotCode : Instr → Option (Nat × Slot)
  | .fadd sl => some (0x10, sl)
  | .fsub sl => some (0x11, sl)
  | .fmul sl => some (0x12, sl)
  | .ffma sl => some (0x13, sl)
  | .fmin sl => some (0x14, sl)
  | .fmax sl => some (0x15, sl)
  | .fcmp sl => some (0x16, sl)
  | .frnd sl => some (0x17, sl)
  | .fexpx sl => some (0x18, sl)
  | .fexpi sl => some (0x19, sl)
  | .fexp2f sl => some (0x1A, sl)
  | .frcp sl => some (0x1B, sl)
  | .frsq sl => some (0x1C, sl)
  | .fclas sl => some (0x1D, sl)
  | .iadd sl => some (0x20, sl)
  | .isub sl => some (0x21, sl)
  | .imul sl => some (0x22, sl)
  | .imad sl => some (0x23, sl)
  | .imin sl => some (0x24, sl)
  | .imax sl => some (0x25, sl)
  | .iand sl => some (0x26, sl)
  | .ior sl => some (0x27, sl)
  | .ixor sl => some (0x28, sl)
  | .ishl sl => some (0x29, sl)
  | .ishr sl => some (0x2A, sl)
  | .isar sl => some (0x2B, sl)
  | .icmp sl => some (0x2C, sl)
  | .iclz sl => some (0x2D, sl)
  | .ipopc sl => some (0x2E, sl)
  | .isel sl => some (0x2F, sl)
  | .cvt sl => some (0x30, sl)
  | .qnt4 sl => some (0x31, sl)
  | .dqn4 sl => some (0x32, sl)
  | .bfly sl => some (0x33, sl)
  | .rsum sl => some (0x38, sl)
  | .rmax sl => some (0x39, sl)
  | .rmin sl => some (0x3A, sl)
  | .scan sl => some (0x3B, sl)
  | .intsc sl => some (0x40, sl)
  | .union sl => some (0x41, sl)
  | .filt sl => some (0x42, sl)
  | .stopg sl => some (0x43, sl)
  | .stopx sl => some (0x44, sl)
  | .cnt sl => some (0x45, sl)
  | .route sl => some (0x46, sl)
  | .mux sl => some (0x47, sl)
  | .dup sl => some (0x48, sl)
  | .hold sl => some (0x49, sl)
  | .accu sl => some (0x4A, sl)
  | .drn sl => some (0x4B, sl)
  | .tldi sl => some (0x50, sl)
  | .trd sl => some (0x51, sl)
  | .ttr sl => some (0x52, sl)
  | .xpnd sl => some (0x53, sl)
  | .mma sl => some (0x60, sl)
  | .mmas sl => some (0x61, sl)
  | .mmz sl => some (0x62, sl)
  | .mrd sl => some (0x63, sl)
  | .mscl sl => some (0x64, sl)
  | .const sl => some (0x70, sl)
  | .iter sl => some (0x71, sl)
  | .sink sl => some (0x72, sl)
  | .xlt sl => some (0x80, sl)
  | _ => none

/-- R58: the op of a stream command, with its fields. The port form of `FMRG` shares op 0x41. -/
def Instr.cmdCode : Instr → Option (Nat × Cmd)
  | .sld1 c => some (0x01, c)
  | .sld2 c => some (0x02, c)
  | .sld3 c => some (0x03, c)
  | .sst1 c => some (0x05, c)
  | .sst2 c => some (0x06, c)
  | .sst3 c => some (0x07, c)
  | .gath c => some (0x10, c)
  | .scat c => some (0x11, c)
  | .scad c => some (0x12, c)
  | .bmld c => some (0x13, c)
  | .blkx c => some (0x14, c)
  | .copy c => some (0x20, c)
  | .cpms c => some (0x21, c)
  | .cpsm c => some (0x22, c)
  | .cpss c => some (0x23, c)
  | .tarm c => some (0x24, c)
  | .tdis c => some (0x25, c)
  | .tfir c => some (0x26, c)
  | .amos c => some (0x28, c)
  | .tfil c => some (0x2C, c)
  | .tdrn c => some (0x2D, c)
  | .pref c => some (0x30, c)
  | .lock c => some (0x31, c)
  | .unlk c => some (0x32, c)
  | .flsh c => some (0x33, c)
  | .xinv c => some (0x38, c)
  | .xpre c => some (0x39, c)
  | .fnew c => some (0x40, c)
  | .fmrg c => some (0x41, c)
  | .fscn c => some (0x42, c)
  | .fprb c => some (0x43, c)
  | .ftop c => some (0x44, c)
  | .fcnt c => some (0x45, c)
  | .fclr c => some (0x46, c)
  | .ffre c => some (0x47, c)
  | .voxl c => some (0x48, c)
  | .bkld c => some (0x50, c)
  | .bkrn c => some (0x51, c)
  | .bkrl c => some (0x52, c)
  | .cbld c => some (0x58, c)
  | .fmrgPort c => some (0x41, c)
  | _ => none

/-- R65: the number of a system register. -/
def SysReg.code : SysReg → Nat
  | .sqid => 0x000 | .jobn => 0x001 | .rpli => 0x002 | .rpln => 0x003 | .cyc => 0x004
  | .cpc => 0x008 | .spt => 0x009 | .ic n => 0x010 + n.toNat | .wgt => 0x018 | .proot => 0x019
  | .kpend => 0x020 | .cpnl => 0x021

/-- R65: only `IC0`-`IC3` and `CPNL` may be written. -/
def SysReg.writable : SysReg → Bool
  | .ic _ => true
  | .cpnl => true
  | _ => false

/-- R312: the code of a scope. -/
def Scope.code : Scope → Nat
  | .panel => 0 | .cluster => 1 | .die => 2 | .package => 3 | .system => 4

/-- R47, R136-R163, R173-R177, R335: which of in0, in1, in2 the form of an opcode uses. -/
def slotUses (code : Nat) (sl : Slot) : Bool × Bool × Bool :=
  if code = 0x13 ∨ code = 0x23 ∨ code = 0x2F ∨ code = 0x47 then (true, true, true)
  else if code = 0x10 ∨ code = 0x11 ∨ code = 0x12 ∨ code = 0x14 ∨ code = 0x15 ∨ code = 0x16 ∨ code = 0x19 ∨
      (0x20 ≤ code ∧ code ≤ 0x2C) ∨ code = 0x40 ∨ code = 0x41 ∨ code = 0x46 ∨ code = 0x49 ∨ code = 0x61 then
    (true, true, false)
  else if code = 0x42 then (true, sl.imm.toNat % 4 == 0, false)
  else if code = 0x63 then (true, sl.imm.toNat / 8 % 2 == 1, false)
  -- BFLY across two tokens names in1 and two outputs (R145)
  else if code = 0x33 then (true, sl.outmask.cpop.toNat == 2, false)
  else if code = 0x71 then (false, false, false)
  else (true, false, false)

/-- The operands that a slot's form uses. -/
def slotOperands (code : Nat) (sl : Slot) : List (BitVec 4) :=
  let u := slotUses code sl
  (if u.1 then [sl.in0] else []) ++ (if u.2.1 then [sl.in1] else []) ++ (if u.2.2 then [sl.in2] else [])

/-- R48: an operand field that the form does not use holds 0, and no operand code is unassigned. -/
def operandsOk (code : Nat) (sl : Slot) : Bool :=
  let u := slotUses code sl
  (u.1 || sl.in0 == 0) && (u.2.1 || sl.in1 == 0) && (u.2.2 || sl.in2 == 0) &&
  (slotOperands code sl).all (fun o => decide (o.toNat ≤ 11))

/-- Whether one of the used operands is code 9, the immediate. -/
def namesImm (code : Nat) (sl : Slot) : Bool := (slotOperands code sl).any (fun o => o == 9)

/-- R131: at least one operand names a channel; `ITER` is exempt. -/
def namesChannel (code : Nat) (sl : Slot) : Bool :=
  code == 0x71 || (slotOperands code sl).any (fun o => decide (o.toNat < 8))

/-- R49: whether the opcode rounds, so that a rounding other than 00 is accepted. -/
def rounds (code : Nat) : Bool :=
  code == 0x10 || code == 0x11 || code == 0x12 || code == 0x13 || code == 0x17 || code == 0x19 ||
  code == 0x30 || code == 0x31 || code == 0x32 || code == 0x33 || code == 0x38 || code == 0x3B || code == 0x64

/-- R49: whether the opcode accepts SAT. -/
def takesSat (code : Nat) : Bool :=
  code == 0x30 || code == 0x31 || code == 0x20 || code == 0x21 || code == 0x22 || code == 0x23 || code == 0x29

/-- R49, R131: whether the opcode accepts XI. -/
def takesXi (code : Nat) : Bool :=
  (decide (0x10 ≤ code) && decide (code ≤ 0x1C)) || code == 0x30 || code == 0x31 || code == 0x33 ||
  (decide (0x38 ≤ code) && decide (code ≤ 0x3B)) || code == 0x4A || code == 0x60 || code == 0x61

/-- R49: the mod field of a slot. -/
def modOk (code : Nat) (sl : Slot) : Bool :=
  (rounds code || sl.mod.toNat % 4 == 0) && (takesSat code || sl.mod.toNat / 4 % 2 == 0) &&
  (takesXi code || sl.mod.toNat / 8 == 0)

/-- R129: the forms that take a tile write; 11 is unassigned (R47). -/
def twOk (code : Nat) (sl : Slot) : Bool :=
  sl.tw == 0 || (sl.tw != 3 && ((decide (0x10 ≤ code) && decide (code ≤ 0x2F)) || code == 0x30 || code == 0x33 ||
    (decide (0x38 ≤ code) && decide (code ≤ 0x3B)) || code == 0x53))

/-- R128: a slot of the FP or integer forms with imm16[15] set and no immediate operand runs in pair mode. -/
def pairMode (code : Nat) (sl : Slot) : Bool :=
  decide (0x10 ≤ code) && decide (code ≤ 0x2F) && !namesImm code sl && decide (32768 ≤ sl.imm.toNat)

/-- R131: every imm16 bit that the form does not define is zero, and no refused parameter value appears. -/
def immOk (code : Nat) (sl : Slot) : Bool :=
  let i := sl.imm.toNat
  let lim (n : Nat) := decide (i < n)
  if code = 0x16 then i % 32768 < 8 && !namesImm code sl
  else if code = 0x2C then i % 32768 < 6 && !namesImm code sl
  else if 0x10 ≤ code ∧ code ≤ 0x2F then namesImm code sl || i % 32768 == 0
  else if code = 0x30 then (decide (1 ≤ i) && decide (i ≤ 6)) || (decide (0x10 ≤ i) && decide (i ≤ 0x14))
  else if code = 0x31 then i == 0
  else if code = 0x32 then lim 3
  else if code = 0x33 then lim 5
  else if code = 0x38 ∨ code = 0x39 ∨ code = 0x3A then lim 2
  else if code = 0x42 then lim 2
  else if code = 0x43 then decide (i / 4096 ≠ 0) && decide (i / 4096 < 4)
  else if code = 0x44 then decide (1 ≤ i) && lim 4
  else if code = 0x46 then (if sl.in1 = 9 then lim 256 else i == 0)
  else if code = 0x48 then lim 8
  else if code = 0x49 then lim 4
  else if code = 0x4A then decide (i / 4096 < 7)
  else if code = 0x4B then lim 4096 || i == 0x8000
  else if code = 0x50 then lim 32
  else if code = 0x51 then (i / 32 % 2 == 0) && lim 128
  else if code = 0x60 then lim 16384 && decide (i % 64 + (i / 64 % 64 + 1) ≤ 64)
  else if code = 0x61 then decide (i % 4096 = 0) && lim 16384
  else if code = 0x63 then lim 64 && decide (i / 16 ≠ 0)
  else if code = 0x62 ∨ code = 0x64 then lim 4
  else if code = 0x70 ∨ code = 0x71 then true
  else if code = 0x80 then lim 2
  else i == 0

/-- R131: the number of outputs that the form states; FP and integer forms need an output or a tile write. `ROUTE` needs one, since it sends each token to
one of its outputs; R153 states no lower limit in so many words (log 122). -/
def outsOk (code : Nat) (sl : Slot) : Bool :=
  let n := sl.outmask.cpop.toNat
  if 0x10 ≤ code ∧ code ≤ 0x2F then n ≠ 0 || sl.tw != 0
  else if code = 0x33 then decide (n = 2) || decide (n = 1)
  else if code = 0x40 ∨ code = 0x41 then decide (1 ≤ n) && decide (n ≤ 2)
  else if code = 0x46 then decide (1 ≤ n)
  else if code = 0x4A ∨ code = 0x52 ∨ code = 0x60 ∨ code = 0x61 ∨ code = 0x62 ∨ code = 0x64 ∨ code = 0x72 then n == 0
  else if code = 0x63 then decide (1 ≤ n)
  else if code = 0x80 then n == 1
  else true

/-- R131, R153: code 9 stands only where the form reads an immediate. -/
def immOperandOk (code : Nat) (sl : Slot) : Bool :=
  !namesImm code sl || (decide (0x10 ≤ code) && decide (code ≤ 0x2F) && code != 0x16 && code != 0x2C) ||
  (code == 0x46 && sl.in0 != 9)

/-- R173-R175: the operands that a matrix product takes: in0 of `MMA` is a channel, in0 of `MMAS` a channel or `ta` (with XI a channel),
in1 of `MMAS` a channel. Other forms take every operand code that R48 allows on the element's kind (log 96). -/
def channelFieldsOk (code : Nat) (sl : Slot) : Bool :=
  let ch (o : BitVec 4) := decide (o.toNat < 8)
  if code = 0x60 then ch sl.in0
  else if code = 0x61 then (ch sl.in0 || (sl.in0 == 8 && sl.mod.toNat / 8 == 0)) && ch sl.in1
  else true

/-- The static part of the slot rules of R47-R49, R56 and R131. -/
def slotOk (code : Nat) (sl : Slot) : Bool :=
  operandsOk code sl && namesChannel code sl && modOk code sl && twOk code sl && immOk code sl && outsOk code sl &&
  immOperandOk code sl && channelFieldsOk code sl && (!pairMode code sl || decide (sl.in0.toNat < 8))

/-- The low four bits of a port field. -/
def Cmd.portLow (c : Cmd) : Nat := c.port.toNat % 16
/-- Port bits [102:100], a second port number. -/
def Cmd.portMid (c : Cmd) : Nat := c.port.toNat / 16 % 8
/-- Port bit [103]. -/
def Cmd.portTop (c : Cmd) : Bool := decide (128 ≤ c.port.toNat)
/-- Flag [n]. -/
def Cmd.flag (c : Cmd) (n : Nat) : Bool := decide (c.flags.toNat / 2^n % 2 = 1)
/-- The element size in bytes (R57). -/
def Cmd.bytes (c : Cmd) : Nat := if c.size = 4 then 64 else 2 ^ c.size.toNat

/-- R230: whether the fused-operator code is assigned. -/
def fusedAssigned (f : Nat) : Bool :=
  f == 0 || (decide (1 ≤ f) && decide (f ≤ 4)) || f == 8 || (decide (0x10 ≤ f) && decide (f ≤ 0x13)) || decide (0x40 ≤ f)

/-- R230: reduce class. -/
def isReduce (f : Nat) : Bool := decide (1 ≤ f) && decide (f ≤ 4)
/-- R230: combine class. -/
def isCombine (f : Nat) : Bool := decide (0x10 ≤ f) && decide (f ≤ 0x13)
/-- R230: scale class. -/
def isScale (f : Nat) : Bool := decide (0x40 ≤ f) && decide (f ≤ 0x7F)
/-- R230: count class. -/
def isCount (f : Nat) : Bool := decide (0x80 ≤ f)

/-- R230: which fused operators an op accepts. -/
def fusedOk (op : Nat) (c : Cmd) : Bool :=
  let f := c.fused.toNat
  f == 0 ||
  (isReduce f && (decide (1 ≤ op) && decide (op ≤ 3) || op == 0x10) && c.size == 2) ||
  (f == 8 && decide (1 ≤ op) && decide (op ≤ 3) && c.size == 2) ||
  (isCombine f && (decide (5 ≤ op) && decide (op ≤ 7) || op == 0x12) && c.size == 2) ||
  (isScale f && (decide (1 ≤ op) && decide (op ≤ 7) || op == 0x10 || op == 0x11) && c.size == 2) ||
  (isCount f && (decide (5 ≤ op) && decide (op ≤ 7) || decide (0x20 ≤ op) && decide (op ≤ 0x23) ||
    op == 0x2C || op == 0x2D))

/-- R225, R260, R281, R283, R337, R346: the ops with a reply. -/
def hasReply (op : Nat) : Bool :=
  (decide (5 ≤ op) && decide (op ≤ 7)) || op == 0x22 || op == 0x26 || op == 0x31 || op == 0x32 || op == 0x39 ||
  (decide (0x40 ≤ op) && decide (op ≤ 0x48)) || (decide (0x50 ≤ op) && decide (op ≤ 0x52)) || op == 0x58

/-- R236-R251, R259, R281, R282, R336, R342-R346: the fields that an op's own description fixes. -/
def cmdFieldsOk (op : Nat) (port : Bool) (c : Cmd) : Bool :=
  let p := c.portLow
  let n := c.count.toNat
  let a := c.addr.toNat
  let sz := c.size.toNat
  let outPort := decide (c.port.toNat < 8)
  let inPort := decide (8 ≤ c.port.toNat) && decide (c.port.toNat < 16)
  if 1 ≤ op ∧ op ≤ 3 then
    outPort &&
    (if isReduce c.fused.toNat then c.flags == 0 || c.flags == 4
     else (!c.flag 2 || (sz == 4 && c.fused == 0)) &&
      (!c.flag 3 || (c.space == 4 && (sz == 3 || sz == 4) && c.fused == 0)) &&
      (c.fused != 8 || (!c.flag 1 && !c.flag 2)))
  else if 5 ≤ op ∧ op ≤ 7 then inPort && decide (c.flags.toNat < 2)
  else if op = 0x10 then
    decide (p < 8) && !c.portTop && n == 0 && (sz == 2 || sz == 3 || sz == 4) &&
    (if isReduce c.fused.toNat then c.flags == 0 || c.flags == 4
     else !c.flag 1 && !c.flag 2 && (!c.flag 0 || sz == 2))
  else if op = 0x11 then inPort && c.flags == 0 && n == 0 && sz == 2
  else if op = 0x12 then inPort && c.flags == 0 && n == 0 && sz == 2 && isCombine c.fused.toNat
  else if op = 0x13 then outPort && decide (c.flags.toNat < 4) && decide (sz ≤ 2) && (!c.flag 1 || sz == 2)
  else if op = 0x14 then outPort && c.flags == 0 && sz == 2 && c.space == 4
  else if op = 0x20 then true
  else if op = 0x21 then outPort && c.flags == 0
  else if op = 0x22 then inPort && c.flags == 0
  else if op = 0x23 then decide (p < 8) && !c.portTop && c.flags == 0 && a == 0 && c.space == 0 && sz == 0
  else if op = 0x24 then c.port == 0 && c.space == 4 && sz == 0 && decide (n < 256) && c.flags == 0 && a % 32 == 0
  else if op = 0x25 ∨ op = 0x26 then
    c.port == 0 && c.space == 0 && sz == 0 && decide (n < 256) && c.flags == 0 && a == 0
  else if op = 0x28 then
    decide (8 ≤ p) && (c.portTop || c.portMid == 0) && sz == 2 && n == 0 && decide (c.flags.toNat < 7)
  else if op = 0x2C ∨ op = 0x2D then
    sz == 4 && c.space != 0 && p == 0 && (c.port.toNat == 16 || c.port.toNat == 32) && n % 1024 == 0 &&
    (if op = 0x2D then decide (c.flags.toNat < 2) else c.flags == 0)
  else if op = 0x30 ∨ op = 0x33 then c.space == 4 && sz == 0 && c.port == 0 && decide (c.flags.toNat < 2) &&
    (op == 0x30 || a % 128 == 0)
  else if op = 0x31 ∨ op = 0x32 then c.space == 4 && sz == 0 && c.port == 0 && c.flags == 0 && a % 128 == 0
  else if op = 0x38 ∨ op = 0x39 then
    c.space == 4 && sz == 0 && c.port == 0 &&
    (if c.flags == 1 && op == 0x38 then n == 0 && a == 0 else c.flags == 0 && n != 0 && a % 65536 == 0)
  else if 0x40 ≤ op ∧ op ≤ 0x48 then
    sz == 3 && c.space == 4 &&
    (if op = 0x40 then c.port == 0 && c.flags == 0 && decide (n < 32768) && n / 256 % 4 != 3
     else if op = 0x41 then (if port then inPort && n == 0 && c.flags == 1 else c.flags == 0)
     else if op = 0x42 then outPort && decide (c.flags.toNat < 2)
     else if op = 0x43 then decide (p < 8) && !c.portTop && n == 0 && decide (c.flags.toNat < 2)
     else if op = 0x44 then outPort && decide (n < 65536) && n != 0 && decide (c.flags.toNat < 4)
     else if op = 0x48 then decide (8 ≤ p) && (c.portTop || c.portMid == 0) && n == 0 && decide (c.flags.toNat < 3)
     else c.port == 0 && n == 0 && c.flags == 0)
  else if op = 0x50 then sz == 3 && c.space == 4 && c.port == 0 && c.flags == 0
  else if op = 0x51 ∨ op = 0x52 then
    sz == 2 && c.space == 4 && decide (p < 8) && (c.portTop || p == 0) && (op == 0x52 || c.portMid == 0) && c.flags == 0 &&
    decide (n < 33554432) && n % 131072 != 0 && a % 131072 == 0
  else
    sz == 3 && c.space == 4 && decide (p < 8) && c.portMid == 0 && (c.portTop || p == 0) && decide (n < 2097152) &&
    decide (c.flags.toNat < 2)

/-- R59, R224: a stream command that its AGE decodes without a command fault. -/
def cmdOk (op : Nat) (port : Bool) (c : Cmd) : Bool :=
  fusedAssigned c.fused.toNat && decide (c.size.toNat ≤ 4) && decide (c.space.toNat ≤ 4) && fusedOk op c &&
  (hasReply op || c.reply == 0) && cmdFieldsOk op port c

/-- The limits on an instruction's fields. -/
def Instr.wf (i : Instr) : Bool :=
  match i.slotCode with
  | some (code, sl) => slotOk code sl
  | none =>
    match i.cmdCode with
    | some (op, c) => cmdOk op (match i with | .fmrgPort _ => true | _ => false) c
    | none =>
      match i with
      | .bfx _ _ p w => decide (p.toNat + w.toNat + 1 ≤ 64)
      | .bfxu _ _ p w => decide (p.toNat + w.toNat + 1 ≤ 64)
      | .bfi _ _ p w => decide (p.toNat + w.toNat + 1 ≤ 64)
      | .cmd c => decide (c.xs ≠ 31) && (c.named || c.token == 0)
      | .cmdnb c => decide (c.xs ≠ 31) && (c.named || c.token == 0)
      | .bshf n => decide (n ≠ 512)
      | _ => true

end Sys2Proof
end

