-- ==== Sys2Proof/Decode.lean ====
section
/-!
DEFINITION. The decoders of the four layers of R38 (sequencer words, element slots, stream commands, bank words), total on
any bits and rejecting by name, and after them the encoders, written from the same tables (R40-R61).
-/

namespace Sys2Proof

/-- Why a word is no instruction (R46, R56, R59, R61). -/
inductive DecodeError where
  | unassignedOp | unassignedFn | nonzeroField | badScope | badBitField | xs31 | badSysReg
  | badSlot | badCommand | badShift | badLength
  deriving DecidableEq, Repr, Inhabited

/-- The n bits of a word from bit lo up. -/
def bitsAt (w lo n : Nat) : Nat := w / 2^lo % 2^n

/-- The register number from bit lo up. -/
def regAt (w lo : Nat) : Reg := BitVec.ofNat 5 (bitsAt w lo 5)

/-- R42, R45: accept the instruction only when the fields that must be zero are. -/
def zeroElse (fields : Nat) (i : Instr) : Except DecodeError Instr :=
  if fields = 0 then .ok i else .error .nonzeroField


/-- R44, R45: the ALU group by its fn field. -/
def decodeAlu (fn : Nat) (d a b : Reg) : Except DecodeError Instr :=
  match fn with
  | 0 => .ok (.add d a b)
  | 1 => .ok (.sub d a b)
  | 2 => .ok (.mul d a b)
  | 3 => .ok (.mulh d a b)
  | 4 => .ok (.mulhu d a b)
  | 5 => .ok (.div d a b)
  | 6 => .ok (.divu d a b)
  | 7 => .ok (.rem d a b)
  | 8 => .ok (.remu d a b)
  | 9 => .ok (.and d a b)
  | 10 => .ok (.or d a b)
  | 11 => .ok (.xor d a b)
  | 12 => .ok (.andn d a b)
  | 13 => .ok (.shl d a b)
  | 14 => .ok (.shr d a b)
  | 15 => .ok (.sar d a b)
  | 16 => .ok (.min d a b)
  | 17 => .ok (.max d a b)
  | 18 => .ok (.minu d a b)
  | 19 => .ok (.maxu d a b)
  | 20 => .ok (.slt d a b)
  | 21 => .ok (.sltu d a b)
  | 22 => .ok (.seq d a b)
  | _ => .error .unassignedFn

/-- R45: the BIT group; xb must be zero. -/
def decodeBit (fn : Nat) (d a b : Reg) : Except DecodeError Instr :=
  match fn with
  | 0 => zeroElse b.toNat (.clz d a)
  | 1 => zeroElse b.toNat (.ctz d a)
  | 2 => zeroElse b.toNat (.popc d a)
  | _ => .error .unassignedFn

/-- R45: the ATOM group. -/
def decodeAtom (fn : Nat) (d a b : Reg) : Except DecodeError Instr :=
  match fn with
  | 0 => .ok (.amadd d a b)
  | 1 => .ok (.amswp d a b)
  | 2 => .ok (.amcas d a b)
  | 3 => .ok (.ammax d a b)
  | _ => .error .unassignedFn

/-- R45: the CFG group; xd and xb must be zero, and xa but for `CFGLD`. -/
def decodeCfg (fn : Nat) (d a b : Reg) : Except DecodeError Instr :=
  match fn with
  | 0 => zeroElse (d.toNat + b.toNat) (.cfgld a)
  | 1 => zeroElse (d.toNat + a.toNat + b.toNat) .cfggo
  | 2 => zeroElse (d.toNat + a.toNat + b.toNat) .cfgnx
  | 3 => zeroElse (d.toNat + a.toNat + b.toNat) .cfgwt
  | _ => .error .unassignedFn

/-- R45, R302: the QUEUE group; fn[8] makes `QPUSH` weighted and is zero on every other form. -/
def decodeQueue (fn : Nat) (d a b : Reg) : Except DecodeError Instr :=
  match fn with
  | 0x000 => zeroElse d.toNat (.qpush a b)
  | 0x100 => zeroElse d.toNat (.qpushWt a b)
  | 1 => zeroElse b.toNat (.qpop d a)
  | 2 => zeroElse b.toNat (.qtry d a)
  | 3 => zeroElse d.toNat (.spawn a b)
  | 4 => zeroElse (a.toNat + b.toNat) (.qroot d)
  | 5 => zeroElse (d.toNat + b.toNat) (.wret a)
  | 6 => zeroElse (d.toNat + b.toNat) (.waitq a)
  | 7 => zeroElse b.toNat (.qchk d a)
  | n => if n % 256 ≤ 7 then .error .nonzeroField else .error .unassignedFn

/-- R45, R361: the BAR group. -/
def decodeBar (fn : Nat) (d a b : Reg) : Except DecodeError Instr :=
  match fn with
  | 0 => zeroElse d.toNat (.bari a b)
  | 1 => zeroElse (d.toNat + b.toNat) (.bara a)
  | 2 => zeroElse d.toNat (.barx a b)
  | 3 => zeroElse (d.toNat + b.toNat) (.barw a)
  | _ => .error .unassignedFn

/-- R312: the scope of a code. -/
def scopeOf (n : Nat) : Option Scope :=
  match n with
  | 0 => some .panel
  | 1 => some .cluster
  | 2 => some .die
  | 3 => some .package
  | 4 => some .system
  | _ => none

/-- R45: the SYS group. fn[4:0] is the form, fn[7:5] is zero, and fn[10:8] is zero except on `FENCE`. -/
def decodeSys (fn : Nat) (d a b : Reg) : Except DecodeError Instr :=
  let hi := fn / 32
  match fn % 32 with
  | 0 =>
    if bitsAt fn 5 3 + d.toNat + a.toNat + b.toNat = 0 then
      match scopeOf (fn / 256) with
      | some sc => .ok (.fence sc)
      | none => .error .badScope
    else .error .nonzeroField
  | 1 => zeroElse (hi + d.toNat + b.toNat) (.trap a)
  | 2 => zeroElse (hi + d.toNat + a.toNat + b.toNat) .yield
  | 3 => zeroElse (hi + d.toNat + a.toNat + b.toNat) .snap
  | 4 => zeroElse (hi + d.toNat + a.toNat + b.toNat) .halt
  | 5 => zeroElse (hi + d.toNat + a.toNat + b.toNat) .nop
  | 6 => zeroElse (hi + d.toNat + b.toNat) (.jr a)
  | _ => .error .unassignedFn

/-- R65: the system register of a number. -/
def sysRegOf (n : Nat) : Option SysReg :=
  match n with
  | 0x000 => some .sqid
  | 0x001 => some .jobn
  | 0x002 => some .rpli
  | 0x003 => some .rpln
  | 0x004 => some .cyc
  | 0x008 => some .cpc
  | 0x009 => some .spt
  | 0x010 => some (.ic 0)
  | 0x011 => some (.ic 1)
  | 0x012 => some (.ic 2)
  | 0x013 => some (.ic 3)
  | 0x018 => some .wgt
  | 0x019 => some .proot
  | 0x020 => some .kpend
  | 0x021 => some .cpnl
  | _ => none

/-- R73, R46: a bit-field form, illegal when pos + width > 64. -/
def bitField (w : Nat) (mk : Reg → Reg → BitVec 6 → BitVec 6 → Instr) : Except DecodeError Instr :=
  if bitsAt w 12 4 ≠ 0 then .error .nonzeroField
  else if bitsAt w 0 6 + bitsAt w 6 6 + 1 > 64 then .error .badBitField
  else .ok (mk (regAt w 21) (regAt w 16) (BitVec.ofNat 6 (bitsAt w 0 6)) (BitVec.ofNat 6 (bitsAt w 6 6)))

/-- R43: the QC fields. -/
def decodeQc (w : Nat) (mk : Qc → Instr) : Except DecodeError Instr :=
  if bitsAt w 16 5 + bitsAt w 1 1 ≠ 0 then .error .nonzeroField
  else if bitsAt w 21 5 = 31 then .error .xs31
  else if bitsAt w 0 1 = 0 ∧ bitsAt w 2 3 ≠ 0 then .error .nonzeroField
  else .ok (mk ⟨regAt w 21, BitVec.ofNat 3 (bitsAt w 13 3), BitVec.ofNat 8 (bitsAt w 5 8),
    BitVec.ofNat 3 (bitsAt w 2 3), decide (bitsAt w 0 1 = 1)⟩)

/-- R40-R46: the instruction of a 32-bit sequencer word. -/
def decodeSeq (w : Nat) : Except DecodeError Instr :=
  let d := regAt w 21
  let a := regAt w 16
  let b := regAt w 11
  let fn := bitsAt w 0 11
  let imm := BitVec.ofNat 16 (bitsAt w 0 16)
  let sh := BitVec.ofNat 6 (bitsAt w 0 6)
  match bitsAt w 26 6 with
  | 0x01 => decodeAlu fn d a b
  | 0x02 => decodeBit fn d a b
  | 0x03 => decodeAtom fn d a b
  | 0x04 => decodeCfg fn d a b
  | 0x05 => decodeQueue fn d a b
  | 0x06 => decodeBar fn d a b
  | 0x07 => decodeSys fn d a b
  | 0x08 => .ok (.addi d a imm)
  | 0x09 => .ok (.andi d a imm)
  | 0x0A => .ok (.ori d a imm)
  | 0x0B => .ok (.xori d a imm)
  | 0x0C => zeroElse (bitsAt w 6 10) (.shli d a sh)
  | 0x0D => zeroElse (bitsAt w 6 10) (.shri d a sh)
  | 0x0E => zeroElse (bitsAt w 6 10) (.sari d a sh)
  | 0x0F => .ok (.slti d a imm)
  | 0x10 => zeroElse (bitsAt w 18 3) (.lih d (BitVec.ofNat 2 (bitsAt w 16 2)) imm)
  | 0x11 => bitField w .bfx
  | 0x12 => bitField w .bfxu
  | 0x13 => bitField w .bfi
  | 0x14 =>
    if bitsAt w 12 4 + a.toNat ≠ 0 then .error .nonzeroField
    else match sysRegOf (bitsAt w 0 12) with
      | some r => .ok (.mfs d r)
      | none => .error .badSysReg
  -- a register that `MTS` may not write is refused when the word issues (R46)
  | 0x15 =>
    if bitsAt w 12 4 + d.toNat ≠ 0 then .error .nonzeroField
    else match sysRegOf (bitsAt w 0 12) with
      | some r => .ok (.mts r a)
      | none => .error .badSysReg
  | 0x16 => zeroElse (d.toNat + a.toNat + bitsAt w 8 8) (.waitk (BitVec.ofNat 8 (bitsAt w 0 8)))
  | 0x18 => .ok (.ldb d a imm)
  | 0x19 => .ok (.ldh d a imm)
  | 0x1A => .ok (.ldw d a imm)
  | 0x1B => .ok (.ldd d a imm)
  | 0x1C => .ok (.stb d a imm)
  | 0x1D => .ok (.sth d a imm)
  | 0x1E => .ok (.stw d a imm)
  | 0x1F => .ok (.std d a imm)
  | 0x20 => .ok (.ldp d a imm)
  | 0x21 => .ok (.stp d a imm)
  | 0x22 => zeroElse d.toNat (.clrp a imm)
  | 0x28 => .ok (.beq d a imm)
  | 0x29 => .ok (.bne d a imm)
  | 0x2A => .ok (.blt d a imm)
  | 0x2B => .ok (.bge d a imm)
  | 0x2C => .ok (.bltu d a imm)
  | 0x2D => .ok (.bgeu d a imm)
  | 0x2E => zeroElse (bitsAt w 23 3 + a.toNat) (.loopd (BitVec.ofNat 2 (bitsAt w 21 2)) imm)
  | 0x30 => .ok (.jmp (BitVec.ofNat 26 (bitsAt w 0 26)))
  | 0x31 => .ok (.jal (BitVec.ofNat 26 (bitsAt w 0 26)))
  | 0x32 => decodeQc w .cmd
  | 0x33 => decodeQc w .cmdnb
  | _ => .error .unassignedOp


/-- R47, R50: the instruction that an opcode names. -/
def slotOf (code : Nat) (sl : Slot) : Option Instr :=
  match code with
  | 0x10 => some (.fadd sl)
  | 0x11 => some (.fsub sl)
  | 0x12 => some (.fmul sl)
  | 0x13 => some (.ffma sl)
  | 0x14 => some (.fmin sl)
  | 0x15 => some (.fmax sl)
  | 0x16 => some (.fcmp sl)
  | 0x17 => some (.frnd sl)
  | 0x18 => some (.fexpx sl)
  | 0x19 => some (.fexpi sl)
  | 0x1A => some (.fexp2f sl)
  | 0x1B => some (.frcp sl)
  | 0x1C => some (.frsq sl)
  | 0x1D => some (.fclas sl)
  | 0x20 => some (.iadd sl)
  | 0x21 => some (.isub sl)
  | 0x22 => some (.imul sl)
  | 0x23 => some (.imad sl)
  | 0x24 => some (.imin sl)
  | 0x25 => some (.imax sl)
  | 0x26 => some (.iand sl)
  | 0x27 => some (.ior sl)
  | 0x28 => some (.ixor sl)
  | 0x29 => some (.ishl sl)
  | 0x2A => some (.ishr sl)
  | 0x2B => some (.isar sl)
  | 0x2C => some (.icmp sl)
  | 0x2D => some (.iclz sl)
  | 0x2E => some (.ipopc sl)
  | 0x2F => some (.isel sl)
  | 0x30 => some (.cvt sl)
  | 0x31 => some (.qnt4 sl)
  | 0x32 => some (.dqn4 sl)
  | 0x33 => some (.bfly sl)
  | 0x38 => some (.rsum sl)
  | 0x39 => some (.rmax sl)
  | 0x3A => some (.rmin sl)
  | 0x3B => some (.scan sl)
  | 0x40 => some (.intsc sl)
  | 0x41 => some (.union sl)
  | 0x42 => some (.filt sl)
  | 0x43 => some (.stopg sl)
  | 0x44 => some (.stopx sl)
  | 0x45 => some (.cnt sl)
  | 0x46 => some (.route sl)
  | 0x47 => some (.mux sl)
  | 0x48 => some (.dup sl)
  | 0x49 => some (.hold sl)
  | 0x4A => some (.accu sl)
  | 0x4B => some (.drn sl)
  | 0x50 => some (.tldi sl)
  | 0x51 => some (.trd sl)
  | 0x52 => some (.ttr sl)
  | 0x53 => some (.xpnd sl)
  | 0x60 => some (.mma sl)
  | 0x61 => some (.mmas sl)
  | 0x62 => some (.mmz sl)
  | 0x63 => some (.mrd sl)
  | 0x64 => some (.mscl sl)
  | 0x70 => some (.const sl)
  | 0x71 => some (.iter sl)
  | 0x72 => some (.sink sl)
  | 0x80 => some (.xlt sl)
  | _ => none

/-- R58: the command that an op names; flag [0] tells the two forms of `FMRG` apart (R259). -/
def cmdOf (op : Nat) (c : Cmd) : Option Instr :=
  match op with
  | 0x01 => some (.sld1 c)
  | 0x02 => some (.sld2 c)
  | 0x03 => some (.sld3 c)
  | 0x05 => some (.sst1 c)
  | 0x06 => some (.sst2 c)
  | 0x07 => some (.sst3 c)
  | 0x10 => some (.gath c)
  | 0x11 => some (.scat c)
  | 0x12 => some (.scad c)
  | 0x13 => some (.bmld c)
  | 0x14 => some (.blkx c)
  | 0x20 => some (.copy c)
  | 0x21 => some (.cpms c)
  | 0x22 => some (.cpsm c)
  | 0x23 => some (.cpss c)
  | 0x24 => some (.tarm c)
  | 0x25 => some (.tdis c)
  | 0x26 => some (.tfir c)
  | 0x28 => some (.amos c)
  | 0x2C => some (.tfil c)
  | 0x2D => some (.tdrn c)
  | 0x30 => some (.pref c)
  | 0x31 => some (.lock c)
  | 0x32 => some (.unlk c)
  | 0x33 => some (.flsh c)
  | 0x38 => some (.xinv c)
  | 0x39 => some (.xpre c)
  | 0x40 => some (.fnew c)
  | 0x41 => some (if c.flags.toNat % 2 = 1 then .fmrgPort c else .fmrg c)
  | 0x42 => some (.fscn c)
  | 0x43 => some (.fprb c)
  | 0x44 => some (.ftop c)
  | 0x45 => some (.fcnt c)
  | 0x46 => some (.fclr c)
  | 0x47 => some (.ffre c)
  | 0x48 => some (.voxl c)
  | 0x50 => some (.bkld c)
  | 0x51 => some (.bkrn c)
  | 0x52 => some (.bkrl c)
  | 0x58 => some (.cbld c)
  | _ => none

/-- R47: the fields of a 64-bit slot word. -/
def slotFields (w : Nat) : Slot :=
  ⟨BitVec.ofNat 4 (bitsAt w 52 4), BitVec.ofNat 4 (bitsAt w 48 4), BitVec.ofNat 4 (bitsAt w 44 4),
   BitVec.ofNat 4 (bitsAt w 40 4), BitVec.ofNat 8 (bitsAt w 32 8), BitVec.ofNat 2 (bitsAt w 30 2),
   BitVec.ofNat 16 (bitsAt w 0 16)⟩

/-- R47-R50, R56: the instruction of an element slot. -/
def decodeSlot (w : Nat) : Except DecodeError Instr :=
  if bitsAt w 16 14 ≠ 0 then .error .nonzeroField
  else match slotOf (bitsAt w 56 8) (slotFields w) with
    | none => .error .unassignedOp
    | some i => if i.wf then .ok i else .error .badSlot

/-- R57: the fields of a 128-bit stream command. -/
def cmdFields (w : Nat) : Cmd :=
  ⟨BitVec.ofNat 8 (bitsAt w 112 8), BitVec.ofNat 4 (bitsAt w 108 4), BitVec.ofNat 4 (bitsAt w 104 4),
   BitVec.ofNat 8 (bitsAt w 96 8), BitVec.ofNat 5 (bitsAt w 91 5), BitVec.ofNat 27 (bitsAt w 64 27),
   BitVec.ofNat 60 (bitsAt w 4 60), BitVec.ofNat 4 (bitsAt w 0 4)⟩

/-- R57-R59, R224: the stream command of a 128-bit word. -/
def decodeCmd (w : Nat) : Except DecodeError Instr :=
  match cmdOf (bitsAt w 120 8) (cmdFields w) with
  | none => .error .unassignedOp
  | some i => if i.wf then .ok i else .error .badCommand

/-- R60, R61: the bank word of 64 bits. -/
def decodeBank (w : Nat) : Except DecodeError Instr :=
  match bitsAt w 59 5 with
  | 0x01 => zeroElse (bitsAt w 15 44) (.brow (BitVec.ofNat 15 (bitsAt w 0 15)))
  | 0x02 => zeroElse (bitsAt w 0 59) .brel
  | 0x03 => zeroElse (bitsAt w 32 27) (.bldk (BitVec.ofNat 32 (bitsAt w 0 32)))
  | 0x04 => zeroElse (bitsAt w 32 27) (.bldm (BitVec.ofNat 32 (bitsAt w 0 32)))
  | 0x05 => zeroElse (bitsAt w 0 59) .bcmp
  | 0x06 => zeroElse (bitsAt w 0 59) .bcmpa
  | 0x07 => zeroElse (bitsAt w 0 59) .bcmpo
  | 0x08 => zeroElse (bitsAt w 0 59) .bwr
  | 0x09 => zeroElse (bitsAt w 28 31)
      (.btt (BitVec.ofNat 5 (bitsAt w 0 5)) (BitVec.ofNat 5 (bitsAt w 5 5)) (BitVec.ofNat 5 (bitsAt w 10 5))
        (BitVec.ofNat 5 (bitsAt w 15 5)) (BitVec.ofNat 8 (bitsAt w 20 8)))
  | 0x0A => zeroElse (bitsAt w 0 59) .btset
  | 0x0B => zeroElse (bitsAt w 0 59) .btclr
  | 0x0C => zeroElse (bitsAt w 0 59) .btnot
  | 0x0D =>
    if bitsAt w 10 49 ≠ 0 then .error .nonzeroField
    else if bitsAt w 0 10 = 512 then .error .badShift
    else .ok (.bshf (BitVec.ofNat 10 (bitsAt w 0 10)))
  | 0x0E => zeroElse (bitsAt w 0 59) .bcnt
  | 0x0F => zeroElse (bitsAt w 0 59) .bfst
  | 0x10 => zeroElse (bitsAt w 0 59) .bend
  | _ => .error .unassignedOp

/-- The instruction that the decoder of a layer reads from `nbits` bits: sequencer words of 32, bank words and slots of
64 (a bank word's op has bit 63 clear but for `BEND`; a slot word is tried second), stream commands of 128. -/
def decodeTableWord (nbits w : Nat) : Option Instr :=
  let ok (r : Except DecodeError Instr) : Option Instr := match r with
    | .ok i => some i
    | .error _ => none
  if nbits ≤ 32 then ok (decodeSeq (w % 2^32))
  else if nbits ≤ 64 then
    match ok (decodeBank (w % 2^64)) with
    | some i => some i
    | none => ok (decodeSlot (w % 2^64))
  else ok (decodeCmd (w % 2^128))


/-- A word with register fields at bits 21, 16 and 11 over a base (R40). -/
def regs3 (base : Nat) (d a b : Reg) : Nat := base + d.toNat * 2^21 + a.toNat * 2^16 + b.toNat * 2^11
/-- A word with two register fields and a 16-bit field (R40: QI, QB). -/
def regs2 (base : Nat) (d a : Reg) (imm : BitVec 16) : Nat := base + d.toNat * 2^21 + a.toNat * 2^16 + imm.toNat
/-- A word with two register fields and a 6-bit shift (R45). -/
def regsSh (base : Nat) (d a : Reg) (sh : BitVec 6) : Nat := base + d.toNat * 2^21 + a.toNat * 2^16 + sh.toNat
/-- A bit-field word (R73). -/
def regsField (base : Nat) (d a : Reg) (pos widthM1 : BitVec 6) : Nat :=
  base + d.toNat * 2^21 + a.toNat * 2^16 + widthM1.toNat * 2^6 + pos.toNat
/-- A QC word (R43). -/
def qcWord (base : Nat) (c : Qc) : Nat :=
  base + c.xs.toNat * 2^21 + c.row.toNat * 2^13 + c.wait.toNat * 2^5 + c.token.toNat * 2^2 + c.named.toNat

/-- The 32-bit word of a sequencer instruction (R40, R45); none for an instruction of another layer. -/
def encodeSeq : Instr → Option Nat
  | .add d a b => some (regs3 0x4000000 d a b)
  | .sub d a b => some (regs3 0x4000001 d a b)
  | .mul d a b => some (regs3 0x4000002 d a b)
  | .mulh d a b => some (regs3 0x4000003 d a b)
  | .mulhu d a b => some (regs3 0x4000004 d a b)
  | .div d a b => some (regs3 0x4000005 d a b)
  | .divu d a b => some (regs3 0x4000006 d a b)
  | .rem d a b => some (regs3 0x4000007 d a b)
  | .remu d a b => some (regs3 0x4000008 d a b)
  | .and d a b => some (regs3 0x4000009 d a b)
  | .or d a b => some (regs3 0x400000a d a b)
  | .xor d a b => some (regs3 0x400000b d a b)
  | .andn d a b => some (regs3 0x400000c d a b)
  | .shl d a b => some (regs3 0x400000d d a b)
  | .shr d a b => some (regs3 0x400000e d a b)
  | .sar d a b => some (regs3 0x400000f d a b)
  | .min d a b => some (regs3 0x4000010 d a b)
  | .max d a b => some (regs3 0x4000011 d a b)
  | .minu d a b => some (regs3 0x4000012 d a b)
  | .maxu d a b => some (regs3 0x4000013 d a b)
  | .slt d a b => some (regs3 0x4000014 d a b)
  | .sltu d a b => some (regs3 0x4000015 d a b)
  | .seq d a b => some (regs3 0x4000016 d a b)
  | .clz d a => some (regs3 0x8000000 d a 0)
  | .ctz d a => some (regs3 0x8000001 d a 0)
  | .popc d a => some (regs3 0x8000002 d a 0)
  | .amadd d a b => some (regs3 0xc000000 d a b)
  | .amswp d a b => some (regs3 0xc000001 d a b)
  | .amcas d a b => some (regs3 0xc000002 d a b)
  | .ammax d a b => some (regs3 0xc000003 d a b)
  | .cfgld a => some (regs3 0x10000000 0 a 0)
  | .cfggo => some (0x10000001)
  | .cfgnx => some (0x10000002)
  | .cfgwt => some (0x10000003)
  | .qpush a b => some (regs3 0x14000000 0 a b)
  | .qpushWt a b => some (regs3 0x14000100 0 a b)
  | .qpop d a => some (regs3 0x14000001 d a 0)
  | .qtry d a => some (regs3 0x14000002 d a 0)
  | .spawn a b => some (regs3 0x14000003 0 a b)
  | .qroot d => some (regs3 0x14000004 d 0 0)
  | .wret a => some (regs3 0x14000005 0 a 0)
  | .waitq a => some (regs3 0x14000006 0 a 0)
  | .qchk d a => some (regs3 0x14000007 d a 0)
  | .bari a b => some (regs3 0x18000000 0 a b)
  | .bara a => some (regs3 0x18000001 0 a 0)
  | .barx a b => some (regs3 0x18000002 0 a b)
  | .barw a => some (regs3 0x18000003 0 a 0)
  | .fence scope => some (0x1c000000 + scope.code * 2^8)
  | .trap a => some (regs3 0x1c000001 0 a 0)
  | .yield => some (0x1c000002)
  | .snap => some (0x1c000003)
  | .halt => some (0x1c000004)
  | .nop => some (0x1c000005)
  | .jr a => some (regs3 0x1c000006 0 a 0)
  | .addi d a imm => some (regs2 0x20000000 d a imm)
  | .andi d a imm => some (regs2 0x24000000 d a imm)
  | .ori d a imm => some (regs2 0x28000000 d a imm)
  | .xori d a imm => some (regs2 0x2c000000 d a imm)
  | .shli d a sh => some (regsSh 0x30000000 d a sh)
  | .shri d a sh => some (regsSh 0x34000000 d a sh)
  | .sari d a sh => some (regsSh 0x38000000 d a sh)
  | .slti d a imm => some (regs2 0x3c000000 d a imm)
  | .lih d q imm => some (0x40000000 + d.toNat * 2^21 + q.toNat * 2^16 + imm.toNat)
  | .bfx d a pos widthM1 => some (regsField 0x44000000 d a pos widthM1)
  | .bfxu d a pos widthM1 => some (regsField 0x48000000 d a pos widthM1)
  | .bfi d a pos widthM1 => some (regsField 0x4c000000 d a pos widthM1)
  | .mfs d r => some (0x50000000 + d.toNat * 2^21 + r.code)
  | .mts r a => some (0x54000000 + a.toNat * 2^16 + r.code)
  | .waitk mask => some (0x58000000 + mask.toNat)
  | .ldb d a off => some (regs2 0x60000000 d a off)
  | .ldh d a off => some (regs2 0x64000000 d a off)
  | .ldw d a off => some (regs2 0x68000000 d a off)
  | .ldd d a off => some (regs2 0x6c000000 d a off)
  | .stb v a off => some (regs2 0x70000000 v a off)
  | .sth v a off => some (regs2 0x74000000 v a off)
  | .stw v a off => some (regs2 0x78000000 v a off)
  | .std v a off => some (regs2 0x7c000000 v a off)
  | .ldp d a off => some (regs2 0x80000000 d a off)
  | .stp v a off => some (regs2 0x84000000 v a off)
  | .clrp a off => some (regs2 0x88000000 0 a off)
  | .beq a b off => some (regs2 0xa0000000 a b off)
  | .bne a b off => some (regs2 0xa4000000 a b off)
  | .blt a b off => some (regs2 0xa8000000 a b off)
  | .bge a b off => some (regs2 0xac000000 a b off)
  | .bltu a b off => some (regs2 0xb0000000 a b off)
  | .bgeu a b off => some (regs2 0xb4000000 a b off)
  | .loopd n off => some (0xb8000000 + n.toNat * 2^21 + off.toNat)
  | .jmp off => some (0xc0000000 + off.toNat)
  | .jal off => some (0xc4000000 + off.toNat)
  | .cmd c => some (qcWord 0xc8000000 c)
  | .cmdnb c => some (qcWord 0xcc000000 c)
  | _ => none

/-- The 64-bit word of a slot's instruction (R47). -/
def encodeSlotFields (code : Nat) (sl : Slot) : Nat :=
  code * 2^56 + sl.mod.toNat * 2^52 + sl.in0.toNat * 2^48 + sl.in1.toNat * 2^44 + sl.in2.toNat * 2^40 +
  sl.outmask.toNat * 2^32 + sl.tw.toNat * 2^30 + sl.imm.toNat

/-- The 128-bit word of a stream command (R57). -/
def encodeCmdFields (op : Nat) (c : Cmd) : Nat :=
  op * 2^120 + c.fused.toNat * 2^112 + c.size.toNat * 2^108 + c.space.toNat * 2^104 + c.port.toNat * 2^96 +
  c.reply.toNat * 2^91 + c.count.toNat * 2^64 + c.addr.toNat * 2^4 + c.flags.toNat

/-- The 64-bit word of an element instruction; none for another layer's. -/
def encodeSlot (i : Instr) : Option Nat := i.slotCode.map (fun p => encodeSlotFields p.1 p.2)

/-- The 128-bit word of a stream command; none for another layer's. -/
def encodeCmd (i : Instr) : Option Nat := i.cmdCode.map (fun p => encodeCmdFields p.1 p.2)

/-- The 64-bit word of a bank instruction (R60); none for another layer's. -/
def encodeBank : Instr → Option Nat
  | .brow r => some (0x01 * 2^59 + r.toNat)
  | .brel => some (0x02 * 2^59)
  | .bldk v => some (0x03 * 2^59 + v.toNat)
  | .bldm v => some (0x04 * 2^59 + v.toNat)
  | .bcmp => some (0x05 * 2^59)
  | .bcmpa => some (0x06 * 2^59)
  | .bcmpo => some (0x07 * 2^59)
  | .bwr => some (0x08 * 2^59)
  | .btt a b c out t =>
    some (0x09 * 2^59 + t.toNat * 2^20 + out.toNat * 2^15 + c.toNat * 2^10 + b.toNat * 2^5 + a.toNat)
  | .btset => some (0x0A * 2^59)
  | .btclr => some (0x0B * 2^59)
  | .btnot => some (0x0C * 2^59)
  | .bshf n => some (0x0D * 2^59 + n.toNat)
  | .bcnt => some (0x0E * 2^59)
  | .bfst => some (0x0F * 2^59)
  | .bend => some (0x10 * 2^59)
  | _ => none

/-- The words of an instruction of any layer, with their length in bits. Events have no word. -/
def encode (i : Instr) : Option (Nat × Nat) :=
  match encodeSeq i with
  | some w => some (32, w)
  | none =>
    match encodeBank i with
    | some w => some (64, w)
    | none =>
      match encodeSlot i with
      | some w => some (64, w)
      | none => (encodeCmd i).map (fun w => (128, w))

end Sys2Proof
end

