-- ==== Sys2Proof/Machine/Cipher.lean ====
section
/-!
DEFINITION. The ciphers that the spec names: AES-128 of the tooling unit (R394), and AES-XTS over the 64-byte sectors of memory (R355). The names
stand for FIPS 197 and IEEE 1619; what they leave to the device, which end of a key or a block its first byte is, is log 26 and log 9.
-/

namespace Sys2Proof.Machine

-- AES (FIPS 197) ------------------------------------------------------------------------------------

/-- Multiplication by x in GF(2^8). -/
def gfDouble (a : Nat) : Nat := if a < 128 then 2 * a else (2 * a) ^^^ 0x11B
/-- Multiplication in GF(2^8), over the low n bits of b. -/
def gfMulN : Nat → Nat → Nat → Nat
  | 0, _, _ => 0
  | n + 1, a, b => (if b % 2 = 1 then a else 0) ^^^ gfMulN n (gfDouble a) (b / 2)
/-- Multiplication in GF(2^8). -/
def gfMul (a b : Nat) : Nat := gfMulN 8 a b
/-- a^254, which is the inverse, with 0 for 0. -/
def gfInv (a : Nat) : Nat :=
  let p2 := gfMul a a
  let p4 := gfMul p2 p2
  let p8 := gfMul p4 p4
  let p16 := gfMul p8 p8
  let p32 := gfMul p16 p16
  let p64 := gfMul p32 p32
  let p128 := gfMul p64 p64
  gfMul p128 (gfMul p64 (gfMul p32 (gfMul p16 (gfMul p8 (gfMul p4 p2)))))
/-- A byte rotated left by n. -/
def rotByte (a n : Nat) : Nat := (a * 2^n % 256) + a / 2^(8 - n)
/-- The substitution of one byte. -/
def aesSub (a : Nat) : Nat :=
  let b := gfInv a
  b ^^^ rotByte b 1 ^^^ rotByte b 2 ^^^ rotByte b 3 ^^^ rotByte b 4 ^^^ 0x63

/-- Two lists of bytes added. -/
def xorBytes (a b : List Nat) : List Nat := (a.zip b).map (fun x => x.1 ^^^ x.2)

/-- The rows of a state (byte 4c + r is row r of column c) shifted. -/
def aesShift (b : List Nat) : List Nat := (List.range 16).map (fun i => b.getD ((4 * (i / 4 + i % 4) + i % 4) % 16) 0)

/-- One column mixed. -/
def aesMixCol (a b c d : Nat) : List Nat :=
  [gfDouble a ^^^ gfDouble b ^^^ b ^^^ c ^^^ d, a ^^^ gfDouble b ^^^ gfDouble c ^^^ c ^^^ d,
   a ^^^ b ^^^ gfDouble c ^^^ gfDouble d ^^^ d, gfDouble a ^^^ a ^^^ b ^^^ c ^^^ gfDouble d]
/-- The columns mixed. -/
def aesMix (b : List Nat) : List Nat :=
  (List.range 4).flatMap (fun c => aesMixCol (b.getD (4 * c) 0) (b.getD (4 * c + 1) 0) (b.getD (4 * c + 2) 0) (b.getD (4 * c + 3) 0))

/-- AES of one block under the round keys that follow the first addition. -/
def aesForward : List (List Nat) → List Nat → List Nat
  | [], b => b
  | [k], b => xorBytes (aesShift (b.map aesSub)) k
  | k :: r, b => aesForward r (xorBytes (aesMix (aesShift (b.map aesSub))) k)
/-- Sixteen bytes of a key schedule, from those one key length before them and the word t that their first word adds. -/
def aesExtend (a t : List Nat) : List Nat :=
  let w0 := xorBytes (a.take 4) t
  let w1 := xorBytes ((a.drop 4).take 4) w0
  let w2 := xorBytes ((a.drop 8).take 4) w1
  w0 ++ w1 ++ w2 ++ xorBytes (a.drop 12) w2

/-- The next n round keys of AES-128, from the one before them and its constant. -/
def aes128Keys : Nat → Nat → List Nat → List (List Nat)
  | 0, _, _ => []
  | n + 1, rcon, k =>
    let k1 := aesExtend k [aesSub (k.getD 13 0) ^^^ rcon, aesSub (k.getD 14 0), aesSub (k.getD 15 0), aesSub (k.getD 12 0)]
    k1 :: aes128Keys n (gfDouble rcon) k1
/-- AES-128 of one block. -/
def aes128 (key block : List Nat) : List Nat := aesForward (aes128Keys 10 1 key) (xorBytes block key)

/-- The n bytes of a number, the most significant first (log 26). -/
def bytesOf (n v : Nat) : List Nat := (List.range n).map (fun i => bitsAt v (8 * (n - 1 - i)) 8)
/-- The sixteen bytes of a number, the most significant first (log 26). -/
def bytesDown (v : Nat) : List Nat := bytesOf 16 v

/-- The substitution of one byte undone. -/
def aesUnsub (a : Nat) : Nat := gfInv (rotByte a 1 ^^^ rotByte a 3 ^^^ rotByte a 6 ^^^ 0x05)
/-- The rows of a state shifted back. -/
def aesUnshift (b : List Nat) : List Nat := (List.range 16).map (fun i => b.getD ((4 * (i / 4 + 4 - i % 4) + i % 4) % 16) 0)
/-- One column unmixed. -/
def aesUnmixCol (a b c d : Nat) : List Nat :=
  [gfMul a 14 ^^^ gfMul b 11 ^^^ gfMul c 13 ^^^ gfMul d 9, gfMul a 9 ^^^ gfMul b 14 ^^^ gfMul c 11 ^^^ gfMul d 13,
   gfMul a 13 ^^^ gfMul b 9 ^^^ gfMul c 14 ^^^ gfMul d 11, gfMul a 11 ^^^ gfMul b 13 ^^^ gfMul c 9 ^^^ gfMul d 14]
/-- The columns unmixed. -/
def aesUnmix (b : List Nat) : List Nat :=
  (List.range 4).flatMap (fun c => aesUnmixCol (b.getD (4 * c) 0) (b.getD (4 * c + 1) 0) (b.getD (4 * c + 2) 0) (b.getD (4 * c + 3) 0))

/-- The round keys of AES-256 after the first two, in pairs, from the two before them. -/
def aes256Keys : Nat → Nat → List Nat → List Nat → List (List Nat)
  | 0, _, _, _ => []
  | n + 1, rcon, a, b =>
    let a1 := aesExtend a [aesSub (b.getD 13 0) ^^^ rcon, aesSub (b.getD 14 0), aesSub (b.getD 15 0), aesSub (b.getD 12 0)]
    let b1 := aesExtend b ((a1.drop 12).map aesSub)
    a1 :: b1 :: aes256Keys n (gfDouble rcon) a1 b1
/-- The fifteen round keys of AES-256. -/
def aes256Schedule (key : List Nat) : List (List Nat) :=
  key.take 16 :: key.drop 16 :: (aes256Keys 7 1 (key.take 16) (key.drop 16)).take 13

/-- AES-256 of one block. -/
def aes256 (key block : List Nat) : List Nat :=
  match aes256Schedule key with
  | [] => block
  | k :: r => aesForward r (xorBytes block k)

/-- The rounds of AES undone, under the round keys from the last but one down. -/
def aesBackward : List (List Nat) → List Nat → List Nat
  | [], b => b
  | [k], b => xorBytes ((aesUnshift b).map aesUnsub) k
  | k :: r, b => aesBackward r (aesUnmix (xorBytes ((aesUnshift b).map aesUnsub) k))
/-- AES-256 of one block undone. -/
def aes256Inv (key block : List Nat) : List Nat :=
  match (aes256Schedule key).reverse with
  | [] => block
  | k :: r => aesBackward r (xorBytes block k)

-- XTS (IEEE 1619) over one sector (R355) --------------------------------------------------------------

/-- The number of a list of bytes, the first least significant. -/
def ofLE : List Nat → Nat
  | [] => 0
  | b :: r => b + 256 * ofLE r
/-- The n bytes of a number, the first least significant. -/
def toLE (n v : Nat) : List Nat := (List.range n).map (fun i => bitsAt v (8 * i) 8)
/-- A tweak multiplied by the primitive element, as a number whose least significant byte is the first of the block. -/
def xtsNext (t : Nat) : Nat := t * 2 % 2^128 ^^^ (if t < 2^127 then 0 else 0x87)
/-- The first n blocks of a data unit, the number d with its first byte least significant, under a block cipher and the tweak of the first block. -/
def xtsBlocks (f : List Nat → List Nat) : Nat → Nat → Nat → Nat
  | 0, _, _ => 0
  | n + 1, t, d =>
    let b := ofLE (f (toLE 16 (d % 2^128 ^^^ t))) ^^^ t
    b + 2^128 * xtsBlocks f n (xtsNext t) (d / 2^128)
/-- R354: the data key of a slot's material, its first 32 bytes (log 9). -/
def dataKey (material : Nat) : List Nat := bytesOf 32 (material / 2^256 % 2^256)
/-- R354: the tweak key of a slot's material, its last 32 bytes (log 9). -/
def tweakKey (material : Nat) : List Nat := bytesOf 32 (material % 2^256)
/-- The tweak of the first block of a data unit. -/
def xtsTweak (material unit : Nat) : Nat := ofLE (aes256 (tweakKey material) (toLE 16 unit))
/-- R355: a sector of 64 bytes enciphered; the tweak is its number, PA[51:6]. -/
def xtsSeal (material unit d : Nat) : Nat := xtsBlocks (aes256 (dataKey material)) 4 (xtsTweak material unit) d
/-- R355: a sector of 64 bytes deciphered. -/
def xtsOpen (material unit d : Nat) : Nat := xtsBlocks (aes256Inv (dataKey material)) 4 (xtsTweak material unit) d

/-- R355: what sector n, whose data d was written under one seal, reads as under another: its storage deciphered under the new key. A seal is 0 for
plaintext, else 1 + the key material (log 83). -/
def rekey (old new n : Nat) (d : BitVec 512) : BitVec 512 :=
  if old = new then d
  else
    let stored := if old = 0 then d.toNat else xtsSeal (old - 1) n d.toNat
    BitVec.ofNat 512 (if new = 0 then stored else xtsOpen (new - 1) n stored)

end Sys2Proof.Machine
end

