-- ==== Sys2Proof/Config.lean ====
section
/-!
DEFINITION. What one LSK-9100 fixes and the manual does not (the free values), and the sizes of R8.
A constant without a body constrains nothing: a claim about it holds whatever the part does.
-/

namespace Sys2Proof.Config

/-- R140: whether `FRCP` takes the upper of the two FP32 neighbours of 1/a, for each input pattern.
The manual leaves open which neighbour (log 5). -/
opaque frcpUp : BitVec 32 → Bool

/-- R140: whether `FRSQ` takes the upper of the two FP32 neighbours of 1/√a (log 5). -/
opaque frsqUp : BitVec 32 → Bool

/-- R140: for each FP32 value v, the part of the gap above v (in 2^-256 units of 1.0) from which `FEXP2F` takes the
upper neighbour. A threshold a cell keeps the result non-decreasing, as R140 asks, whatever the thresholds are (log 6). -/
opaque exp2Cut : BitVec 32 → Nat

/-- R140: from which value of 2^a on (in 2^-256 units below 1.0, at most 2^-23 below it) `FEXP2F` gives 1.0. The bound of
one ulp of the result allows 1.0 below its lower neighbour too, since the gap above 1.0 is the wider one (log 6). -/
opaque exp2One : Nat

/-- R139: the result of `FEXPX` where floor(log2 |a|) has no exact value in an FP8 format; the rule asks for the exact value
and states no other (log 14). The arguments are the format code and the input pattern. -/
opaque fexpxOpen : Nat → BitVec 8 → BitVec 8

/-- R126, R163: the row that `CONST` gives in a Block-4 format, for which the manual's tables state no element value (log 20). The arguments are the
format code and the value. -/
opaque blkOpenRow : Nat → Nat → BitVec 512

/-- R163: token k of `ITER` in a Block-4 format, whose elements the manual's tables do not state (log 20). The arguments are the format code and k. -/
opaque blkOpenToken : Nat → Nat → BitVec 512

/-- R119: which two of the partials that are left a `RELAX` reduction combines next (log 7). -/
opaque relaxPick : Nat → Nat

/-- R390, R391: whether an image with this digest passes the boot ROM's ECDSA P-256 check (log 9). -/
opaque imageSigned : Nat → Bool

/-- R391: the SHA-256 digest of measured content; the manual names the function and does not define it (log 9). -/
opaque sha256 : Nat → BitVec 256

/-- R391: the identity key's signature over measurements (log 9). -/
opaque identitySign : Nat → Nat

/-- R391: the content of the boot ROM (log 9). -/
opaque bootRom : Nat
/-- R391: the content of the fuse configuration of a part: of its capacity registers, its absent panels, its retired links, and the fused security version
counter, with the keys that are fused (log 9). -/
opaque fuses : Nat → List Nat → List (Nat × Nat) → Nat → Nat
/-- R391: the certificate chain of the device (log 9). -/
opaque certificateChain : Nat

/-- R383: what a read of a function's register window gives at an offset whose register the manual does not place (log 25). -/
opaque registerRead : Nat → Nat → BitVec 64

/-- R201, R202: the length in units of 64 bytes of a part of a full record that has no stated format, for the record's address and the part (log 24). -/
opaque partUnits : Nat → Nat → Nat

/-- R201, R202: the 16-byte word with a number of such a part, for the record's address and the part (log 24). -/
opaque recordWord : Nat → Nat → Nat → BitVec 128

/-- R358: the completion handle that `CMD` gives a token, for the command and the cycle (log 24). -/
opaque commandHandle : Nat → Nat → BitVec 128

/-- R199, R202: the completion handle of a pending token whose command is owed to memory, for the record's address and the token (log 24). -/
opaque completionHandle : Nat → Nat → BitVec 128

/-- R381: a shadow that a snapshot has latched: of `CYC`, a strand, a place, a barrier, a weight root, a bridle, a heat entry, a performance
counter, a job's counters; 64-bit word n of it. -/
inductive ShadowReg where
  | cyc | strand (k n : Nat) | loops (e p n : Nat) | barrier (b n : Nat) | weightRoot (r n : Nat) | bridle (e n : Nat) | heat (e i n : Nat)
  | perf (die c : Nat) | counters (slot n : Nat)
  deriving DecidableEq, Repr, Inhabited

/-- R383: a register of the PF's windows; `none` where no register that this model names stands. -/
inductive DevReg where
  | none
  /-- R191, R188, R185, R193: of the region whose lead panel is named; 64-bit word n of a register -/
  | command (lead : Nat) | status (lead : Nat) | seqFault (lead n : Nat) | stall (lead n : Nat)
  /-- R186, R187, R181, R356, R296, R321: of an element, a place, a queue entry, a done edge -/
  | elemFault (e : Nat) | portFault (e n : Nat) | bridle (e n : Nat) | loops (e p n : Nat) | queueEntry (e i n : Nat) | doneIn (e i : Nat)
  /-- R331, R367, R341, R354, R351, R215 -/
  | root (slot : Nat) | cancel | template (t n : Nat) | key (slot : Nat) | graph (slot : Nat) | frameGroup (g : Nat)
  /-- R360, R371, R299, R208, R213, R380, R352, R381, R366, R389: of a barrier, a weight root, a queue, a window, a quota, a performance counter, an
  allocator entry; the snapshot number and its shadows; a job's counters; the package's group and index -/
  | barrier (b n : Nat) | weightRoot (r n : Nat) | queue (q n : Nat) | window (die slot : Nat) | quota (die slot : Nat)
  | perf (die c n : Nat) | allocator (panel : Nat) | snapshot | shadow (r : ShadowReg) | counters (slot n : Nat) | packageGroup | packageIndex
  /-- R396: package power, and the temperature of a die or a stack -/
  | power | dieTemperature (die : Nat) | stackTemperature (stack : Nat)
  deriving DecidableEq, Repr, Inhabited

/-- R383, R184: which register stands at an offset of the window of a region controller, its numbers counted within the die. R383 gives each window its place
and its registers, and no register its offset (log 25). -/
opaque regionPlace : Nat → DevReg
/-- R383: which register stands at an offset of the I/O die's window (log 25). -/
opaque ioPlace : Nat → DevReg
/-- R383, R396, R389: which register stands at an offset of the management registers (log 25). -/
opaque managePlace : Nat → DevReg

/-- R393: a word of a VF's tooling ring control. -/
inductive ToolReg where
  | none | base | entries | head | tail
  deriving DecidableEq, Repr, Inhabited

/-- R383, R393: which word of the tooling ring control stands at an offset of a VF's register window (log 25). -/
opaque toolPlace : Nat → ToolReg

/-- R15: panels on one fabric die. -/
def panelsPerDie : Nat := 128
/-- R8: fabric dies. -/
def dies : Nat := 4
/-- R372: resident job slots. -/
def jobSlots : Nat := 64
/-- R296: entries of an AGE command queue. -/
def queueEntries : Nat := 16
/-- R308: entries of an AGE spill queue. -/
def spillEntries : Nat := 16
/-- R223: commands of one AGE in progress at once. -/
def places : Nat := 4
/-- R220: deferral entries of a bank or channel. -/
def deferralEntries : Nat := 256
/-- R263: registrations of a stitch unit. -/
def registrations : Nat := 64
/-- R277: entries of a bank unit's pending queue. -/
def bankPending : Nat := 16
/-- R374: entries of a root stack. -/
def rootStackDepth : Nat := 8
/-- R379: page heat entries of an AGE. -/
def heatEntries : Nat := 8
/-- R24: fabric cycles in 4 ms at 940 MHz (R5). -/
def agingCycles : Nat := 3760000
/-- R36: fabric cycles in one microsecond at 940 MHz (R5). -/
def cyclesPerMicrosecond : Nat := 940

end Sys2Proof.Config
end

