-- ==== Sys2Proof/Machine/State.lean ====
section
/-!
DEFINITION. The state of the package: every piece of state that the manual names, as plain data, and the state after
package reset. INVENTORY.md lists each with its rule and its reset value.
-/

namespace Sys2Proof.Machine

/-- Why the machine stops for good. -/
inductive Fault where
  /-- Raised by `step` after the hardware trip of R396 removed power: nothing executes. Safe: the model stops where the
  part is off. -/
  | noPower
  deriving DecidableEq, Repr, Inhabited

/-- Why the model gives an instruction no meaning. -/
inductive Refusal where
  /-- Raised by an arm of `exec` whose instruction has no meaning yet. Safe: nothing is claimed of it. -/
  | notModelled (mnemonic : String)
  deriving DecidableEq, Repr, Inhabited

/-- The kinds of R52. -/
inductive Kind where
  | ce | mxe | se | age
  deriving DecidableEq, Repr, Inhabited

/-- The token kinds of R289; `stop k` for k = 1-3. -/
inductive TokKind where
  | data | stop (k : Nat) | eos | xchg | swap
  deriving DecidableEq, Repr, Inhabited

/-- A token (R289): one row, or the 16 rows of a tile token. -/
structure Token where
  kind : TokKind := .data
  tile : Bool := false
  rows : List Row := []
  deriving DecidableEq, Repr, Inhabited

/-- A token standing in an input channel, with the route entry (element, index) that brought it, whose window count falls
when the token is consumed (R291). -/
structure InTok where
  tok : Token := {}
  src : Nat := 0
  entry : Nat := 0
  deriving DecidableEq, Repr, Inhabited

/-- A route entry of a configured element (R54, R291) with the tokens travelling on it (R290). -/
structure Route where
  turns : BitVec 24 := 0
  srcPort : Nat := 0
  dstElem : Nat := 0
  dstPort : Nat := 0
  dstDepth : Nat := 2
  window : Nat := 0
  flight : List Token := []
  /-- the number of the link virtual channel that the entry is (R310), in `State.cuts`; none for a channel of the fabric -/
  link : Option Nat := none
  deriving DecidableEq, Repr, Inhabited

/-- The state of one slot (R124, R29, R163). -/
structure SlotSt where
  idx : BitVec 32 := 0
  carry : Option (BitVec 64) := none
  latch : Option Token := none
  run : Nat := 0
  cnt : BitVec 32 := 0
  seen : Bool := false
  last0 : Option (BitVec 32) := none
  last1 : Option (BitVec 32) := none
  pass : Nat := 0
  emitted : Nat := 0
  ended : Bool := false
  deriving DecidableEq, Repr, Inhabited

/-- A fret bank and its fret record (R345). -/
structure Fret where
  vals : Tab (BitVec 64) := []
  valid : Tab Bool := []
  source : BitVec 60 := 0
  countM1 : BitVec 8 := 0
  loaded : Bool := false
  checksum : BitVec 32 := 0
  deriving DecidableEq, Repr, Inhabited

/-- An accumulator and its tag (R165); element (m, n) at key 16m + n. -/
structure Acc where
  vals : Tab (BitVec 32) := []
  owned : Bool := false
  owner : Nat := 0
  deriving DecidableEq, Repr, Inhabited

/-- A range-table entry (R55): a memory range, or a done entry (R320). -/
structure RangeEnt where
  raw : BitVec 128 := 0
  deriving DecidableEq, Repr, Inhabited

/-- An incoming done-edge register (R321). -/
structure DoneIn where
  valid : Bool := false
  srcPanel : Nat := 0
  srcRow : Nat := 0
  scope : Nat := 0
  count : Nat := 0
  /-- the part of a cut graph from which the edge comes, 0 for the AGE's own page set -/
  part : Nat := 0
  deriving DecidableEq, Repr, Inhabited

/-- An outgoing done edge of an AGE (R320): the target AGE and the index of its register. -/
structure DoneOut where
  target : Nat := 0
  index : Nat := 0
  /-- the edge ends in another part of a cut graph -/
  far : Bool := false
  /-- the part stands in another package; `target` is then the done entry, and `sent` the count of its register there (R321) -/
  away : Bool := false
  sent : Nat := 0
  deriving DecidableEq, Repr, Inhabited

/-- An entry of a command queue (R296) with the scoreboard token that its `CMD` named. -/
structure QEntry where
  raw : BitVec 128 := 0
  token : Option Nat := none
  shape : Bool := false
  deriving DecidableEq, Repr, Inhabited

/-- An entry of a spill queue (R308), with the progress place that owes it. -/
structure Spill where
  va : BitVec 60 := 0
  size : Nat := 0
  op : Nat := 0
  fused : Nat := 0
  mask : BitVec 64 := 0
  data : Row := 0
  place : Nat := 0
  bar : Option Nat := none
  index : Nat := 0
  /-- the presence of the source words of a `COPY` from SYNC (R244) -/
  full : Option (BitVec 8) := none
  deriving DecidableEq, Repr, Inhabited

/-- The counters of the cost word of R260, before they saturate. -/
structure Cost where
  read : Nat := 0
  written : Nat := 0
  splits : Nat := 0
  allocs : Nat := 0
  combined : Nat := 0
  deriving DecidableEq, Repr, Inhabited

/-- A progress place of an AGE: the chained loop counter of R356 and the progress of the command in it (R201, R223). -/
structure Place where
  active : Bool := false
  strand : Nat := 0
  raw : BitVec 128 := 0
  shape : BitVec 128 := 0
  token : Option Nat := none
  /-- the template whose firing this is (R344) -/
  template : Option Nat := none
  seq : Nat := 0
  j0 : Nat := 0
  j1 : Nat := 0
  j2 : Nat := 0
  j3 : Nat := 0
  /-- values returned, by element index; their words' presence where the page is SYNC; and where they were read -/
  got : Tab Row := []
  full : Tab (BitVec 8) := []
  vas : Tab Nat := []
  /-- the next element to pass on; level-1 runs closed -/
  next : Nat := 0
  runs : Nat := 0
  /-- the token being packed, and how many elements it holds -/
  pack : Row := 0
  packN : Nat := 0
  /-- rows of the tile token being formed -/
  tileRows : List Row := []
  /-- tokens formed and not yet in the fabric, with their port -/
  outq : List (Nat × Token) := []
  /-- R379: where the elements of the open token were read; and those of the DATA tokens formed, by their number in the command -/
  packVas : List Nat := []
  outVas : Tab (List Nat) := []
  /-- rows taken from an input and not yet used; the elements left of the row in use -/
  inq : List Row := []
  cur : List Row := []
  /-- whether the open run holds data; DATA tokens sent -/
  runData : Bool := false
  sent : Nat := 0
  /-- the last element issued filled its run -/
  runFull : Bool := false
  /-- the input's `EOS` was taken; DATA was discarded past the shape -/
  eos : Bool := false
  surplus : Bool := false
  /-- step of the command's own sequence -/
  phase : Nat := 0
  /-- reduction partials by bank (R118) -/
  parts : Tab (BitVec 32) := []
  /-- elements written; a write of the command was diverted (R227) -/
  written : Nat := 0
  spilled : Bool := false
  cost : Cost := {}
  result : Nat := 0
  pairs : List (BitVec 64) := []
  /-- walk of a fibre: registered, chunk reached, last coordinate emitted, chunks walked -/
  registered : Option Nat := none
  chunk : Option Nat := none
  lastC : Option Nat := none
  walked : Nat := 0
  /-- R266: the low coordinate of the chunk where the last probe ended; and the last chunk that it read whose low coordinate is not above its own, with the
  number of chunks before it -/
  endLow : Nat := 0
  stand : Option (Nat × Nat) := none
  /-- the voxel sweep header in force (R275) -/
  sweep : Option Row := none
  /-- the command waits for a completion step; a request is held by a port fault -/
  done : Bool := false
  held : Bool := false
  /-- R199: the command goes on while its strand is off the fabric -/
  owed : Bool := false
  /-- R281: the bank runs issued before a `BKLD`: by AGE, the number of commands that AGE had been given -/
  behind : Tab Nat := []
  reply : BitVec 64 := 0
  deriving DecidableEq, Repr, Inhabited

/-- A page heat entry (R379). -/
structure Heat where
  tag : BitVec 44 := 0
  job : Nat := 0
  valid : Bool := false
  delivered : BitVec 32 := 0
  starved : BitVec 32 := 0
  used : Nat := 0
  deriving DecidableEq, Repr, Inhabited

/-- The bridle of a port (R181). -/
structure Bridle where
  control : BitVec 64 := 0xFFFF
  window : Nat := 0
  admitted : Nat := 0
  deriving DecidableEq, Repr, Inhabited

/-- A part of a graph cut between dies (R27, R320): the strand of a launch that is the part's page set (log 87). -/
structure Part where
  /-- 0 where nothing stands under the number -/
  group : Nat := 0
  /-- the number that done entries name, 1-7 -/
  number : Nat := 0
  job : Nat := 0
  node : Nat := 0
  replica : Nat := 0
  /-- R389: 0 a part in this package; in another: 1 not acknowledged yet, 2 acknowledged, 3 refused -/
  away : Nat := 0
  /-- R389: of a part in another package, that package's group and index -/
  pgroup : Nat := 0
  pindex : Nat := 0
  deriving DecidableEq, Repr, Inhabited

/-- A cut edge (R27, R310): the output and the input that a link virtual channel joins, by part and index in the part's set; the link to
another package that carries it, none where the I/O die does; and the bridle of its ingress (R181). -/
structure Cut where
  group : Nat := 0
  srcPart : Nat := 0
  srcElem : Nat := 0
  srcPort : Nat := 0
  dstPart : Nat := 0
  dstElem : Nat := 0
  dstPort : Nat := 0
  /-- the depth of the destination input, where that stands in another package -/
  depth : Nat := 2
  link : Option Nat := none
  bridle : Bridle := {}
  deriving DecidableEq, Repr, Inhabited

/-- What an AGE holds besides its element state. -/
structure Age where
  queue : List QEntry := []
  shapeOwed : Bool := false
  places : Tab Place := []
  started : Nat := 0
  doneNext : Nat := 0
  completed : List Nat := []
  doneIn : Tab DoneIn := []
  doneOut : List DoneOut := []
  /-- the done entries that name another part of a cut graph (R320), as the range table holds them -/
  doneFar : List Nat := []
  spills : List Spill := []
  spillHeld : Bool := false
  drainAt : BitVec 64 := 0
  port : BitVec 128 := 0
  heat : List Heat := []
  bridle : Bridle := {}
  /-- tokens that a slot's firing has sent and the bridle does not admit yet, at their ports (R182) -/
  ports : List (Nat × Token) := []
  deriving DecidableEq, Repr, Inhabited

/-- An element (R51-R56, R122-R124, R165, R186, R345). `es`, the weight lines and the directory are bytes of `mem`. -/
structure Elem where
  configured : Bool := false
  kind : Kind := .ce
  fmt : Nat := 0
  slotMask : Nat := 0
  slots : Tab (BitVec 64) := []
  fretOn : Bool := false
  fretShape : Nat := 0
  fretNarrow : Bool := false
  rates : BitVec 64 := 0
  depths : BitVec 24 := 0
  ranges : List RangeEnt := []
  routes : Tab Route := []
  chans : Tab (List InTok) := []
  slotSt : Tab SlotSt := []
  ta : Tab Row := []
  tl : Tab Row := []
  tlValid : Tab Bool := []
  occ : Tab Bool := []
  frets : Tab Fret := []
  active : Bool := false
  accs : Tab Acc := []
  mmaAt : Option (BitVec 64) := none
  /-- R167: the flags of a weight-buffer entry: zero bits of column n and K-sub-block q at 4n + q, finite bits at 64 + 4n + q -/
  wflags : Tab (BitVec 128) := []
  go : Bool := false
  fault : BitVec 64 := 0
  age : Age := {}
  deriving DecidableEq, Repr, Inhabited

/-- Where a strand stands in its life (R9, R19, R27, R95, R201): `placed` before its load, `loaded` while `GO` is withheld. -/
inductive RunState where
  | absent | placed | loaded | running | yielded | complete | saved
  deriving DecidableEq, Repr, Inhabited

/-- The region states of R188. -/
inductive RegionState where
  | running | freezing | frozen | halted
  deriving DecidableEq, Repr, Inhabited

/-- The region status register (R188). -/
structure Region where
  state : RegionState := .running
  fault : Bool := false
  hang : Bool := false
  trap : Bool := false
  firstPanel : Nat := 0
  firstElem : Nat := 0
  firstSource : Nat := 0
  /-- the cycle of the fault that the three fields name, which orders faults that arise in one cycle -/
  firstAt : BitVec 64 := 0
  /-- the state that a pre-emption that stops at once finds, which the record keeps: frozen where a fault has begun a freeze (R198) -/
  before : RegionState := .running
  /-- the command register's read-back (R191) -/
  cmdStatus : Bool := false
  deriving DecidableEq, Repr, Inhabited

/-- The strand state of R19, the registers of R62-R66, and its region (R184, R185, R188, R193). -/
structure Strand where
  run : RunState := .absent
  job : Nat := 0
  node : Nat := 0
  replica : BitVec 16 := 0
  replicas : BitVec 17 := 1
  carried : Bool := false
  lead : Nat := 0
  width : Nat := 1
  height : Nat := 1
  cpc : BitVec 60 := 0
  spt : BitVec 60 := 0
  x : Tab Word := []
  ic : Tab (BitVec 32) := []
  w : BitVec 64 := 0
  proot : BitVec 10 := 0
  stack : List (BitVec 10 × BitVec 64) := []
  kpend : BitVec 8 := 0
  handles : Tab (BitVec 128) := []
  cpnl : BitVec 7 := 0
  /-- registers whose loads are issued and not returned (R80) -/
  owedRegs : List Nat := []
  /-- the request that a waiting `LDP` or `STP` awaits, and its answer: performed or refused, with a value -/
  awaits : Option Nat := none
  answer : Option (Bool × Word) := none
  /-- the last issue waited (R97) -/
  waiting : Bool := false
  fault : BitVec 128 := 0
  region : Region := {}
  stallCtl : BitVec 64 := 0
  mapAddr : BitVec 60 := 0
  mapStatus : Nat := 0
  quiet : BitVec 32 := 0
  deriving DecidableEq, Repr, Inhabited

/-- Who makes a memory request (R313). -/
inductive Agent where
  | seq (strand : Nat)
  | place (age place : Nat)
  /-- the spill queue of an AGE, for a write that a command in a place has diverted (R309, R313) -/
  | spill (age place : Nat)
  | bank (bank : Nat)
  | host
  deriving DecidableEq, Repr, Inhabited

/-- The atomic and combining operations at a home (R84, R157, R233, R247). -/
inductive AmoOp where
  | add64 | swp64 | cas64 | max64
  | add32 | swp32 | max32 | min32 | maxu32 | or32 | and32
  | addf | addi | maxf | minf
  deriving DecidableEq, Repr, Inhabited

/-- What a request does at its home. -/
inductive ReqKind where
  | read | syncRead
  | write
  /-- `STP` (R82), `CLRP` (R83), an engine write to SYNC (R219) and a SYNC-to-SYNC copy's write with the source words'
  presence (R244) -/
  | stp | clrp | engine | copySync (full : BitVec 8)
  | amo (op : AmoOp)
  deriving DecidableEq, Repr, Inhabited

/-- Where the answer of a request goes. -/
inductive Dest where
  | none
  /-- the host's answer register (R383) -/
  | host
  | reg (strand xd : Nat)
  | await (strand : Nat)
  | elem (age place index : Nat)
  deriving DecidableEq, Repr, Inhabited

/-- How far a request has come (R315); `passed` when a write that does not rest at its die point has gone by it; `returned` when its home
has refused it and its port holds it (R219). -/
inductive Stage where
  | issued | departed | passed | home | deferred | returned
  deriving DecidableEq, Repr, Inhabited

/-- Bytes that a barrier counts once the write of a sector that carried them is performed at its home (R363). -/
structure Owed where
  sector : Nat := 0
  bar : Nat := 0
  job : Nat := 0
  bytes : Nat := 0
  deriving DecidableEq, Repr, Inhabited

/-- A memory request of the ordering machine (R313). `home` is the byte's home address (see Ops). -/
structure Req where
  id : Nat := 0
  agent : Agent := .host
  kind : ReqKind := .read
  home : Nat := 0
  size : Nat := 8
  data : Row := 0
  /-- the bytes written, bit i for byte i -/
  mask : BitVec 64 := BitVec.allOnes 64
  /-- agents whose writes a die point's sector carries home, the virtual pages, by job, through which they went (R336), and the bytes that are to
  be counted then (R363) -/
  writers : List Agent := []
  pages : List (Nat × Nat) := []
  counts : List Owed := []
  expect : Word := 0
  virt : Bool := true
  va : Nat := 0
  die : Nat := 0
  panel : Nat := 0
  job : Nat := 0
  policy : Nat := 0
  regionKind : Nat := 0
  /-- the key index of the page (R355) -/
  key : Nat := 0
  stage : Stage := .issued
  dest : Dest := .none
  bar : Option Nat := none
  /-- R244: a `COPY` from SYNC to SYNC reads values and presence together, at their home -/
  atHome : Bool := false
  deriving DecidableEq, Repr, Inhabited

/-- A line of a die point (R211, R213): two sectors, the bytes that writes have changed, the lock, the key index of its page (R355), and whose
writes are not home, through which virtual pages (R336), with the bytes that barriers count (R363). The lines of a set stand in the order of replacement, the most recently used first. -/
structure DieLine where
  die : Nat := 0
  line : Nat := 0
  data : BitVec 1024 := 0
  present : BitVec 2 := 0
  changed : BitVec 128 := 0
  lock : Option Nat := none
  key : Nat := 0
  writers : List Agent := []
  pages : List (Nat × Nat) := []
  counts : List Owed := []
  deriving DecidableEq, Repr, Inhabited

/-- A line of a panel's stream buffer (R210), tagged by job slot and virtual line; `fetch` marks one that the sequencer's fetch has used, `fenced` one
that was filled before a `FENCE` and that fetch uses no more (R39, R85). The lines of a set stand in the order of replacement, the most recently used
first. -/
structure StreamLine where
  panel : Nat := 0
  job : Nat := 0
  line : Nat := 0
  data : BitVec 1024 := 0
  fetch : Bool := false
  fenced : Bool := false
  deriving DecidableEq, Repr, Inhabited

/-- A cached translation (R334): whose cache (an AGE's element, a sequencer's strand, a die), and the leaf. -/
inductive TlbOwner where
  | age (elem : Nat)
  | seq (strand : Nat)
  | die (d : Nat)
  deriving DecidableEq, Repr, Inhabited

/-- A cached leaf, or with a level the non-leaf entry of that level in a die's walk cache (R334). -/
structure Tlb where
  owner : TlbOwner := .die 0
  job : Nat := 0
  page : Nat := 0
  big : Bool := false
  level : Nat := 0
  pte : BitVec 64 := 0
  deriving DecidableEq, Repr, Inhabited

/-- A run of a bank program waiting for or running in a bank (R283). -/
structure BankRun where
  age : Nat := 0
  place : Nat := 0
  job : Nat := 0
  run : Nat := 0
  base : Nat := 0
  lim : Nat := 0
  /-- the physical rows of the range in this bank, range row 0 first -/
  rows : List Nat := []
  /-- the range: its first byte and its length -/
  va : Nat := 0
  bytes : Nat := 0
  deriving DecidableEq, Repr, Inhabited

/-- A bank array unit (R277) with its runs and its bank fault (R285). -/
structure Bank where
  k : BitVec 32 := 0
  m : BitVec 32 := 0xFFFFFFFF
  t : BitVec 512 := 0
  result : BitVec 16 := 0
  row : BitVec 15 := 0
  held : Bool := false
  pass : Nat := 0
  word : Nat := 0
  running : Option BankRun := none
  waiting : List BankRun := []
  cause : Nat := 0
  /-- a row was held at the fault, so retry reopens it -/
  reopen : Bool := false
  deriving DecidableEq, Repr, Inhabited

/-- The results of a run by bank, kept until they are emitted in bank order (R283). -/
structure BankResult where
  age : Nat := 0
  place : Nat := 0
  run : Nat := 0
  bank : Nat := 0
  result : BitVec 16 := 0
  deriving DecidableEq, Repr, Inhabited

/-- A fibre operation in a stitch unit's queue (R257). -/
inductive FibKind where
  | fnew | merge | fclr | ffre
  deriving DecidableEq, Repr, Inhabited

/-- A fibre operation: who issued it, the head, the run of pairs; for `FNEW` its parameters. -/
structure FibOp where
  kind : FibKind := .merge
  age : Nat := 0
  place : Nat := 0
  job : Nat := 0
  head : Nat := 0
  pairs : List (BitVec 64) := []
  params : Nat := 0
  deriving DecidableEq, Repr, Inhabited

/-- Chunks owed to a pool's free list once the registrations named have ended (R271). -/
structure Release where
  desc : Nat := 0
  /-- index and home address of each -/
  chunks : List (Nat × Nat) := []
  waits : List Nat := []
  deriving DecidableEq, Repr, Inhabited

/-- A registration of a reader with a stitch unit (R263). -/
structure Registration where
  id : Nat := 0
  head : Nat := 0
  age : Nat := 0
  place : Nat := 0
  deriving DecidableEq, Repr, Inhabited

/-- A stitch unit (R257, R263, R271): its queue, the writes that the operation in hand still owes in their order, with the release that follows
them, readers and releases. -/
structure Stitch where
  queue : List FibOp := []
  writes : List (Nat × Nat × Row) := []
  owes : Option Release := none
  readers : List Registration := []
  releases : List Release := []
  deriving DecidableEq, Repr, Inhabited

/-- A queue descriptor (R299). -/
structure Queue where
  valid : Bool := false
  scope : Nat := 0
  cls : Nat := 0
  job : Nat := 0
  homePanel : Nat := 0
  depth : Nat := 0
  ringBase : Nat := 0
  head : Nat := 0
  count : Nat := 0
  bound : Option Nat := none
  /-- the bound template [103:96], which `TARM` alone changes; `bound` says with it whether the queue is bound -/
  template : Nat := 0
  spillCap : Nat := 0
  spillCount : Nat := 0
  spillHead : Nat := 0
  spillVa : BitVec 60 := 0
  /-- where each spilled message was written, oldest first: home address and key index (R355) -/
  spillHomes : List Nat := []
  /-- the launch node whose clause made it, for the cancel of that level (R306); none for system software's -/
  owner : Option Nat := none
  /-- the creation that a clause asked for was refused, so that its launch does not start -/
  refused : Bool := false
  deriving DecidableEq, Repr, Inhabited

/-- A barrier (R360). -/
structure Barrier where
  valid : Bool := false
  job : Nat := 0
  scope : Nat := 0
  home : Nat := 0
  n : Nat := 0
  outstanding : Nat := 0
  pending : BitVec 48 := 0
  phase : Bool := false
  /-- R364: the strands whose `BARW` waits; the waiter-present bit says that there is one -/
  waiting : List Nat := []
  /-- the strand whose `BARI` set the home (R25, R37) -/
  issuer : Option Nat := none
  deriving DecidableEq, Repr, Inhabited

/-- A weight root (R371); kind 0 free, 1 phase, 2 nested. -/
structure Root where
  expected : BitVec 96 := 0
  returned : BitVec 96 := 0
  kind : Nat := 0
  job : Nat := 0
  parent : BitVec 10 := 0
  waiter : Bool := false
  deriving DecidableEq, Repr, Inhabited

/-- A template entry (R341). -/
structure Template where
  snapshot : BitVec 128 := 0
  trigger : Nat := 0
  trigValid : Bool := false
  doneQ : Nat := 0
  doneValid : Bool := false
  /-- the panel offset of the AGE in its strand's set; and the element that this is where the strand stands now -/
  offset : Nat := 0
  age : Nat := 0
  strand : Nat := 0
  owner : Nat := 0
  owned : Bool := false
  armed : Bool := false
  firing : Bool := false
  dormant : Bool := false
  count : BitVec 32 := 0
  /-- a `TFIR` in this place waits for the firing it made (R246) -/
  fired : Option (Nat × Nat) := none
  /-- the firing has ended and its done push is owed -/
  pushOwed : Bool := false
  deriving DecidableEq, Repr, Inhabited

/-- A key slot (R354). -/
structure KeySlot where
  use : Nat := 0
  owner : Nat := 0
  material : BitVec 512 := 0
  deriving DecidableEq, Repr, Inhabited

/-- An allocator entry (R352): 0 free, 1 zeroing, 2 placed, 3 retired, 4 held for a buffer. -/
structure Panel where
  state : Nat := 0
  job : Nat := 0
  lead : Nat := 0
  deriving DecidableEq, Repr, Inhabited

/-- The capacity registers (R395). -/
structure Capacity where
  panels : Tab Nat := [(0, 128), (1, 128), (2, 128), (3, 128)]
  stackCount : Nat := 8
  channels : Nat := 96
  links : Nat := 16
  stackMask : BitVec 8 := 0xFF
  linkMask : BitVec 16 := 0xFFFF
  deriving DecidableEq, Repr, Inhabited

/-- A performance counter (R380). -/
structure Perf where
  control : BitVec 16 := 0
  value : BitVec 48 := 0
  deriving DecidableEq, Repr, Inhabited

/-- A launch entry of the completion counters (R366), with what the engine needs to place its replicas (R350). -/
structure Launch where
  left : BitVec 17 := 0
  status : Nat := 0
  replicas : Nat := 1
  gang : Bool := false
  carried : Bool := false
  record : BitVec 60 := 0
  nextReplica : Nat := 0
  runnable : Bool := false
  complete : Bool := false
  halted : Nat := 0
  deriving DecidableEq, Repr, Inhabited

/-- An edge buffer held (R221, R349): the record, where it lies, its size, and its nodes. -/
structure EdgeBuf where
  record : Nat := 0
  space : Nat := 0
  addr : Nat := 0
  size : Nat := 0
  die : Nat := 0
  producer : Nat := 0
  consumer : Nat := 0
  deriving DecidableEq, Repr, Inhabited

/-- A saved strand (R200-R202): the fixed part stands in memory at `addr`; the sections are kept as the state they hold. -/
structure Saved where
  /-- the strand's key, which it takes up again -/
  key : Nat := 0
  addr : Nat := 0
  full : Bool := false
  damaged : Bool := false
  strand : Strand := {}
  elems : Tab Elem := []
  /-- scratch, cluster shares, es and weight buffers of the set, keyed by the set's own home addresses -/
  bytes : List Host.Cell := []
  panels : List Nat := []
  tiles : Tab Nat := []
  die : Nat := 0
  /-- synchronising reads withdrawn at the save, issued again after restore (R97, R220) -/
  reads : List Req := []
  /-- a restore of it has faulted (R203) -/
  failed : Bool := false
  deriving DecidableEq, Repr, Inhabited

/-- A resident job (R385, R351, R366, R379, R36, R387). -/
structure Job where
  resident : Bool := false
  vf : Nat := 0
  box : Nat := 0
  priority : Nat := 0
  stepPre : Bool := false
  deadline : Nat := 0
  dieMask : Nat := 0
  dieBound : Bool := false
  graphHdr : BitVec 60 := 0
  poolTab : BitVec 60 := 0
  ctxArea : BitVec 60 := 0
  ctxUsed : Nat := 0
  edgeBase : BitVec 60 := 0
  edgeLen : Nat := 0
  ringPhys : Nat := 0
  ringLog : Nat := 4
  winLen : Nat := 0
  edgeStart : Nat := 0
  ringStart : Nat := 0
  effective : Nat := 0
  waitFrom : Option (BitVec 64) := none
  order : Nat := 0
  placedAt : BitVec 64 := 0
  gstate : Nat := 0
  gnode : Nat := 0
  passes : BitVec 32 := 0
  gcause : Nat := 0
  nodeBegun : Bool := false
  phaseOpen : Bool := false
  /-- R368: the phase has completed, and the loop or end node has still to end it -/
  phaseDone : Bool := false
  launches : Tab Launch := []
  graphCount : BitVec 13 := 0
  phaseCount : BitVec 13 := 0
  phaseRoot : BitVec 10 := 0
  holding : BitVec 64 := 0
  holdingReturned : Bool := false
  phases : BitVec 32 := 0
  status : Nat := 0
  edges : Tab EdgeBuf := []
  preemptAt : Option (BitVec 64) := none
  preempting : Bool := false
  stopped : Bool := false
  saved : List Saved := []
  heatBase : BitVec 60 := 0
  heatLen : Nat := 0
  heatHead : Nat := 0
  frame : BitVec 64 := 0
  events : List (BitVec 256) := []
  deriving DecidableEq, Repr, Inhabited

/-- A job mailbox (R384). -/
structure Mailbox where
  addr : BitVec 52 := 0
  valid : Bool := false
  status : Nat := 0
  slot : Nat := 0
  order : Nat := 0
  deriving DecidableEq, Repr, Inhabited

/-- An event ring control (R387). -/
structure RingCtl where
  tail : BitVec 16 := 0
  head : BitVec 16 := 0
  pending : Bool := false
  deriving DecidableEq, Repr, Inhabited

/-- A VF's tooling ring (R393): its base, length, head and tail. -/
structure ToolRing where
  base : Nat := 0
  entries : Nat := 0
  head : Nat := 0
  tail : Nat := 0
  deriving DecidableEq, Repr, Inhabited

/-- Boot and attestation state (R390, R391), and power (R396). -/
structure Boot where
  powered : Bool := true
  recovery : Bool := false
  running : Bool := true
  image : FlashImage := ⟨0, 0⟩
  /-- the image that recovery has written to flash (R390); none while flash holds what the part was delivered with -/
  written : Option FlashImage := none
  counter : Nat := 0
  measurements : Tab (BitVec 256) := []
  deriving DecidableEq, Repr, Inhabited

/-- The completion counters of a job that system software reads (R366): the graph and phase counters, the phase root, the phases completed, the
status, and of each launch the replicas left and the status. -/
structure JobCounters where
  graph : BitVec 13 := 0
  phase : BitVec 13 := 0
  root : BitVec 10 := 0
  phases : BitVec 32 := 0
  status : Nat := 0
  launches : Tab (BitVec 17 × Nat) := []
  deriving DecidableEq, Repr, Inhabited

/-- R366: a job's counters. -/
def Job.counters (j : Job) : JobCounters :=
  { graph := j.graphCount, phase := j.phaseCount, root := j.phaseRoot, phases := j.phases, status := j.status
    launches := j.launches.map (fun l => (l.1, (l.2.left, l.2.status))) }

/-- The shadows that a snapshot latches (R381). -/
structure Shadow where
  cyc : BitVec 64 := 0
  strands : Tab (BitVec 60 × BitVec 60 × BitVec 8) := []
  loops : Tab (List (Nat × Nat × Nat × Nat)) := []
  barriers : Tab Barrier := []
  roots : Tab Root := []
  bridles : Tab (Nat × Nat) := []
  heat : Tab (List Heat) := []
  perf : Tab (BitVec 48) := []
  jobs : Tab JobCounters := []
  deriving DecidableEq, Repr, Inhabited

/-- A snapshot waiting for its cycle T (R381): the job, region or whole package it latches. -/
structure Pending where
  at_ : BitVec 64 := 0
  jobs : List Nat := []
  strands : List Nat := []
  all : Bool := false
  deriving DecidableEq, Repr, Inhabited

/-- Who takes the present step: a strand's sequencer with the word that it executes, an element's slot, an AGE's place, a bank. -/
structure Site where
  strand : Nat := 0
  word : BitVec 32 := 0
  elem : Nat := 0
  slot : Nat := 0
  bank : Nat := 0
  /-- a stream command stands at the head of its queue (none), or runs in a place -/
  place : Option Nat := none
  deriving DecidableEq, Repr, Inhabited

/-- The choice of what acts next (R314, R315: moves of different parts interleave freely; log 1). -/
inductive Move where
  | seq (strand : Nat)
  /-- the element begins the firing that R28 and R29 choose -/
  | elem (e : Nat)
  /-- one slot of an element -/
  | slot (e n : Nat)
  /-- the command at the head of an AGE's queue -/
  | head (e : Nat)
  /-- a command in progress -/
  | place (e p : Nat)
  | bank (b : Nat)
  /-- the oldest record on its way to a heat log (R379) -/
  | heat
  /-- R310, R311, R389: what reaches the links from another package: a token of an inward cut edge, a token taken from an outward one, a done edge from
  a part there, a `DONE` on it, and one taken there from edge i of an AGE here -/
  | linkToken (cut : Nat) (t : Token)
  | linkCredit (cut : Nat)
  | linkEdge (age panel row scope part : Nat)
  | linkDone (age i : Nat)
  | doneTaken (age i : Nat)
  /-- an event, at the site that it concerns -/
  | event (site : Site) (i : Instr)
  /-- n fabric cycles pass -/
  | tick (n : Nat)
  deriving DecidableEq, Repr, Inhabited

/-- The package. -/
structure State where
  -- strands and elements
  strands : Tab Strand := []
  elems : Tab Elem := []
  cyc : BitVec 64 := 0
  -- memory and the ordering machine
  mem : List Host.Cell := []
  full : Tab Bool := []
  /-- R355: under which seal each 64-byte sector of the tiers was written, by sector number; an unlisted one is plaintext -/
  seals : Tab Nat := []
  reqs : List Req := []
  dieLines : List DieLine := []
  streamLines : List StreamLine := []
  tlbs : List Tlb := []
  /-- R379: records of page heat entries on their way to their jobs' heat logs, oldest first -/
  heatOwed : List Heat := []
  bad : List Nat := []
  quotas : Tab (Nat × Nat) := []
  windows : Tab (BitVec 64) := []
  groupLinear : Tab Bool := []
  tiles : Tab Nat := []
  roots64 : Tab (BitVec 64) := []
  -- memory-side units
  stitches : Tab Stitch := []
  banks : Tab Bank := []
  bankResults : List BankResult := []
  programs : Tab (List (BitVec 64)) := []
  -- queues, counters, tables
  queues : Tab Queue := []
  barriers : Tab Barrier := []
  roots : Tab Root := []
  templates : Tab Template := []
  keys : Tab KeySlot := [(0, { use := 1 })]
  panels : Tab Panel := []
  /-- R35: panels that a pre-emption freed and that no waiting job has taken yet -/
  freed : List Nat := []
  /-- R27, R310, R320: the parts and the edges of graphs cut between dies (log 87) -/
  parts : Tab Part := []
  cuts : Tab Cut := []
  retired : Tab (BitVec 256) := []
  cap : Capacity := {}
  perf : Tab Perf := []
  snapAt : Option Pending := none
  shadow : Shadow := {}
  snapNumber : BitVec 16 := 0
  cancelStatus : Bool := false
  -- jobs and the world outside
  jobs : Tab Job := []
  /-- R9: where the program file's `.data` section of a strand stands, by slot × 2^60 + the address of the record with which the strand starts;
  nothing is listed for a strand without one (log 23) -/
  dataAt : Tab Word := []
  /-- R24: the residency order of the job selected last -/
  lastPick : Nat := 0
  boxes : Tab Mailbox := []
  rings : Tab RingCtl := []
  toolRings : Tab ToolRing := []
  msix : List Nat := []
  packageGroup : Nat := 0
  packageIndex : Nat := 0
  /-- R383: the pages of 64 KiB that the PF has granted VFs, by VF × 2^36 + page -/
  grants : Tab Bool := []
  /-- R396: package power in mW, and the temperatures of the dies and of the stacks in units of 0.125 °C -/
  power : Nat := 0
  dieTemps : Tab Nat := []
  stackTemps : Tab Nat := []
  linksDown : List Nat := []
  boot : Boot := {}
  hostAnswer : Word := 0
  spdmAnswer : List Nat := []
  -- the model's own: the order of moves, the memory's promptness, the acting site, free-value counter
  agenda : List Move := []
  rr : Nat := 0
  prompt : Bool := true
  fill : Bool := false
  site : Site := {}
  fresh : Nat := 0
  deriving DecidableEq, Repr, Inhabited

/-- R395: the capacity registers as one number. -/
def Capacity.bits (c : Capacity) : Nat :=
  c.panels.look 0 0 % 2^8 + c.panels.look 0 1 % 2^8 * 2^8 + c.panels.look 0 2 % 2^8 * 2^16 + c.panels.look 0 3 % 2^8 * 2^24 +
  c.stackCount % 16 * 2^32 + c.channels % 128 * 2^36 + c.links % 32 * 2^43 + c.stackMask.toNat * 2^64 + c.linkMask.toNat * 2^72

/-- R352, R395: the panels that fuses make absent, as the allocator holds them after package reset. -/
def State.absent (s : State) : List Nat := (s.panels.filter (fun p => p.2.state == 3)).map (·.1)

/-- R391: the measurements that the boot ROM records of a part and its firmware image. -/
def State.measure (f : FlashImage) (s : State) : Tab (BitVec 256) :=
  [(1, Config.sha256 Config.bootRom), (2, Config.sha256 f.content),
   (3, Config.sha256 (Config.fuses s.cap.bits s.absent (s.retired.map (fun r => (r.1, r.2.toNat))) s.boot.counter)), (4, BitVec.ofNat 256 f.version)]

/-- The package right after reset (R390): no job resident, nothing placed, every table at its reset value, memory with
nothing listed, the full part of R8 in the capacity registers, and its firmware image measured. -/
def State.reset : State :=
  let s : State := {}
  { s with boot := { s.boot with measurements := s.measure s.boot.image } }

end Sys2Proof.Machine
end

