-- ==== Sys2Proof/Machine/Ops.lean ====
section
/-!
DEFINITION. The named operations over the state: accessors, memory, geometry, translation, taking an exception and
returning from it, memory requests, channels, weights, barriers and events.
-/

namespace Sys2Proof.Machine

/-- The outcome of a step of this machine. -/
abbrev Out := Host.Outcome State Fault Refusal

-- bits and rows ---------------------------------------------------------------------------------

/-- The value of the low n bits read as two's complement. -/
def sint (n v : Nat) : Int := if v % 2^n < 2^(n-1) then (v % 2^n : Nat) else ((v % 2^n : Nat) : Int) - (2^n : Nat)

/-- An integer reduced to n bits, modulo 2^n. -/
def wrapN (n : Nat) (v : Int) : Nat := (v % ((2^n : Nat) : Int)).toNat

/-- R4: lane j of a row, 32 bits. -/
def lane (r : Row) (j : Nat) : Nat := bitsAt r.toNat (32 * j) 32

/-- R98: the elements of b bits of a row, element 0 first. -/
def rowElems (b : Nat) (r : Row) : List Nat := (List.range (512 / b)).map (fun j => bitsAt r.toNat (b * j) b)

/-- Numbers of b bits packed from the low end up. -/
def packBits (b : Nat) : List Nat → Nat
  | [] => 0
  | v :: r => v % 2^b + 2^b * packBits b r

/-- R98: the row that holds the elements given, zeros above. -/
def packRow (b : Nat) (l : List Nat) : Row := BitVec.ofNat 512 (packBits b l)

/-- R98: the pair token of a coordinate and a value. -/
def pairRow (c v : Nat) : Row := packRow 32 [c, v]

/-- A one-beat token. -/
def Token.beat (k : TokKind) (r : Row) : Token := { kind := k, tile := false, rows := [r] }
/-- A control token, whose data bits are zero (R289). -/
def Token.ctl (k : TokKind) : Token := Token.beat k 0
/-- A one-beat DATA token. -/
def Token.dat (r : Row) : Token := Token.beat .data r
/-- A tile token. -/
def Token.tileOf (rs : List Row) : Token := { kind := .data, tile := true, rows := rs }
/-- The row of a one-beat token. -/
def Token.row (t : Token) : Row := t.rows.headD 0
/-- R181: the beats of a token. -/
def Token.beats (t : Token) : Nat := if t.tile then 16 else 1
/-- R289: the code of a kind. -/
def TokKind.code : TokKind → Nat
  | .data => 1 | .stop k => 1 + k | .eos => 5 | .xchg => 6 | .swap => 7
/-- Whether a kind is a control kind. -/
def TokKind.isControl : TokKind → Bool
  | .data => false
  | _ => true

/-- R4: a number of n bytes, little-endian, as its list of bytes. -/
def toBytes : Nat → Nat → List Byte
  | 0, _ => []
  | n + 1, v => BitVec.ofNat 8 v :: toBytes n (v / 256)

/-- R4: the number that a list of bytes holds. -/
def ofBytes : List Byte → Nat
  | [] => 0
  | b :: r => b.toNat + 256 * ofBytes r

-- accessors -------------------------------------------------------------------------------------

/-- Strand k, absent where none is listed. -/
def State.strand (s : State) (k : Nat) : Strand := s.strands.look {} k
/-- Strand k replaced. -/
def State.setStrand (k : Nat) (v : Strand) (s : State) : State := { s with strands := s.strands.put k v }
/-- Strand k changed by f. -/
def State.updStrand (k : Nat) (f : Strand → Strand) (s : State) : State := s.setStrand k (f (s.strand k))
/-- Element e (64 × package panel + element number). -/
def State.elem (s : State) (e : Nat) : Elem := s.elems.look {} e
/-- Element e replaced. -/
def State.setElem (e : Nat) (v : Elem) (s : State) : State := { s with elems := s.elems.put e v }
/-- Element e changed by f. -/
def State.updElem (e : Nat) (f : Elem → Elem) (s : State) : State := s.setElem e (f (s.elem e))
/-- The AGE part of element e changed by f. -/
def State.updAge (e : Nat) (f : Age → Age) (s : State) : State := s.updElem e (fun x => { x with age := f x.age })
/-- A progress place. -/
def State.place (s : State) (e p : Nat) : Place := (s.elem e).age.places.look {} p
/-- A progress place replaced. -/
def State.setPlace (e p : Nat) (v : Place) (s : State) : State :=
  s.updAge e (fun a => { a with places := a.places.put p v })
/-- A progress place changed by f. -/
def State.updPlace (e p : Nat) (f : Place → Place) (s : State) : State := s.setPlace e p (f (s.place e p))
/-- Job slot j. -/
def State.job (s : State) (j : Nat) : Job := s.jobs.look {} j
/-- Job slot j changed by f. -/
def State.updJob (j : Nat) (f : Job → Job) (s : State) : State := { s with jobs := s.jobs.put j (f (s.job j)) }
/-- Slot n's state. -/
def Elem.slot (e : Elem) (n : Nat) : SlotSt := e.slotSt.look {} n
/-- Slot n's state changed by f. -/
def Elem.updSlot (n : Nat) (f : SlotSt → SlotSt) (e : Elem) : Elem := { e with slotSt := e.slotSt.put n (f (e.slot n)) }
/-- The tokens held by input n. -/
def Elem.chan (e : Elem) (n : Nat) : List InTok := e.chans.look [] n
/-- The token at the head of input n. -/
def Elem.head (e : Elem) (n : Nat) : Option Token := (e.chan n).head?.map (·.tok)
/-- Fret bank b. -/
def Elem.fret (e : Elem) (b : Nat) : Fret := e.frets.look {} b
/-- Accumulator n. -/
def Elem.acc (e : Elem) (n : Nat) : Acc := e.accs.look {} n
/-- A strand's AGE-side site of a bank, queue, barrier, root: entry k of a table. -/
def State.bankAt (s : State) (b : Nat) : Bank := s.banks.look {} b
/-- Bank unit b changed by f. -/
def State.updBank (b : Nat) (f : Bank → Bank) (s : State) : State := { s with banks := s.banks.put b (f (s.bankAt b)) }
/-- Queue q (die × 256 + index, which is the queue number of R299). -/
def State.queue (s : State) (q : Nat) : Queue := s.queues.look {} q
/-- Queue q replaced. -/
def State.setQueue (q : Nat) (v : Queue) (s : State) : State := { s with queues := s.queues.put q v }
/-- Barrier b (die × 128 + index). -/
def State.barrier (s : State) (b : Nat) : Barrier := s.barriers.look {} b
/-- Barrier b replaced. -/
def State.setBarrier (b : Nat) (v : Barrier) (s : State) : State := { s with barriers := s.barriers.put b v }
/-- Root r (die × 256 + index, which is the root number of R371). -/
def State.root (s : State) (r : Nat) : Root := s.roots.look {} r
/-- Root r replaced. -/
def State.setRoot (r : Nat) (v : Root) (s : State) : State := { s with roots := s.roots.put r v }
/-- Template t. -/
def State.template (s : State) (t : Nat) : Template := s.templates.look {} t
/-- Template t changed by f. -/
def State.updTemplate (t : Nat) (f : Template → Template) (s : State) : State :=
  { s with templates := s.templates.put t (f (s.template t)) }
/-- Stitch unit u. -/
def State.stitch (s : State) (u : Nat) : Stitch := s.stitches.look {} u
/-- Stitch unit u changed by f. -/
def State.updStitch (u : Nat) (f : Stitch → Stitch) (s : State) : State :=
  { s with stitches := s.stitches.put u (f (s.stitch u)) }

/-- R62, R42: the value of register d; x0 reads zero. -/
def Strand.reg (t : Strand) (d : Nat) : Word := if d = 0 then 0 else t.x.look 0 d
/-- R62, R42: register d written; a write to x0 is discarded. -/
def Strand.setReg (t : Strand) (d : Nat) (v : Word) : Strand := if d = 0 then t else { t with x := t.x.put d v }
/-- R64: iteration counter n. -/
def Strand.icn (t : Strand) (n : Nat) : BitVec 32 := t.ic.look 0 n

/-- The strand whose sequencer acts. -/
def State.self (s : State) : Strand := s.strand s.site.strand
/-- The acting strand changed by f. -/
def State.updSelf (f : Strand → Strand) (s : State) : State := s.updStrand s.site.strand f
/-- Register d of the acting strand. -/
def State.reg (s : State) (d : Reg) : Word := s.self.reg d.toNat
/-- Register d of the acting strand written. -/
def State.setReg (d : Reg) (v : Word) (s : State) : State := s.updSelf (fun t => t.setReg d.toNat v)
/-- R63: every retiring form adds 4 to `spt`. -/
def State.advance (s : State) : State := s.updSelf (fun t => { t with spt := t.spt + 4, waiting := false })
/-- A control transfer: `spt` set to an address. -/
def State.goto (a : BitVec 60) (s : State) : State := s.updSelf (fun t => { t with spt := a, waiting := false })
/-- R97: an instruction that is waiting has not executed. -/
def State.wait (s : State) : State := s.updSelf (fun t => { t with waiting := true })

-- memory ----------------------------------------------------------------------------------------

/-- The canonical form of memory: addresses strictly rise, and no listed byte is zero, which is what an unlisted address
reads as (log 4). -/
def Memory.wf : List Host.Cell → Bool
  | [] => true
  | [(_, v)] => v != 0
  | (a, v) :: (b, w) :: r => decide (a < b) && v != 0 && Memory.wf ((b, w) :: r)

/-- The byte at a home address; an unlisted address reads as zero (log 4). -/
def memGet (m : List Host.Cell) (a : Nat) : Byte := Tab.look 0 m a
/-- A byte written; a zero byte is not listed. -/
def memPut (m : List Host.Cell) (a : Nat) (v : Byte) : List Host.Cell :=
  if v = 0 then Tab.del m a else Tab.put m a v
/-- The n bytes from a up. -/
def memBytes (m : List Host.Cell) (a : Nat) : Nat → List Byte
  | 0 => []
  | n + 1 => memGet m a :: memBytes m (a + 1) n
/-- The bytes given written from a up. -/
def memStore (m : List Host.Cell) (a : Nat) : List Byte → List Host.Cell
  | [] => m
  | b :: r => memStore (memPut m a b) (a + 1) r
/-- The bytes from a to a + n - 1 set to zero. -/
def memZero (m : List Host.Cell) (a n : Nat) : List Host.Cell := m.filter (fun c => !(decide (a ≤ c.1) && decide (c.1 < a + n)))

/-- R4: the little-endian number of n bytes at a home address. -/
def State.peek (s : State) (a n : Nat) : Nat := ofBytes (memBytes s.mem a n)
/-- R4: a number of n bytes stored at a home address. -/
def State.poke (a n v : Nat) (s : State) : State := { s with mem := memStore s.mem a (toBytes n v) }
/-- R218: the presence bit of the SYNC word at an 8-byte-aligned home address. -/
def State.isFull (s : State) (a : Nat) : Bool := s.full.look false (a / 8)
/-- R218: presence set or cleared; only full words are listed. -/
def State.setFull (a : Nat) (v : Bool) (s : State) : State :=
  { s with full := if v then s.full.put (a / 8) true else s.full.del (a / 8) }
/-- R190: whether some byte of a range holds an uncorrectable error. -/
def State.isBad (s : State) (a n : Nat) : Bool := s.bad.any (fun b => decide (a ≤ b) && decide (b < a + n))

/-- R354, R355: the seal under which an access with a key index reads and writes a sector. -/
def State.sealOf (s : State) (key : Nat) : Nat := if key = 0 then 0 else 1 + (s.keys.look {} key).material.toNat

/-- R355: sector n as an access under a seal finds it. -/
def State.reseal (new n : Nat) (s : State) : State :=
  let old := s.seals.look 0 n
  if old = new then s
  else { s.poke (64 * n) 64 (rekey old new n (BitVec.ofNat 512 (s.peek (64 * n) 64))).toNat with
    seals := if new = 0 then s.seals.del n else s.seals.put n new }

/-- R355: the sectors of n bytes of the tiers as accesses with a key index find them. What was written under another key shows as its decryption
under this one; data written under this key, and on-chip storage, stand as they are. -/
def State.underKey (key a n : Nat) (s : State) : State :=
  if 2^52 ≤ a ∨ (key = 0 ∧ s.seals.isEmpty) then s
  else (List.range ((a % 64 + n + 63) / 64)).foldl (fun s k => s.reseal (s.sealOf key) (a / 64 + k)) s

/-- R355: the number in n bytes as an access with a key index reads it. -/
def State.peekKey (s : State) (key a n : Nat) : Nat := (s.underKey key a n).peek a n
/-- R355: a number stored by an access with a key index. -/
def State.pokeKey (key a n v : Nat) (s : State) : State := (s.underKey key a n).poke a n v

/-- R355: the number of n bytes at a tagged address, which is a home address with the key index of its page above it. -/
def State.peekTag (s : State) (t n : Nat) : Nat := s.peekKey (t / 2^64) (t % 2^64) n
/-- R355: a number of n bytes stored at a tagged address. -/
def State.pokeTag (t n v : Nat) (s : State) : State := s.pokeKey (t / 2^64) (t % 2^64) n v

/-- Home addresses of the on-chip spaces in the one byte memory: `PANEL` scratch of a package panel (R204). -/
def panelHome (p : Nat) : Nat := 2^56 + p * 2^20
/-- `CLUSTER` share of a package panel (R204). -/
def shareHome (p : Nat) : Nat := 2^57 + p * 2^19
/-- `CHIP` scratch of a die (R204). -/
def chipHome (d : Nat) : Nat := 2^58 + d * 2^26
/-- `ELEM` storage of an element (R205): `es` of a CE, weight lines and directory of an MXE. -/
def elemHome (e : Nat) : Nat := 2^59 + e * 2^16
/-- Keys for the error input of R190 of storage that has no address: tile rows, accumulators, fret banks. -/
def taKey (e r : Nat) : Nat := 2^60 + e * 64 + r
/-- R190: key of an accumulator. -/
def accKey (e n : Nat) : Nat := 2^60 + e * 64 + 16 + n
/-- R190: key of a fret bank. -/
def fretKey (e b : Nat) : Nat := 2^60 + e * 64 + 20 + b

-- geometry --------------------------------------------------------------------------------------

/-- R15: the die of a package panel. -/
def dieOf (p : Nat) : Nat := p / 128 % 4
/-- R15: the cluster of a panel within its die. -/
def clusterOf (p : Nat) : Nat := 4 * (p % 128 / 16 / 4) + p % 16 / 4
/-- R205: the number of a panel within its cluster. -/
def inCluster (p : Nat) : Nat := 4 * (p % 128 / 16 % 4) + p % 16 % 4
/-- R16: the kind that stands at an element number. -/
def kindAt (n : Nat) : Kind :=
  match n % 8 with
  | 1 => .mxe | 4 => .mxe | 6 => .se | 7 => .age
  | _ => .ce
/-- R52: the code of a kind. -/
def Kind.code : Kind → Nat
  | .ce => 0 | .mxe => 1 | .se => 2 | .age => 3
/-- The panel of an element. -/
def panelOf (e : Nat) : Nat := e / 64
/-- R188: the panel at an offset of a strand's page set, row-major. -/
def Strand.panelAt (t : Strand) (k : Nat) : Nat := t.lead + k / t.width * 16 + k % t.width
/-- R22: the panels of a page set, in order of their offsets. -/
def Strand.panels (t : Strand) : List Nat := (List.range (t.width * t.height)).map t.panelAt
/-- The offset of a panel within a page set. -/
def Strand.offsetOf (t : Strand) (p : Nat) : Option Nat := t.panels.idxOf? p
/-- Whether a strand holds its panels. -/
def Strand.onFabric (t : Strand) : Bool :=
  match t.run with
  | .placed => true | .loaded => true | .running => true | .yielded => true
  | _ => false
/-- The elements of a strand's page set. -/
def Strand.elems (t : Strand) : List Nat := t.panels.flatMap (fun p => (List.range 64).map (fun n => p * 64 + n))
/-- R296: the AGE at (7, row) of the panel at an offset. -/
def Strand.ageAt (t : Strand) (k row : Nat) : Nat := t.panelAt k * 64 + 8 * row + 7
/-- The strand placed on a panel. -/
def State.strandOn (s : State) (p : Nat) : Option Nat :=
  (s.strands.find? (fun kt => kt.2.onFabric && kt.2.panels.contains p)).map (·.1)
/-- The key under which the tables hold an element of strand k's page set while the strand is off the fabric (R199). -/
def parkKey (k e : Nat) : Nat := 2^20 * (k + 1) + e
/-- Whether a key is that of an element off the fabric. -/
def parked (e : Nat) : Bool := decide (2^20 ≤ e)
/-- The strand whose region holds an element. -/
def State.strandOf (s : State) (e : Nat) : Nat := if parked e then e / 2^20 - 1 else (s.strandOn (panelOf e)).getD 0

/-- R395: the stacks present, in ascending number. -/
def Capacity.stackList (c : Capacity) : List Nat := (List.range 8).filter (fun k => c.stackMask.toNat / 2^k % 2 = 1)
/-- R215, R216: the bytes of a frame group: a 128 MiB slab in each stack present (log 13). -/
def State.groupBytes (s : State) : Nat := s.cap.stackList.length * 2^27
/-- R214: whether a physical address is populated. -/
def State.populated (s : State) (pa : Nat) : Bool :=
  decide (pa < s.cap.stackList.length * (48 * 2^30)) ||
  (decide (2^40 ≤ pa) && decide (pa < 2^40 + s.cap.channels * (8 * 2^30)))
/-- R214: whether an address lies in the first tier. -/
def State.firstTier (pa : Nat) : Bool := decide (pa < 2^40)
/-- R215: the frame group of a first-tier address. -/
def State.groupOf (s : State) (pa : Nat) : Nat := pa / s.groupBytes
/-- R215: whether a frame group is in linear mode. -/
def State.linear (s : State) (pa : Nat) : Bool := State.firstTier pa && s.groupLinear.look false (s.groupOf pa)
/-- R214-R216: the package bank index of a physical address; a second-tier channel c counts as bank 6,144 + c. -/
def State.bankOf (s : State) (pa : Nat) : Nat :=
  if State.firstTier pa then
    let st := s.cap.stackList
    let g := s.groupOf pa
    let o := pa % s.groupBytes
    if s.linear pa then
      768 * st.getD (o / 2^27) 0 + 64 * (g / 32) + o % 2^27 / 2048 % 64
    else
      let n := o / 128
      768 * st.getD (n % st.length) 0 + 64 * (g / 32) + n / st.length % 64
  else 6144 + (pa - 2^40) / 128 % s.cap.channels
/-- R216: the DRAM row of a first-tier address of a linear group. -/
def State.rowOf (s : State) (pa : Nat) : Nat := 1024 * (s.groupOf pa % 32) + pa % s.groupBytes % 2^27 / 131072
/-- R216: the physical address of a byte of a bank's row, the inverse of the linear placement. -/
def State.rowAddr (s : State) (b row byte : Nat) : Nat :=
  let k := (s.cap.stackList.idxOf? (b / 768)).getD 0
  (32 * (b % 768 / 64) + row / 1024) * s.groupBytes + k * 2^27 + row % 1024 * 131072 + b % 64 * 2048 + byte

-- translation -----------------------------------------------------------------------------------

/-- A leaf found by a walk (R332). -/
structure Leaf where
  pa : Nat
  kind : Nat
  key : Nat
  writable : Bool
  egress : Bool
  policy : Nat
  deriving DecidableEq, Repr

/-- R355: the tagged address of a leaf: where it stands, and under which key. -/
def Leaf.tag (l : Leaf) : Nat := l.pa + l.key * 2^64

/-- R333: whether an entry is well formed at a level. -/
def pteOk (level : Nat) (e : Nat) : Bool :=
  let leaf := bitsAt e 1 1 == 1
  bitsAt e 0 1 == 1 && bitsAt e 54 10 == 0 &&
  (if level = 4 then leaf else if level = 3 then true else !leaf) &&
  (if leaf then bitsAt e 16 2 != 3 && (level == 4 || bitsAt e 18 11 == 0) else bitsAt e 2 16 == 0)

/-- R331: the index of a level. -/
def walkIndex (level va : Nat) : Nat := bitsAt va (60 - 11 * level) 11

/-- R333: a walk from the table at a frame, `fuel` levels left; the leaf entry and whether it is a 128 MiB page. -/
def State.walkFrom (s : State) (va : Nat) : Nat → Nat → Option (Nat × Bool)
  | 0, _ => none
  | fuel + 1, frame =>
    let level := 4 - fuel
    let e := s.peekKey 0 (frame * 65536 + walkIndex level va * 8) 8
    if pteOk level e then
      if bitsAt e 1 1 = 1 then some (e, level == 3) else s.walkFrom va fuel (bitsAt e 18 36)
    else none

/-- R331, R333: a walk from a job's root. -/
def State.walk (s : State) (job va : Nat) : Option (Nat × Bool) :=
  let r := (s.roots64.look 0 job).toNat
  if bitsAt r 36 1 = 1 then s.walkFrom va 4 (bitsAt r 0 36) else none

/-- R334: the non-leaf entry of a level in a die's walk cache. -/
def State.walkCached (s : State) (die job level va : Nat) : Option Nat :=
  (s.tlbs.find? (fun t => t.level == level && t.level != 0 && t.owner == .die die && t.job == job &&
    t.page / 2^(44 - 11 * level) == va / 65536 / 2^(44 - 11 * level))).map (fun t => t.pte.toNat)

/-- R334: a walk that a die makes: it begins behind the lowest non-leaf entry of the path that its walk cache holds. -/
def State.walkOn (s : State) (die job va : Nat) : Option (Nat × Bool) :=
  match s.walkCached die job 3 va, s.walkCached die job 2 va, s.walkCached die job 1 va with
  | some e, _, _ => s.walkFrom va 1 (bitsAt e 18 36)
  | none, some e, _ => s.walkFrom va 2 (bitsAt e 18 36)
  | none, none, some e => s.walkFrom va 3 (bitsAt e 18 36)
  | none, none, none => s.walk job va

/-- R334: the non-leaf entries that a walk from a table reads, with their levels. -/
def State.pathFrom (s : State) (va : Nat) : Nat → Nat → List (Nat × Nat)
  | 0, _ => []
  | fuel + 1, frame =>
    let e := s.peekKey 0 (frame * 65536 + walkIndex (4 - fuel) va * 8) 8
    if pteOk (4 - fuel) e ∧ bitsAt e 1 1 = 0 then (4 - fuel, e) :: s.pathFrom va fuel (bitsAt e 18 36) else []

/-- R333: the physical address and attributes that a leaf entry gives to an address. -/
def leafOf (e : Nat) (big : Bool) (va : Nat) : Leaf :=
  { pa := bitsAt e 18 36 * 65536 + (if big then va % 2^27 else va % 65536)
    kind := bitsAt e 2 2, key := bitsAt e 4 10, writable := bitsAt e 14 1 == 1, egress := bitsAt e 15 1 == 1
    policy := bitsAt e 16 2 }

/-- R334: the cached leaf that an owner may use for an address: its own or its die's. -/
def State.cached (s : State) (own : TlbOwner) (die job va : Nat) : Option (Nat × Bool) :=
  (s.tlbs.find? (fun t => t.level == 0 && (t.owner == own || t.owner == .die die) && t.job == job &&
    (if t.big then t.page / 2048 == va / 2^27 else t.page == va / 65536))).map (fun t => (t.pte.toNat, t.big))

/-- R333, R334: the leaf of an address, from a cache or by a walk; none when there is no valid entry or the physical
address is unpopulated (R214). -/
def State.translate (s : State) (own : TlbOwner) (die job va : Nat) : Option Leaf :=
  match (match s.cached own die job va with | some e => some e | none => s.walkOn die job va) with
  | some (e, big) =>
    let l := leafOf e big va
    if s.populated l.pa then some l else none
  | none => none

/-- R334: a walk may leave its leaf in the owner's cache, and its non-leaf entries in its die's walk cache; `fill` says whether it does (log 2). A
leaf that is cached already needs no walk. -/
def State.cacheLeaf (own : TlbOwner) (die job va : Nat) (s : State) : State :=
  if s.fill && (s.cached own die job va).isNone then
    match s.walkOn die job va with
    | some (e, big) =>
      let r := (s.roots64.look 0 job).toNat
      let path := if (List.range 3).any (fun l => (s.walkCached die job (l + 1) va).isSome) then [] else s.pathFrom va 4 (bitsAt r 0 36)
      { s with tlbs := { owner := own, job, page := va / 65536, big, pte := BitVec.ofNat 64 e } ::
          path.map (fun (x : Nat × Nat) => { owner := .die die, job, page := va / 65536, level := x.1, pte := BitVec.ofNat 64 x.2 }) ++ s.tlbs }
    | none => s
  else s

/-- Why an access is refused, in the order of the checks of R78 and R226. -/
inductive AccErr where
  | translation | alignment | region | protection | presence | uncorrectable
  deriving DecidableEq, Repr

/-- R185: the class at the sequencer. -/
def AccErr.seqClass : AccErr → Nat
  | .translation => 3 | .alignment => 4 | .region => 5 | .protection => 6 | .presence => 7 | .uncorrectable => 9
/-- R187: the class at a port. -/
def AccErr.portClass : AccErr → Nat
  | .translation => 2 | .alignment => 5 | .region => 4 | .protection => 3 | .presence => 6 | .uncorrectable => 7

/-- What an access does, for the region kinds of R217. -/
inductive AccForm where
  | load | store | presence | atomic | streamRead | syncRead | streamWrite (size : Nat) | combine | fibre | fibreWrite
  | bankRange | fetch
  deriving DecidableEq, Repr

/-- R79, R81-R84, R217, R219, R238, R77: whether a region kind (0 PLAIN, 1 SYNC, 2 FIBRE, 3 BANKLINEAR) allows a form. -/
def kindAllows (f : AccForm) (kind : Nat) : Bool :=
  match f with
  | .load => kind != 2
  | .store => kind == 0 || kind == 3
  | .presence => kind == 1
  | .atomic => kind == 0 || kind == 3
  | .streamRead => kind != 2
  | .syncRead => kind == 1
  | .streamWrite size => kind == 0 || kind == 3 || (kind == 1 && (size == 8 || size == 64))
  | .combine => kind == 0 || kind == 3
  | .fibre => kind == 2
  | .fibreWrite => kind == 2
  | .bankRange => kind == 3
  | .fetch => kind == 0 || kind == 3

/-- Whether a form writes. -/
def AccForm.writes : AccForm → Bool
  | .store => true | .streamWrite _ => true | .atomic => true | .combine => true | .fibreWrite => true
  | .bankRange => true
  | _ => false

/-- R215, R217: whether a leaf's kind agrees with the mode of its frame group, and a BANKLINEAR leaf with key 0 and the
first tier. -/
def State.groupAgrees (s : State) (l : Leaf) : Bool :=
  if l.kind = 3 then State.firstTier l.pa && s.linear l.pa && l.key == 0 else !(s.linear l.pa)

/-- R355: a nonzero key index needs a memory slot owned by the job. -/
def State.keyOk (s : State) (job : Nat) (l : Leaf) : Bool :=
  l.key == 0 || (let k := s.keys.look {} l.key; k.use == 1 && k.owner == job)

/-- R78, R226: the checks of an access of `size` bytes in virtual space, in their order: range, alignment, translation,
region kind, writable bit and key. `STP` and `CLRP` write as well (`write`). -/
def State.checkVirt (s : State) (own : TlbOwner) (die job va size : Nat) (f : AccForm) (write : Bool) :
    Except AccErr Leaf :=
  if 2^60 ≤ va then .error .translation
  else if va % size ≠ 0 then .error .alignment
  else match s.translate own die job va with
    | none => .error .translation
    | some l =>
      if !(kindAllows f l.kind) || !(s.groupAgrees l) then .error .region
      else if (write && !l.writable) || !(s.keyOk job l) then .error .protection
      else .ok l

-- events, freezes, exceptions -------------------------------------------------------------------

/-- R196: a 32-byte event record. -/
def eventRecord (kind job panel cpc spt payload : Nat) : BitVec 256 :=
  BitVec.ofNat 256 (kind + job * 2^8 + panel * 2^16 + cpc * 2^64 + spt * 2^128 + payload % 2^64 * 2^192)

/-- R196: post an event of a strand's region to its job's supervisor; it waits for room in the ring (R387). -/
def State.postEvent (k kind payload : Nat) (s : State) : State :=
  let t := s.strand k
  s.updJob t.job (fun j => { j with events := j.events ++ [eventRecord kind t.job t.lead t.cpc.toNat t.spt.toNat payload] })

/-- R381: a snapshot trigger sets T = trigger cycle + 64; one that arrives before a pending T joins it. -/
def State.triggerSnapshot (p : Pending) (s : State) : State :=
  match s.snapAt with
  | none => { s with snapAt := some { p with at_ := s.cyc + 64 } }
  | some q => { s with snapAt := some { q with jobs := q.jobs ++ p.jobs, strands := q.strands ++ p.strands, all := q.all || p.all } }

/-- R188: the order in which the first-fault fields name faults of one cycle: sequencer, ports, elements, link ingresses. -/
def sourceRank (source : Nat) : Nat :=
  match source with
  | 2 => 0 | 1 => 1 | 0 => 2 | _ => 3

/-- R188: whether a fault takes the first-fault fields: it is the first since the last retry, or comes before the one named in the same
cycle. -/
def Region.takesFirst (r : Region) (cyc : BitVec 64) (panelOff elemNo source : Nat) : Bool :=
  let key (src p e : Nat) : Nat := (sourceRank src * 128 + p) * 64 + e
  !r.fault || (r.firstAt == cyc && decide (key source panelOff elemNo < key r.firstSource r.firstPanel r.firstElem))

/-- R188: a fault of a region sets its fault bit, and the first-fault fields name it where it comes first. -/
def Region.mark (cyc : BitVec 64) (panelOff elemNo source : Nat) (r : Region) : Region :=
  if r.takesFirst cyc panelOff elemNo source then
    { r with fault := true, firstPanel := panelOff, firstElem := elemNo, firstSource := source, firstAt := cyc }
  else { r with fault := true }

/-- R97, R220: a deferred `LDP` of a strand is withdrawn from its word's deferral set, so that the instruction issues afresh. -/
def State.withdrawLdp (k : Nat) (s : State) : State :=
  if s.reqs.any (fun r => r.agent == Agent.seq k && r.kind == ReqKind.syncRead) then
    ({ s with reqs := s.reqs.filter (fun r => !(r.agent == Agent.seq k && r.kind == ReqKind.syncRead)) } : State).updStrand k (fun t =>
      { t with awaits := none, answer := none, waiting := false })
  else s

/-- R189: a region that runs begins to freeze. -/
def State.beginFreeze (k : Nat) (s : State) : State :=
  (s.withdrawLdp k).updStrand k (fun t => { t with region := { t.region with
    state := if t.region.state = .running then .freezing else t.region.state } })

/-- The first element of a list for which `p` holds replaced. -/
def replaceFirst {α : Type} (p : α → Bool) (v : α) : List α → List α
  | [] => []
  | a :: r => if p a then v :: r else a :: replaceFirst p v r

/-- R188, R196: the event of a freeze that has begun in this cycle carries the register of the item that the first-fault fields name now. -/
def State.amendEvent (k payload : Nat) (s : State) : State :=
  let t := s.strand k
  s.updJob t.job (fun j => { j with events :=
    (replaceFirst (fun v => bitsAt v.toNat 0 8 == 2 && bitsAt v.toNat 16 16 == t.lead)
      (eventRecord 2 t.job t.lead t.cpc.toNat t.spt.toNat payload) j.events.reverse).reverse })

/-- R189, R188, R196, R381: a fault in a region starts the freeze, names the first-faulting item, posts one kind-2 event
with its register and triggers the region's snapshot; a fault of a region that freezes already only sets the fault bit, but for one of the same
cycle that comes before the one named. -/
def State.faultRegion (k panelOff elemNo source payload : Nat) (s : State) : State :=
  let r := (s.strand k).region
  let s1 := s.updStrand k (fun t => { t with region := { t.region.mark s.cyc panelOff elemNo source with before := .frozen } })
  if r.state = .running ∨ ((s.strand k).run = .saved ∧ r.before ≠ .frozen) then
    ((s1.beginFreeze k).postEvent k 2 payload).triggerSnapshot { strands := [k] }
  else if r.fault ∧ r.before = .frozen ∧ r.takesFirst s.cyc panelOff elemNo source then s1.amendEvent k payload
  else s1

/-- R185: the sequencer fault register. -/
def seqFaultReg (cls cause word addr : Nat) : BitVec 128 :=
  BitVec.ofNat 128 (cls + cause * 2^4 + word * 2^8 + addr % 2^60 * 2^64)

/-- R96, R46: the acting strand takes a precise fault. The faulting word changes no register, token, weight or memory;
`cpc` and `spt` go on naming it; the fault register records it and the strand freezes there. `RETRY` returns (R192). -/
def State.raise (cls cause word addr : Nat) (s : State) : State :=
  let reg := seqFaultReg cls cause word addr
  let s1 := s.updSelf (fun t => { t with fault := reg, waiting := false })
  s1.faultRegion s.site.strand 0 0 2 (reg.toNat % 2^64)

/-- R185: the word that the acting sequencer executes; it goes into the fault register. -/
def State.selfWord (s : State) : Nat := s.site.word.toNat

/-- R185: classes 3-7 and 9 carry the faulting address. -/
def State.raiseAcc (e : AccErr) (va : Nat) (s : State) : State := s.raise e.seqClass 0 s.selfWord va

/-- R186: the element fault register. -/
def elemFaultReg (cause slot : Nat) (chan : Option Nat) (idx : BitVec 32) (detail : Nat) : BitVec 64 :=
  BitVec.ofNat 64 (cause + slot * 2^4 + (match chan with | some c => c * 2^6 + 2^9 | none => 0) + idx.toNat * 2^16 +
    detail % 2^16 * 2^48)

/-- R164: an element raises a fault: the firing does not begin, the register records it, the region freezes. -/
def State.raiseElem (e slot cause : Nat) (chan : Option Nat) (detail : Nat) (s : State) : State :=
  let k := s.strandOf e
  let reg := elemFaultReg cause slot chan ((s.elem e).slot slot).idx detail
  (s.updElem e (fun x => { x with fault := reg })).faultRegion k (((s.strand k).offsetOf (panelOf e)).getD 0) (e % 64) 0 reg.toNat

/-- R187: the port fault register. -/
def portFaultReg (cls op idx addr space : Nat) : BitVec 128 :=
  BitVec.ofNat 128 (cls + op % 256 * 2^8 + idx % 2^32 * 2^16 + addr % 2^60 * 2^64 + space * 2^124)

/-- R187, R189: a port records a fault and the region freezes. The register holds one fault: a second one of the same AGE takes its place (log 123). -/
def State.raisePort (e cls op idx addr space : Nat) (s : State) : State :=
  let k := s.strandOf e
  let reg := portFaultReg cls op idx addr space
  (s.updAge e (fun a => { a with port := reg })).faultRegion k (((s.strand k).offsetOf (panelOf (e % 2^20))).getD 0) (e % 64) 1
    (reg.toNat % 2^64)

/-- R187: a command in a place is held by a port fault at one of its elements. -/
def State.holdPlace (e p cls op idx addr space : Nat) (s : State) : State :=
  (s.updPlace e p (fun x => { x with held := true })).raisePort e cls op idx addr space

/-- R380: n occurrences of an event of a job on a die, counted by the enabled counters that name it. -/
def State.countPerf (die ev job n : Nat) (s : State) : State :=
  { s with perf := s.perf.map (fun (p : Nat × Perf) =>
      let c := p.2.control.toNat
      if p.1 / 8 = die ∧ bitsAt c 15 1 = 1 ∧ bitsAt c 0 8 = ev ∧ (bitsAt c 14 1 = 1 ∨ bitsAt c 8 6 = job) then
        (p.1, { p.2 with value := p.2.value + BitVec.ofNat 48 n })
      else p) }

-- channels --------------------------------------------------------------------------------------

/-- The route entries of an output port. -/
def Elem.routesOf (e : Elem) (port : Nat) : List (Nat × Route) := e.routes.filter (fun r => r.2.srcPort == port)

/-- R292, R28: every branch of an output has room for n more tokens. -/
def Elem.room (e : Elem) (port n : Nat) : Bool :=
  (e.routesOf port).all (fun r => decide (r.2.window + n ≤ r.2.dstDepth))

/-- R292: a token emitted on every branch of an output in one firing. -/
def Elem.emit (port : Nat) (t : Token) (e : Elem) : Elem :=
  { e with routes := e.routes.map (fun r =>
      if r.2.srcPort = port then (r.1, { r.2 with window := r.2.window + 1, flight := r.2.flight ++ [t] }) else r) }

/-- R291: the head of an input consumed; the window count of the branch that brought it falls. -/
def State.consume (e port : Nat) (s : State) : State :=
  match (s.elem e).chan port with
  | [] => s
  | t :: r =>
    (s.updElem e (fun x => { x with chans := x.chans.put port r })).updElem t.src (fun x =>
      { x with routes := x.routes.map (fun q =>
          if q.1 = t.entry then (q.1, { q.2 with window := q.2.window - 1 }) else q) })

/-- Heads of several inputs consumed, one token for each number listed. -/
def State.consumeAll (e : Nat) : List Nat → State → State
  | [], s => s
  | p :: r, s => State.consumeAll e r (s.consume e p)

/-- Tokens emitted in order, each on its port. -/
def Elem.emitAll : List (Nat × Token) → Elem → Elem
  | [], e => e
  | (p, t) :: r, e => Elem.emitAll r (e.emit p t)

/-- R290: the oldest token travelling on a route arrives at its destination input. -/
def State.deliver (e m : Nat) (s : State) : State :=
  match Tab.look (none : Option Route) ((s.elem e).routes.map (fun r => (r.1, some r.2))) m with
  | some r =>
    match r.flight with
    | [] => s
    | t :: rest =>
      (s.updElem e (fun x => { x with routes := x.routes.map (fun q =>
          if q.1 = m then (q.1, { q.2 with flight := rest }) else q) })).updElem r.dstElem (fun x =>
        { x with chans := x.chans.put r.dstPort (x.chan r.dstPort ++ [{ tok := t, src := e, entry := m }]) })
  | none => s

/-- The number of tokens to be emitted on a port. -/
def countPort (p : Nat) (l : List (Nat × Token)) : Nat := (l.filter (fun x => x.1 == p)).length

/-- R28, R133: every port named has room for the tokens to be emitted on it. -/
def Elem.roomFor (e : Elem) (l : List (Nat × Token)) : Bool := l.all (fun x => e.room x.1 (countPort x.1 l))

/-- The output ports of a mask, in ascending order (R47). -/
def maskPorts (m : BitVec 8) : List Nat := (List.range 8).filter (fun n => m.getLsbD n)

/-- One token on every port of a mask. -/
def toPorts (m : BitVec 8) (t : Token) : List (Nat × Token) := (maskPorts m).map (fun p => (p, t))

-- weights ---------------------------------------------------------------------------------------

/-- The lowest set bit of a number below 2^64, searched from bit i up. -/
def lowBit (v : Nat) : Nat → Nat → Nat
  | 0, i => i
  | f + 1, i => if v / 2^i % 2 = 1 then i else lowBit v f (i + 1)

/-- R370: `Give` from a holding: the exponent given, the holding left, and whether 2^-32 was borrowed first. -/
def give (w : BitVec 64) : Option (Nat × BitVec 64 × Bool) :=
  if w = 0 then none
  else
    let i := lowBit w.toNat 63 0
    let e := 63 - i
    let one : BitVec 64 := BitVec.ofNat 64 (2^i)
    if w ≠ one then some (e, w - one, false)
    else if e < 63 then some (e + 1, BitVec.ofNat 64 (2^(i-1)), false)
    else some (63, BitVec.ofNat 64 (2^31), true)

/-- R369: a weight in units of 2^-63 as a root register's amount. -/
def weightAmount (w : BitVec 64) : BitVec 96 := BitVec.ofNat 96 (w.toNat * 2)

/-- R371: weight returned to a root. -/
def State.returnTo (r : Nat) (w : BitVec 64) (s : State) : State :=
  s.setRoot r { s.root r with returned := (s.root r).returned + weightAmount w }

/-- R370: a borrow raises the root's expected register by 2^-32. -/
def State.borrowFrom (r : Nat) (s : State) : State :=
  s.setRoot r { s.root r with expected := (s.root r).expected + BitVec.ofNat 96 (2^32) }

/-- R371: the root is quiet exactly when returned = expected. -/
def State.rootQuiet (s : State) (r : Nat) : Bool := (s.root r).returned == (s.root r).expected

/-- R373, R374: a free root of a die. The rules ask for a free one and name none: the lowest-numbered is a DESIGN CHOICE (log 100). -/
def State.freeRoot (s : State) (die : Nat) : Option Nat :=
  ((List.range 256).map (· + die * 256)).find? (fun r => (s.root r).kind == 0)

-- barriers --------------------------------------------------------------------------------------

/-- R363: the phase completes when outstanding and pending are both zero. -/
def Barrier.settle (b : Barrier) : Barrier :=
  if b.outstanding = 0 ∧ b.pending = 0 then { b with phase := !b.phase, outstanding := b.n } else b

/-- R363: n bytes counted, each with the test of completion behind it. -/
def Barrier.count : Nat → Barrier → Barrier
  | 0, b => b
  | n + 1, b => Barrier.count n ({ b with pending := b.pending - 1 } : Barrier).settle

/-- R363: bytes counted against a barrier of a die, if it is valid and belongs to the job; otherwise they count nowhere. -/
def State.countBytes (bar : Option Nat) (job n : Nat) (s : State) : State :=
  match bar with
  | none => s
  | some b =>
    let x := s.barrier b
    if x.valid && x.job == job && n != 0 then
      s.setBarrier b (x.count n)
    else s

end Sys2Proof.Machine
end

