-- ==== Sys2Proof/Machine/Numbers.lean ====
section
/-!
DEFINITION. Number formats and arithmetic (chapter "Registers II"): integers, the floating-point formats, `Round`,
conversions, Block-4, and the sums whose order is fixed. Every result is computed exactly and rounded once.
-/

namespace Sys2Proof.Machine

-- integers --------------------------------------------------------------------------------------

/-- R99: an integer format: its width and whether it is signed. -/
structure IFmt where
  n : Nat
  signed : Bool
  deriving DecidableEq, Repr

/-- R99: the value of a pattern. -/
def IFmt.val (f : IFmt) (v : Nat) : Int := if f.signed then sint f.n v else ((v % 2^f.n : Nat) : Int)
/-- R99: the least value. -/
def IFmt.min (f : IFmt) : Int := if f.signed then -((2^(f.n - 1) : Nat) : Int) else 0
/-- R99: the greatest value. -/
def IFmt.max (f : IFmt) : Int := if f.signed then ((2^(f.n - 1) : Nat) : Int) - 1 else ((2^f.n : Nat) : Int) - 1
/-- A value clamped to the format. -/
def IFmt.clamp (f : IFmt) (v : Int) : Int := if v < f.min then f.min else if f.max < v then f.max else v
/-- R100: an exact result reduced to the format: wrapped, or with SAT clamped. -/
def IFmt.reduce (f : IFmt) (sat : Bool) (v : Int) : Nat := wrapN f.n (if sat then f.clamp v else v)

-- floating point --------------------------------------------------------------------------------

/-- R101: a floating-point format. -/
structure FFmt where
  eb : Nat
  mb : Nat
  bias : Nat
  /-- R102: E4M3 has no infinities -/
  e4m3 : Bool := false
  deriving DecidableEq, Repr

/-- R101 -/
def fp32 : FFmt := { eb := 8, mb := 23, bias := 127 }
/-- R101 -/
def fp16 : FFmt := { eb := 5, mb := 10, bias := 15 }
/-- R101 -/
def bf16 : FFmt := { eb := 8, mb := 7, bias := 127 }
/-- R101 -/
def e4m3 : FFmt := { eb := 4, mb := 3, bias := 7, e4m3 := true }
/-- R101 -/
def e5m2 : FFmt := { eb := 5, mb := 2, bias := 15 }

/-- The width of a format in bits. -/
def FFmt.bits (f : FFmt) : Nat := 1 + f.eb + f.mb

/-- The exact value of a pattern: (-1)^neg × m × 2^e, an infinity, or NaN. -/
inductive FVal where
  | nan
  | inf (neg : Bool)
  | fin (neg : Bool) (m : Nat) (e : Int)
  deriving DecidableEq, Repr

/-- The exponent of the smallest subnormal. -/
def FFmt.emin (f : FFmt) : Int := 1 - (f.bias : Int) - (f.mb : Int)

/-- R101, R102: the value of a pattern. -/
def FFmt.read (f : FFmt) (v : Nat) : FVal :=
  let neg := bitsAt v (f.eb + f.mb) 1 == 1
  let e := bitsAt v f.mb f.eb
  let m := bitsAt v 0 f.mb
  if e = 2^f.eb - 1 then
    if f.e4m3 then (if m = 2^f.mb - 1 then .nan else .fin neg (2^f.mb + m) ((e : Int) - f.bias - f.mb))
    else if m = 0 then .inf neg else .nan
  else if e = 0 then .fin neg m f.emin
  else .fin neg (2^f.mb + m) ((e : Int) - f.bias - f.mb)

/-- The pattern of sign, exponent field and mantissa field. -/
def FFmt.pack (f : FFmt) (neg : Bool) (e m : Nat) : Nat := (if neg then 2^(f.eb + f.mb) else 0) + e * 2^f.mb + m
/-- R103: the canonical NaN. -/
def FFmt.nan (f : FFmt) : Nat := f.pack false (2^f.eb - 1) (if f.e4m3 then 2^f.mb - 1 else 2^(f.mb - 1))
/-- An infinity; E4M3 has none, and R106 gives NaN there. -/
def FFmt.inf (f : FFmt) (neg : Bool) : Nat := if f.e4m3 then f.nan else f.pack neg (2^f.eb - 1) 0
/-- A signed zero. -/
def FFmt.zero (f : FFmt) (neg : Bool) : Nat := f.pack neg 0 0
/-- R101: the largest finite value, as its pattern. -/
def FFmt.largest (f : FFmt) (neg : Bool) : Nat :=
  if f.e4m3 then f.pack neg (2^f.eb - 1) (2^f.mb - 2) else f.pack neg (2^f.eb - 2) (2^f.mb - 1)
/-- R101: the significand of the largest finite value, in units of 2^maxE. -/
def FFmt.maxM (f : FFmt) : Nat := if f.e4m3 then 2^(f.mb + 1) - 2 else 2^(f.mb + 1) - 1
/-- R101: the exponent of the last mantissa bit of the largest finite value. -/
def FFmt.maxE (f : FFmt) : Int := ((2^f.eb : Nat) : Int) - (if f.e4m3 then 1 else 2) - f.bias - f.mb

/-- R105: the rounding modes, with the codes of R49. -/
inductive RMode where
  | rne | rz | ru | rd
  deriving DecidableEq, Repr

/-- R49: the mode of a mod field. -/
def rmodeOf (md : Nat) : RMode := match md % 4 with | 0 => .rne | 1 => .rz | 2 => .ru | _ => .rd

/-- R105: m × 2^sh, the magnitude of a number of the given sign, rounded to an integer under a mode. -/
def roundShift (mode : RMode) (neg : Bool) (m : Nat) (sh : Int) : Nat :=
  match sh with
  | .ofNat k => m * 2^k
  | .negSucc k =>
    let q := m / 2^(k + 1)
    let r := m % 2^(k + 1)
    let h := 2^k
    let up := match mode with
      | .rne => decide (h < r) || (r == h && q % 2 == 1)
      | .rz => false
      | .ru => r != 0 && !neg
      | .rd => r != 0 && neg
    if up then q + 1 else q

/-- R106: the result of an overflow. -/
def FFmt.overflow (f : FFmt) (mode : RMode) (sat neg : Bool) : Nat :=
  if sat then f.largest neg
  else match mode with
    | .rne => f.inf neg
    | .rz => f.largest neg
    | .ru => if neg then f.largest neg else f.inf neg
    | .rd => if neg then f.inf neg else f.largest neg

/-- R105, R106: `Round` of (-1)^neg × m × 2^e; a nonzero value that rounds to zero keeps its sign (R107). -/
def FFmt.round (f : FFmt) (mode : RMode) (sat neg : Bool) (m : Nat) (e : Int) : Nat :=
  if m = 0 then f.zero neg
  else
    let top : Int := e + (m.log2 : Int) - (f.mb : Int)
    let u := if top < f.emin then f.emin else top
    let q := roundShift mode neg m (e - u)
    if f.maxE < u ∨ (u = f.maxE ∧ f.maxM < q) then f.overflow mode sat neg
    else if q < 2^f.mb then f.pack neg 0 q
    else if q = 2^(f.mb + 1) then f.pack neg ((u + f.bias + f.mb) + 1).toNat 0
    else f.pack neg (u + f.bias + f.mb).toNat (q - 2^f.mb)

/-- The signed magnitude of a finite value in units of 2^u, for u not above its exponent. -/
def signedAt (neg : Bool) (m : Nat) (e u : Int) : Int :=
  let v : Int := ((m * 2^(e - u).toNat : Nat) : Int)
  if neg then -v else v

/-- R107: the sign of an exact zero sum of two operands of the signs given. -/
def zeroSign (mode : RMode) (na nb az bz : Bool) : Bool :=
  if az && bz && na == nb then na else mode == .rd

/-- `Round` of an exact signed number of units of 2^u. -/
def FFmt.roundInt (f : FFmt) (mode : RMode) (sat zneg : Bool) (v u : Int) : Nat :=
  if v = 0 then f.zero zneg else f.round mode sat (decide (v < 0)) v.natAbs u

/-- R107: the sign of an exact zero result of an addition or subtraction of the two operands given. -/
def zeroOf (mode : RMode) (a b : FVal) : Bool :=
  match a, b with
  | .fin na ma _, .fin nb mb _ => zeroSign mode na nb (ma == 0) (mb == 0)
  | _, _ => false

/-- The sum of two values, rounded once; an exact zero takes the sign given. -/
def FFmt.sumZ (f : FFmt) (mode : RMode) (zneg : Bool) (a b : FVal) : Nat :=
  match a, b with
  | .nan, _ => f.nan
  | _, .nan => f.nan
  | .inf x, .inf y => if x = y then f.inf x else f.nan
  | .inf x, .fin _ _ _ => f.inf x
  | .fin _ _ _, .inf y => f.inf y
  | .fin na ma ea, .fin nb mb eb =>
    let u := if ea ≤ eb then ea else eb
    f.roundInt mode false zneg (signedAt na ma ea u + signedAt nb mb eb u) u

/-- R136, R137, R107: the sum of two values, rounded once. -/
def FFmt.sum (f : FFmt) (mode : RMode) (a b : FVal) : Nat := f.sumZ mode (zeroOf mode a b) a b

/-- The value with its sign changed. -/
def FVal.neg : FVal → FVal
  | .nan => .nan
  | .inf x => .inf !x
  | .fin x m e => .fin (!x) m e

/-- R137: the exact product of two values. -/
def FVal.mul : FVal → FVal → FVal
  | .nan, _ => .nan
  | _, .nan => .nan
  | .inf x, .inf y => .inf (x != y)
  | .inf x, .fin y m _ => if m = 0 then .nan else .inf (x != y)
  | .fin x m _, .inf y => if m = 0 then .nan else .inf (x != y)
  | .fin x m e, .fin y k g => .fin (x != y) (m * k) (e + g)

/-- R108: a value rounded into a format; an infinity into E4M3 follows R106. -/
def FFmt.ofVal (f : FFmt) (mode : RMode) (sat : Bool) : FVal → Nat
  | .nan => f.nan
  | .inf x => if f.e4m3 && sat then f.largest x else f.inf x
  | .fin x m e => f.round mode sat x m e

/-- `Round` of an integer's exact value. -/
def FFmt.ofInt (f : FFmt) (mode : RMode) (sat : Bool) (v : Int) : Nat := f.round mode sat (decide (v < 0)) v.natAbs 0

/-- R103: a pattern as a result: a NaN of any payload is the canonical one. -/
def FFmt.canon (f : FFmt) (v : Nat) : Nat := if f.read v = .nan then f.nan else v

/-- R136: `FADD`. -/
def FFmt.add (f : FFmt) (mode : RMode) (a b : Nat) : Nat := f.sum mode (f.read a) (f.read b)
/-- R136: `FSUB`; R107 gives the sign of a zero difference from the signs of a and b themselves (log 15). -/
def FFmt.sub (f : FFmt) (mode : RMode) (a b : Nat) : Nat :=
  f.sumZ mode (zeroOf mode (f.read a) (f.read b)) (f.read a) (f.read b).neg
/-- R136: `FMUL`. -/
def FFmt.mul (f : FFmt) (mode : RMode) (a b : Nat) : Nat := f.ofVal mode false ((f.read a).mul (f.read b))
/-- R136: `FFMA`, rounded once. -/
def FFmt.fma (f : FFmt) (mode : RMode) (a b c : Nat) : Nat := f.sum mode ((f.read a).mul (f.read b)) (f.read c)

/-- The order of two values that are not NaN: less than. +0 and −0 are equal. -/
def FVal.lt : FVal → FVal → Bool
  | .nan, _ => false
  | _, .nan => false
  | .inf x, .inf y => x && !y
  | .inf x, .fin _ _ _ => x
  | .fin _ _ _, .inf y => !y
  | .fin x m e, .fin y k g =>
    let u := if e ≤ g then e else g
    decide (signedAt x m e u < signedAt y k g u)

/-- Whether a value is NaN. -/
def FVal.isNan : FVal → Bool
  | .nan => true
  | _ => false
/-- Whether a value is a zero. -/
def FVal.isZero : FVal → Bool
  | .fin _ 0 _ => true
  | _ => false
/-- Whether a value is neither NaN nor an infinity. -/
def FVal.finite : FVal → Bool
  | .fin _ _ _ => true
  | _ => false
/-- The sign of a value. -/
def FVal.sign : FVal → Bool
  | .nan => false
  | .inf x => x
  | .fin x _ _ => x

/-- R120: the maximum of two patterns. -/
def FFmt.max (f : FFmt) (a b : Nat) : Nat :=
  let x := f.read a
  let y := f.read b
  if x.isNan || y.isNan then f.nan
  else if x.lt y then b
  else if y.lt x then a
  else if x.isZero && y.isZero then f.zero (x.sign && y.sign) else a

/-- R120: the minimum of two patterns. -/
def FFmt.min (f : FFmt) (a b : Nat) : Nat :=
  let x := f.read a
  let y := f.read b
  if x.isNan || y.isNan then f.nan
  else if x.lt y then a
  else if y.lt x then b
  else if x.isZero && y.isZero then f.zero (x.sign || y.sign) else a

/-- R139: `FRND`. -/
def FFmt.rnd (f : FFmt) (mode : RMode) (a : Nat) : Nat :=
  match f.read a with
  | .nan => f.nan
  | .inf x => f.inf x
  | .fin x m e => f.round mode false x (roundShift mode x m e) 0

/-- R139: `FEXPX`; `code` is the format code, for the results that the rule leaves open (log 14). -/
def FFmt.expx (f : FFmt) (code a : Nat) : Nat :=
  match f.read a with
  | .nan => f.nan
  | .inf _ => f.inf false
  | .fin _ m e =>
    if m = 0 then f.inf true
    else
      let k : Int := e + (m.log2 : Int)
      let r := f.ofInt .rz false k
      if r = f.ofInt .ru false k ∧ r = f.ofInt .rd false k then r
      else (Config.fexpxOpen code (BitVec.ofNat 8 a)).toNat

/-- R139: `FEXPI`. -/
def FFmt.expi (f : FFmt) (mode : RMode) (a n : Nat) : Nat :=
  match f.read a, f.read n with
  | .nan, _ => f.nan
  | _, .nan => f.nan
  | .inf x, _ => f.inf x
  | .fin x m e, .inf y => f.round mode false x m (e + (if y then -1024 else 1024))
  | .fin x m e, .fin y k g =>
    let t := roundShift .rz y k g
    let t : Int := ((if 1024 < t then 1024 else t : Nat) : Int)
    f.round mode false x m (e + (if y then -t else t))

/-- ln 2 in units of 2^-320. -/
def ln2fix : Int := 0xb17217f7d1cf79abc9e3b39803f2f6af40f343267298b62d8a0d175b8baafa2be7b876206debac98

/-- The Taylor sum of e^y for y in units of 2^-320: `fuel` terms from term `t` = y^k/k! on. -/
def expTerms (y : Int) : Nat → Nat → Int → Int
  | 0, _, _ => 0
  | fuel + 1, k, t => t + expTerms y fuel (k + 1) (t * y / ((2^320 : Nat) : Int) / ((k + 1 : Nat) : Int))

/-- 2^a for the value (-1)^neg × m × 2^e of magnitude at most 0.5, in units of 2^-256. -/
def exp2fix (neg : Bool) (m : Nat) (e : Int) : Nat :=
  let a : Int := signedAt neg m (e + 320) 0
  let y := a * ln2fix / ((2^320 : Nat) : Int)
  (expTerms y 60 0 ((2^320 : Nat) : Int) / ((2^64 : Nat) : Int)).toNat

/-- R140: `FEXP2F`. Which neighbour is taken is open (log 6). -/
def fexp2 (a : Nat) : Nat :=
  match fp32.read a with
  | .fin neg m e =>
    if m = 0 then 0x3F800000
    else if m * 2^(e + 200).toNat > 2^199 then fp32.nan
    else
      let t := exp2fix neg m e
      let v := fp32.round .rz false false t (-256)
      let one := 2^256 - Nat.min Config.exp2One (2^233 - 1)
      if neg ∧ one ≤ t then 0x3F800000
      else
        let unit := if t < 2^256 then 2^232 else 2^233
        if t % unit ≥ Config.exp2Cut (BitVec.ofNat 32 v) ∧ t % unit ≠ 0 ∧ !(neg ∧ v = 0x3F7FFFFF) then v + 1 else v
  | _ => fp32.nan

/-- R140: `FRCP`. Which neighbour is taken is open (log 5). -/
def frcp (a : Nat) : Nat :=
  match fp32.read a with
  | .nan => fp32.nan
  | .inf x => fp32.zero x
  | .fin x m e =>
    if m = 0 then fp32.inf x
    else
      let top : Int := -e - (m.log2 : Int) - (if m = 2^m.log2 then 0 else 1) - 23
      let u := if top < fp32.emin then fp32.emin else top
      let d := 2^(-e - u).toNat
      let q := d / m
      let exact := d % m == 0
      if fp32.maxE < u ∨ (u = fp32.maxE ∧ (fp32.maxM < q ∨ (fp32.maxM = q ∧ !exact))) then fp32.inf x
      else fp32.round .rz false x (if exact then q else if Config.frcpUp (BitVec.ofNat 32 a) then q + 1 else q) u

/-- The integer square root of v by its bits from bit `fuel` - 1 down. -/
def isqrtFrom (v : Nat) : Nat → Nat → Nat
  | 0, r => r
  | k + 1, r => isqrtFrom v k (if (r + 2^k) * (r + 2^k) ≤ v then r + 2^k else r)

/-- R140: `FRSQ`. Which neighbour is taken is open (log 5). -/
def frsq (a : Nat) : Nat :=
  match fp32.read a with
  | .nan => fp32.nan
  | .inf x => if x then fp32.nan else fp32.zero false
  | .fin x m e =>
    if m = 0 then fp32.inf x
    else if x then fp32.nan
    else
      let m := if e % 2 = 0 then m else m * 2
      let e := if e % 2 = 0 then e else e - 1
      let s := (48 + m.log2) / 2
      let q := isqrtFrom (2^(2 * s) / m) 26 0
      let exact := q * q * m == 2^(2 * s)
      fp32.round .rz false false (if exact then q else if Config.frsqUp (BitVec.ofNat 32 a) then q + 1 else q)
        (-(e / 2) - s)

-- conversions -----------------------------------------------------------------------------------

/-- R109: floating point to integer; the clamping happens with or without SAT. -/
def FVal.toInt (i : IFmt) (mode : RMode) : FVal → Nat
  | .nan => 0
  | .inf x => wrapN i.n (if x then i.min else i.max)
  | .fin x m e =>
    let r : Int := ((roundShift mode x m e : Nat) : Int)
    wrapN i.n (i.clamp (if x then -r else r))

/-- A number format of R53 other than none and Block-4. -/
inductive Num where
  | int (i : IFmt)
  | flt (f : FFmt)
  deriving DecidableEq, Repr

/-- R98: bits of an element. -/
def Num.bits : Num → Nat
  | .int i => i.n
  | .flt f => f.bits

/-- R53: the number format of a code. -/
def numOf (code : Nat) : Option Num :=
  match code with
  | 0x01 => some (.int ⟨8, true⟩) | 0x02 => some (.int ⟨16, true⟩) | 0x03 => some (.int ⟨32, true⟩)
  | 0x04 => some (.int ⟨32, false⟩) | 0x05 => some (.int ⟨64, true⟩) | 0x06 => some (.int ⟨64, false⟩)
  | 0x10 => some (.flt fp32) | 0x11 => some (.flt fp16) | 0x12 => some (.flt bf16)
  | 0x13 => some (.flt e4m3) | 0x14 => some (.flt e5m2)
  | _ => none

/-- R163: format none reads as UINT32. -/
def numOrU32 (code : Nat) : Num := (numOf code).getD (.int ⟨32, false⟩)

/-- R108, R109: one element converted. Between integer formats a widening conversion extends by the source's sign, with or
without SAT; a narrowing one wraps or clamps, and so does one between formats of one width (log 16). -/
def convert (src dst : Num) (mode : RMode) (sat : Bool) (v : Nat) : Nat :=
  match src, dst with
  | .flt f, .flt g => g.ofVal mode sat (f.read v)
  | .flt f, .int i => (f.read v).toInt i mode
  | .int i, .flt g => g.ofInt mode sat (i.val v)
  | .int i, .int j => j.reduce (sat && decide (j.n ≤ i.n)) (i.val v)

-- Block-4 ---------------------------------------------------------------------------------------

/-- R111: the magnitude of a code in eighths, with its sign; type 0 INT, 1 E2M1, 2 POW, 3 HYB. -/
def blkQ (ty c : Nat) : Int :=
  let neg := c / 8 % 2 = 1
  let k := c % 8
  let q : Nat := match ty with
    | 1 => [0, 4, 8, 12, 16, 24, 32, 48].getD k 0
    | 2 => if k = 0 then 0 else 2^(k - 1)
    | _ => if k < 4 then 8 * k else 8 * 2^(k % 4 + 2)
  if ty = 0 then sint 4 c * 8 else if neg then -(q : Int) else (q : Int)

/-- R113: the value of a code in a block with a scale byte; a zero magnitude reads +0 (R111). -/
def blkVal (scale c : Nat) : FVal :=
  let e := scale % 64
  if e = 63 then .nan
  else
    let q := blkQ (scale / 64 % 4) c
    .fin (decide (q < 0)) q.natAbs ((e : Int) - 34)

/-- R111: the largest magnitude of a type, in eighths. -/
def blkMax (ty : Nat) : Nat := match ty with | 0 => 56 | 1 => 48 | 2 => 64 | _ => 256

/-- The codes of a type. -/
def blkCodes : List Nat := List.range 16

/-- A finite value in units of 2^u. -/
def FVal.units (u : Int) : FVal → Int
  | .fin x m e => signedAt x m e u
  | _ => 0

/-- The code of a type nearest below or at v (in units of 2^u, one eighth of the scale being `unit` of them), none where no
code is so low. A zero is code 0. -/
def blkFloor (ty : Nat) (unit v : Int) : Option Nat :=
  blkCodes.foldl (fun best c =>
    let q := blkQ ty c * unit
    if q ≤ v ∧ !(q = 0 ∧ c ≠ 0) then
      match best with
      | none => some c
      | some b => if blkQ ty b * unit < q then some c else best
    else best) none

/-- The code of a type nearest above or at v. -/
def blkCeil (ty : Nat) (unit v : Int) : Option Nat :=
  blkCodes.foldl (fun best c =>
    let q := blkQ ty c * unit
    if v ≤ q ∧ !(q = 0 ∧ c ≠ 0) then
      match best with
      | none => some c
      | some b => if q < blkQ ty b * unit then some c else best
    else best) none

/-- R114: `CodeRound`. -/
def codeRound (ty : Nat) (mode : RMode) (unit v : Int) : Nat :=
  match blkFloor ty unit v, blkCeil ty unit v with
  | none, some c => c
  | some c, none => c
  | none, none => 0
  | some lo, some hi =>
    let dl := v - blkQ ty lo * unit
    let dh := blkQ ty hi * unit - v
    if dl = 0 then lo
    else if dh = 0 then hi
    else match mode with
      | .rne => if dl < dh then lo else if dh < dl then hi else if lo % 2 = 0 then lo else hi
      | .rz => if v < 0 then hi else lo
      | .ru => hi
      | .rd => lo

/-- R114: the smallest e in 0..62 with m ≤ Qmax × 2^(e-31), or 62; m in units of 2^u, u ≤ -34. -/
def blkScale (ty m : Nat) (u : Int) : Nat :=
  ((List.range 63).find? (fun (e : Nat) => decide (m ≤ blkMax ty * 2^((((e : Nat) : Int) - 34 - u).toNat)))).getD 62

/-- R114: a block of finite values quantised for a type: the scale byte and its codes. -/
def blkQuant (ty : Nat) (mode : RMode) (u : Int) (vs : List Int) : Nat × List Nat :=
  let m := vs.foldl (fun a v => Nat.max a v.natAbs) 0
  let e := if m = 0 then 0 else blkScale ty m u
  let unit : Int := ((2^((e : Int) - 34 - u).toNat : Nat) : Int)
  (ty * 64 + e, vs.map (codeRound ty mode unit))

/-- R115: the exact error of a quantised block, in units of 2^(2u). -/
def blkError (u : Int) (vs : List Int) (b : Nat × List Nat) : Nat :=
  let ty := b.1 / 64
  let unit : Int := ((2^((b.1 % 64 : Nat) - 34 - u : Int).toNat : Nat) : Int)
  (vs.zip b.2).foldl (fun a p => a + ((p.1 - blkQ ty p.2 * unit) * (p.1 - blkQ ty p.2 * unit)).natAbs) 0

/-- R114, R115: a block of FP32 inputs quantised under a type rule, 4 being best of four. -/
def quantBlock (rule : Nat) (mode : RMode) (ins : List Nat) : Nat × List Nat :=
  let vals := ins.map fp32.read
  if vals.any (fun v => !v.finite) then ((if rule = 4 then 0 else rule) * 64 + 63, ins.map (fun _ => 0))
  else
    let u : Int := -149
    let vs := vals.map (FVal.units u)
    if rule = 4 then
      let c := [1, 2, 3].foldl (fun best ty =>
        let b := blkQuant ty mode u vs
        if blkError u vs b < blkError u vs best then b else best) (blkQuant 0 mode u vs)
      c
    else blkQuant rule mode u vs

-- sums ------------------------------------------------------------------------------------------

/-- One level of the pairwise tree. -/
def pairUp (f : Nat → Nat → Nat) : List Nat → List Nat
  | a :: b :: r => f a b :: pairUp f r
  | l => l

/-- R116: the pairwise tree, by its number of levels. -/
def treeSum (f : Nat → Nat → Nat) : Nat → List Nat → Nat
  | 0, l => l.headD 0
  | k + 1, l => treeSum f k (pairUp f l)

/-- R117: the exact sum of terms, rounded once to FP32; an exact zero is +0. -/
def exactSum (terms : List FVal) : Nat :=
  if terms.any FVal.isNan then fp32.nan
  else
    let pos := terms.any (fun t => match t with | .inf x => !x | _ => false)
    let neg := terms.any (fun t => match t with | .inf x => x | _ => false)
    if pos && neg then fp32.nan
    else if pos then fp32.inf false
    else if neg then fp32.inf true
    else
      let u := terms.foldl (fun u t => match t with | .fin _ _ e => if e < u then e else u | _ => u) (0 : Int)
      let v := terms.foldl (fun a t => a + t.units u) (0 : Int)
      fp32.roundInt .rne false false v u

/-- R118: one level of the combining tree over bank indices. -/
def combineLevel (f : Nat → Nat → Nat) : List (Nat × Nat) → List (Nat × Nat)
  | (a, x) :: (b, y) :: r =>
    if a / 2 = b / 2 then (a / 2, f x y) :: combineLevel f r else (a / 2, x) :: combineLevel f ((b, y) :: r)
  | (a, x) :: r => (a / 2, x) :: combineLevel f r
  | [] => []

/-- R118: the combining tree over partials in ascending bank index. -/
def combineTree (f : Nat → Nat → Nat) : Nat → List (Nat × Nat) → Option Nat
  | 0, l => l.head?.map (·.2)
  | k + 1, l => combineTree f k (combineLevel f l)

/-- R119: partials combined two at a time in an open order, by the free pick (log 7). -/
def combineAny (f : Nat → Nat → Nat) (seed : Nat) : Nat → List Nat → Option Nat
  | 0, l => l.head?
  | k + 1, l =>
    match l with
    | [] => none
    | [x] => some x
    | _ =>
      let i := Config.relaxPick seed % l.length
      let rest := l.eraseIdx i
      let j := Config.relaxPick (seed + 1) % rest.length
      combineAny f (seed + 2) k (f (l.getD i 0) (rest.getD j 0) :: rest.eraseIdx j)

end Sys2Proof.Machine
end

