-- ==== Sys2Proof/Machine/Flags.lean ====
section
/-!
DEFINITION. What the machine computes as conditions: comparisons and predicates, class masks, the operand flags of R121.
The device keeps no floating-point exception flags (R104).
-/

namespace Sys2Proof.Machine

/-- All ones or zero in an element of b bits (R138, R141). -/
def maskOf (b : Nat) (p : Bool) : Nat := if p then 2^b - 1 else 0

/-- R138: the predicates of `FCMP`. -/
def fcmpHolds (f : FFmt) (pred a b : Nat) : Bool :=
  let x := f.read a
  let y := f.read b
  let un := x.isNan || y.isNan
  let lt := x.lt y
  let gt := y.lt x
  let eq := !un && !lt && !gt
  match pred % 8 with
  | 0 => eq
  | 1 => lt
  | 2 => lt || eq
  | 3 => un
  | 4 => un || !eq
  | 5 => gt || eq
  | 6 => gt
  | _ => !un

/-- R141: the predicates of `ICMP`. -/
def icmpHolds (i : IFmt) (pred a b : Nat) : Bool :=
  let x := i.val a
  let y := i.val b
  match pred % 8 with
  | 0 => decide (x = y)
  | 1 => decide (x < y)
  | 2 => decide (x ≤ y)
  | 3 => decide (x ≠ y)
  | 4 => decide (y ≤ x)
  | _ => decide (y < x)

/-- R138: the class mask of `FCLAS`. -/
def fclass (f : FFmt) (a : Nat) : Nat :=
  match f.read a with
  | .nan => 2^8
  | .inf x => if x then 2^0 else 2^7
  | .fin x m _ =>
    let sub := bitsAt a f.mb f.eb == 0
    if m = 0 then (if x then 2^3 else 2^4)
    else if sub then (if x then 2^2 else 2^5)
    else (if x then 2^1 else 2^6)

/-- R149: lane 1 counts as nonzero: not ±0 in FP32, and not zero bits in other formats. -/
def lane1Nonzero (fmt v : Nat) : Bool := if fmt = 0x10 then v % 2^31 != 0 else v != 0

/-- R121: whether every value of a K-sub-block is a zero. -/
def subZero (vs : List FVal) : Bool := vs.all FVal.isZero
/-- R121: whether no value of a K-sub-block is NaN or an infinity. -/
def subFinite (vs : List FVal) : Bool := vs.all FVal.finite
/-- R121: the flags of a K-sub-block: zero, finite. -/
def subFlags (vs : List FVal) : Bool × Bool := (subZero vs, subFinite vs)
/-- R121: a pair of matching sub-blocks is skipped when one's zero flag and the other's finite flag are set. -/
def subSkipped (a b : Bool × Bool) : Bool := (a.1 && b.2) || (b.1 && a.2)

end Sys2Proof.Machine
end

