-- ==== Sys2Proof/Machine/Operands.lean ====
section
/-!
DEFINITION. The operand forms of element slots (R48, R126-R129), the firing rule's conditions (R28, R133-R135), and the one
operation by which a firing takes effect.
-/

namespace Sys2Proof.Machine

/-- What a firing does: tokens consumed (one for each input listed), tokens emitted, the element's own state after it,
and bytes of its storage written (home address, length, value). -/
structure Effect where
  eat : List Nat := []
  out : List (Nat × Token) := []
  elem : Elem := {}
  /-- a data firing, which reads its operands -/
  data : Bool := true
  writes : List (Nat × Nat × Nat) := []
  deriving DecidableEq, Repr

/-- What the heads of a slot's inputs let it do. -/
inductive Fire where
  /-- not ready (R28) -/
  | wait
  /-- the firing would fault (R164); it is taken once the outputs listed have room -/
  | fault (out : List (Nat × Token)) (cause : Nat) (chan : Option Nat) (detail : Nat)
  | go (eff : Effect)
  deriving DecidableEq, Repr

/-- Insertion into a rising list without repeats. -/
def insertUp (p : Nat) : List Nat → List Nat
  | [] => [p]
  | q :: r => if p < q then p :: q :: r else if p = q then q :: r else q :: insertUp p r

/-- The channels among operands, each once, in rising order. -/
def channelsOf (os : List (BitVec 4)) : List Nat :=
  os.foldl (fun l o => if o.toNat < 8 then insertUp o.toNat l else l) []

/-- R48: the channels that a slot's form names. -/
def slotChannels (code : Nat) (sl : Slot) : List Nat := channelsOf (slotOperands code sl)

/-- R289: `XCHG` and swap tokens are taken by a CE or MXE itself (R135). -/
def TokKind.taken : TokKind → Bool
  | .xchg => true
  | .swap => true
  | _ => false

/-- Whether a kind is `k`. -/
def Elem.headIs (e : Elem) (p : Nat) (k : TokKind) : Bool :=
  match e.head p with
  | some t => t.kind == k
  | none => false

/-- R135: the element awaits an exchange while an `XCHG` stands at a head. -/
def Elem.awaitsExchange (e : Elem) : Bool := (List.range 8).any (fun p => e.headIs p .xchg)
/-- R135: a swap token stands at a head. -/
def Elem.awaitsSwap (e : Elem) : Bool := (List.range 8).any (fun p => e.headIs p .swap)

/-- Whether an element is a CE or MXE. -/
def Elem.computes (e : Elem) : Bool := e.kind == .ce || e.kind == .mxe

/-- R135: the forms that read `ta`. -/
def readsTa (code : Nat) (sl : Slot) : Bool :=
  (slotOperands code sl).any (fun o => o == 8) || sl.tw == 1 || code == 0x51 || code == 0x52 ||
  (decide (0x60 ≤ code) && decide (code ≤ 0x64))

/-- R49: the XI modifier. -/
def slotXi (sl : Slot) : Bool := decide (8 ≤ sl.mod.toNat)
/-- R49: the SAT modifier. -/
def slotSat (sl : Slot) : Bool := decide (sl.mod.toNat / 4 % 2 = 1)
/-- R49: the rounding mode. -/
def slotMode (sl : Slot) : RMode := rmodeOf sl.mod.toNat

/-- R88, R135, R164, R189: what keeps a slot from firing whatever its own operands hold. `source` is a slot that R189
step 2 stops in a freeze. -/
def State.slotHeld (s : State) (e : Nat) (code : Nat) (sl : Slot) (source : Bool) : Bool :=
  let el := s.elem e
  let r := (s.strand (s.strandOf e)).region
  !el.go || el.fault != 0 || r.state == .frozen || r.state == .halted || (source && r.state == .freezing) ||
  (el.computes &&
    ((slotChannels code sl).any (fun p => el.headIs p .xchg || el.headIs p .swap) ||
     (el.awaitsExchange && readsTa code sl) || (el.awaitsSwap && slotXi sl)))

/-- What stands at the heads of several inputs (R133). -/
inductive Heads where
  | wait
  | data
  | control (t : Token)
  | mismatch (chan : Nat)
  deriving DecidableEq, Repr

/-- R133: the general control rule's reading of the heads. -/
def Elem.heads (e : Elem) (ports : List Nat) : Heads :=
  if ports.any (fun p => (e.head p).isNone) then .wait
  else
    let ts := ports.filterMap (fun p => (e.head p).map (fun t => (p, t)))
    match ts.find? (fun x => x.2.kind.isControl) with
    | none => .data
    | some (p, t) => if ts.all (fun x => x.2.kind == t.kind) then .control t else .mismatch p

/-- R186, cause 4: the lowest-numbered input of the list whose DATA head is a tile token (`tile`), or is not. -/
def Elem.wrongShape (e : Elem) (ports : List Nat) (tile : Bool) : Option Nat :=
  ports.find? (fun p => match e.head p with
    | some t => t.kind == .data && t.tile == tile
    | none => false)

/-- R133: idx and carry reset by a control firing. -/
def Elem.ctlSlot (n : Nat) (e : Elem) : Elem := e.updSlot n (fun t => { t with idx := 0, carry := none })
/-- R124: idx advances by 1. -/
def Elem.tick (n : Nat) (e : Elem) : Elem := e.updSlot n (fun t => { t with idx := t.idx + 1 })

/-- R133: a control firing. -/
def controlFire (n : Nat) (el : Elem) (sl : Slot) (ports : List Nat) (t : Token) : Fire :=
  .go { eat := ports, out := toPorts sl.outmask t, elem := el.ctlSlot n, data := false }

-- operand values --------------------------------------------------------------------------------

/-- R126: bits of an element of a format; none reads as UINT32. -/
def fmtBits (fmt : Nat) : Nat := (numOrU32 fmt).bits

/-- R126: the immediate value of each element. -/
def immElem (fmt : Nat) (imm : BitVec 16) : Nat :=
  match numOrU32 fmt with
  | .int i => if i.signed then wrapN i.n (sint 16 imm.toNat) else imm.toNat % 2^i.n
  | .flt f => if f = fp32 then imm.toNat * 65536 else imm.toNat % 2^f.bits

/-- A token whose every element is v. -/
def splat (fmt v : Nat) : Row :=
  let b := fmtBits fmt
  packRow b (List.replicate (512 / b) v)

/-- R126, R163: the integer v as an element of a format: wrapped, or `Round(v, RNE)`. An `idx` operand, which R126 gives for integer, floating and no
format, is read as UINT32 in a Block-4 element too (log 20). -/
def countElem (fmt v : Nat) : Nat :=
  match numOrU32 fmt with
  | .int i => v % 2^i.n
  | .flt f => f.ofInt .rne false (v : Int)

/-- R126: the row that an operand code supplies. -/
def State.operand (s : State) (e n : Nat) (sl : Slot) (o : BitVec 4) : Row :=
  let el := s.elem e
  let idx := (el.slot n).idx.toNat
  if o.toNat < 8 then ((el.head o.toNat).getD {}).row
  else if o = 8 then el.ta.look 0 (idx % 16)
  else if o = 9 then splat el.fmt (immElem el.fmt sl.imm)
  else if o = 10 then BitVec.ofNat 512 (s.peek (elemHome e + 64 * (idx % 128)) 64)
  else splat el.fmt (countElem el.fmt idx)

/-- R126: the token that an operand supplies: a channel's head, or the row that another operand code supplies at every firing (log 96). -/
def State.opHead (s : State) (e n : Nat) (sl : Slot) (o : BitVec 4) : Option Token :=
  if o.toNat < 8 then (s.elem e).head o.toNat else some (.dat (s.operand e n sl o))

/-- The channel that an operand names, as a fault register records it (R186). -/
def chanOf (o : BitVec 4) : Option Nat := if o.toNat < 8 then some o.toNat else none

/-- R190: the detail of an uncorrectable read among a slot's operands: an `es` row, a tile row or the active fret bank. -/
def State.badOperand (s : State) (e n code : Nat) (sl : Slot) : Option Nat :=
  let el := s.elem e
  let idx := (el.slot n).idx.toNat
  (slotOperands code sl).findSome? (fun o =>
    if o = 8 ∧ s.isBad (taKey e (idx % 16)) 1 then some (idx % 16)
    else if o = 10 ∧ s.isBad (elemHome e + 64 * (idx % 128)) 64 then some (idx % 128)
    else if (slotXi sl ∨ code = 0x53) ∧ s.isBad (fretKey e (if el.active then 1 else 0)) 1 then some 0
    else none)

-- fret expansion --------------------------------------------------------------------------------

/-- The fret bank that firings read (R345). -/
def Elem.activeFret (e : Elem) : Fret := e.fret (if e.active then 1 else 0)

/-- R52: sub-elements of an entry of a shape, and their width. -/
def shapeOf (shape : Nat) : Nat × Nat :=
  match shape with | 0 => (1, 32) | 1 => (2, 32) | 2 => (4, 16) | 3 => (4, 16) | _ => (8, 8)

/-- R127 step 1: index m of a row. -/
def fretIndex (narrow : Bool) (r m : Nat) : Nat := if narrow then bitsAt r (4 * m) 4 else bitsAt r (8 * m) 8

/-- R127 step 4: an entry, or the index that selects no valid one. -/
def Elem.fretEntry (e : Elem) (i : Nat) : Except Nat Nat :=
  if e.activeFret.valid.look false i then .ok (e.activeFret.vals.look 0 i).toNat else .error i

/-- R127: n elements expanded from a row's indices, element j first. -/
def Elem.expandList (e : Elem) (row : Nat) : Nat → Nat → Except Nat (List Nat)
  | 0, _ => .ok []
  | k + 1, j =>
    let (cnt, w) := shapeOf e.fretShape
    match e.fretEntry (fretIndex e.fretNarrow row (j / cnt)) with
    | .error i => .error i
    | .ok v =>
      match e.expandList row k (j + 1) with
      | .error i => .error i
      | .ok l => .ok (bitsAt v (w * (j % cnt)) w :: l)

/-- R127: a row of elements of b bits expanded. -/
def Elem.expandRow (e : Elem) (b : Nat) (r : Row) : Except Nat Row :=
  match e.expandList r.toNat (512 / b) 0 with
  | .error i => .error i
  | .ok l => .ok (packRow b l)

/-- R128: in pair mode only lane 1 of a channel operand is an index. -/
def Elem.expandPair (e : Elem) (r : Row) : Except Nat Row :=
  let i := if e.fretNarrow then lane r 1 % 16 else lane r 1 % 256
  match e.fretEntry i with
  | .error j => .error j
  | .ok v => .ok (packRow 32 ((List.range 16).map (fun k => if k = 1 then v % 2^32 else lane r k)))

/-- R175: the rows of a tile expanded one by one. -/
def Elem.expandRows (e : Elem) (b : Nat) : List Row → Except Nat (List Row)
  | [] => .ok []
  | r :: rs =>
    match e.expandRow b r with
    | .error i => .error i
    | .ok x =>
      match e.expandRows b rs with
      | .error i => .error i
      | .ok xs => .ok (x :: xs)

/-- R127, R128, R186: a slot's operand rows, expanded under XI; or the channel and index that select no valid entry, the
lowest-numbered such channel. `b` is the width in which operands are read. -/
def State.operandRows (s : State) (e n : Nat) (sl : Slot) (b : Nat) (pair : Bool) (os : List (BitVec 4)) :
    Except (Nat × Nat) (List Row) :=
  let el := s.elem e
  let ex (o : BitVec 4) : Except Nat Row :=
    let r := s.operand e n sl o
    if slotXi sl && decide (o.toNat < 8) then (if pair then el.expandPair r else el.expandRow b r) else .ok r
  match (channelsOf os).findSome? (fun p => match ex (BitVec.ofNat 4 p) with | .error i => some (p, i) | .ok _ => none) with
  | some x => .error x
  | none => .ok (os.map (fun o => match ex o with | .ok r => r | .error _ => 0))

/-- R129: the result of a data firing written into a tile register row. -/
def Elem.tileWrite (n : Nat) (sl : Slot) (r : Row) (e : Elem) : Elem :=
  let k := (e.slot n).idx.toNat % 16
  if sl.tw = 1 then { e with ta := e.ta.put k r }
  else if sl.tw = 2 then { e with tl := e.tl.put k r, tlValid := e.tlValid.put k true }
  else e

/-- R129: a slot with tw = 10 waits while its row of `tl` is valid. -/
def Elem.tileWaits (n : Nat) (sl : Slot) (e : Elem) : Bool :=
  sl.tw == 2 && e.tlValid.look false ((e.slot n).idx.toNat % 16)

/-- The shared form of the element-wise and in-token operations: the heads by R133, the shape, the operands, one result row on
every output, the tile write and idx (R126-R133). -/
def State.rowForm (s : State) (code : Nat) (sl : Slot) (b : Nat) (f : Elem → List Row → Row × Elem) : Fire :=
  let e := s.site.elem
  let n := s.site.slot
  let el := s.elem e
  let ports := slotChannels code sl
  match el.heads ports with
  | .wait => .wait
  | .mismatch c => .fault [] 1 (some c) 0
  | .control t => controlFire n el sl ports t
  | .data =>
    match el.wrongShape ports true with
    | some c => .fault [] 4 (some c) 0
    | none =>
      match s.operandRows e n sl b (pairMode code sl) (slotOperands code sl) with
      | .error (c, i) => .fault (toPorts sl.outmask {}) 3 (some c) i
      | .ok rows =>
        let r := f el rows
        .go { eat := ports, out := toPorts sl.outmask (.dat r.1), elem := (r.2.tileWrite n sl r.1).tick n }

/-- R128: a result computed element by element, or in lane 1 alone in pair mode. -/
def laneWise (code : Nat) (sl : Slot) (b : Nat) (f : Nat → Nat → Nat → Nat) (rows : List Row) : Row :=
  let a := rows.getD 0 0
  let x := rows.getD 1 0
  let y := rows.getD 2 0
  if pairMode code sl then packRow 32 [lane a 0, f (lane a 1) (lane x 1) (lane y 1)]
  else packRow b ((List.range (512 / b)).map (fun j =>
    f (bitsAt a.toNat (b * j) b) (bitsAt x.toNat (b * j) b) (bitsAt y.toNat (b * j) b)))

/-- The bytes of an effect written to the element's storage. -/
def State.writeAll : List (Nat × Nat × Nat) → State → State
  | [], s => s
  | (a, n, v) :: r, s => State.writeAll r (s.poke a n v)

/-- R181: the beats that a bridle counts for a token; control tokens are not counted (R182). -/
def Token.metered (t : Token) : Nat := if t.kind.isControl then 0 else t.beats

/-- R182: the effective budget. -/
def Bridle.budget (b : Bridle) : Nat :=
  let limit := bitsAt b.control.toNat 32 16
  let own := Nat.max 1 (bitsAt b.control.toNat 16 16)
  if limit = 0 then own else Nat.min own limit

/-- R181: the enable bit. -/
def Bridle.enabled (b : Bridle) : Bool := bitsAt b.control.toNat 48 1 == 1

/-- R182: whether tokens at the head of a metered port are admitted in the present cycle, one after another, `n` beats having been
admitted in the window before the first. -/
def Bridle.admitsFrom (b : Bridle) : Nat → List (Nat × Token) → Bool
  | _, [] => true
  | n, t :: r => (!b.enabled || t.2.metered == 0 || n == 0 || decide (n + t.2.metered ≤ b.budget)) && b.admitsFrom (n + t.2.metered) r

/-- R182: no token stands at the ports of a list, held back by the bridle; such a token is back-pressure as a full channel is. -/
def Elem.portsFree (e : Elem) (ts : List (Nat × Token)) : Bool := ts.all (fun t => !(e.age.ports.any (fun q => q.1 == t.1)))

/-- R182: whether every token of a list enters the fabric at once: the ports hold no token back, and the bridle admits them. The bridle of
an element that is no AGE is never enabled. -/
def Elem.admits (e : Elem) (ts : List (Nat × Token)) : Bool :=
  e.portsFree ts && e.age.bridle.admitsFrom e.age.bridle.admitted ts

/-- R181, R182: beats admitted in the window. -/
def Bridle.meter (ts : List (Nat × Token)) (b : Bridle) : Bridle :=
  if b.enabled then { b with admitted := b.admitted + (ts.map (fun t => t.2.metered)).sum } else b

/-- R181, R182: beats admitted at an AGE's ports. -/
def Elem.meter (ts : List (Nat × Token)) (e : Elem) : Elem := { e with age := { e.age with bridle := e.age.bridle.meter ts } }

/-- R182: the tokens that stand at an AGE's ports pass in their order where the channel has room and the bridle admits them; a token that
stays holds those behind it at its port. -/
def Elem.passPorts (held : List Nat) : List (Nat × Token) → Elem → Elem
  | [], e => e
  | (p, t) :: r, e =>
    if !held.contains p && e.room p 1 && e.age.bridle.admitsFrom e.age.bridle.admitted [(p, t)] then
      Elem.passPorts held r ((e.meter [(p, t)]).emit p t)
    else
      let e1 := Elem.passPorts (p :: held) r e
      { e1 with age := { e1.age with ports := (p, t) :: e1.age.ports } }

/-- R182: the tokens of a firing leave by their ports: all enter the fabric where they are admitted now, and otherwise those that the bridle
does not admit yet stand at the port. -/
def Elem.send (now : Bool) (ts : List (Nat × Token)) (e : Elem) : Elem :=
  if now then Elem.emitAll ts (e.meter ts) else Elem.passPorts [] ts e

/-- The link virtual channel with a number (R310). -/
def State.cut (s : State) (c : Nat) : Cut := s.cuts.look {} c
/-- A link virtual channel changed by f. -/
def State.updCut (c : Nat) (f : Cut → Cut) (s : State) : State := { s with cuts := s.cuts.put c (f (s.cut c)) }

/-- R193, R194: activity in the region of an element. -/
def State.activity (e : Nat) (s : State) : State :=
  match s.strandOn (panelOf e) with
  | some k => if (s.strand k).quiet = 0 then s else s.updStrand k (fun t => { t with quiet := 0 })
  | none => s

/-- R182, R183: a token stands at the ingress of a link virtual channel, held back by the bridle there alone. -/
def State.ingressHeld (s : State) (r : Route) : Bool :=
  match r.link, r.flight with
  | some c, t :: _ => !((s.cut c).bridle.admitsFrom (s.cut c).bridle.admitted [(r.dstPort, t)])
  | _, _ => false

/-- R182, R194, R310, R389: the oldest token of a link virtual channel is admitted at its ingress, where the bridle allows it and the link
is up, and enters the input of its destination. One of a channel to another package leaves by the link; its place in the window is free again when
it has been taken there (log 87). -/
def State.admitLink (e m c : Nat) (r : Route) (s : State) : State :=
  let down := match (s.cut c).link with | some l => s.linksDown.contains l | none => false
  match r.flight with
  | [] => s
  | t :: _ =>
    if down then s
    else if 32768 ≤ r.dstElem then
      s.updElem e (fun x => { x with routes := x.routes.map (fun q => if q.1 = m then (q.1, { q.2 with flight := q.2.flight.drop 1 }) else q) })
    else if s.ingressHeld r then s
    else
      ((s.updCut c (fun x => { x with bridle := x.bridle.meter [(r.dstPort, t)] })).deliver e m).activity r.dstElem

/-- R380: what a firing counts. -/
def State.countFiring (code : Nat) (sl : Slot) (data : Bool) (s : State) : State :=
  let e := s.site.elem
  let d := dieOf (panelOf e)
  let j := (s.strand (s.strandOf e)).job
  let s1 := s.countPerf d 1 j 1
  let s2 := if 0x60 ≤ code ∧ code ≤ 0x64 then s1.countPerf d 2 j 1 else s1
  if data && (slotXi sl || code == 0x53) then s2.countPerf d 9 j 1 else s2

/-- R380: the tokens of `n` that an AGE's ports have admitted, those that stay at a port apart. -/
def State.countPorts (e n : Nat) (s : State) : State :=
  if kindAt (e % 64) = .age then
    s.countPerf (dieOf (panelOf e)) 3 (s.strand (s.strandOf e)).job (n - (s.elem e).age.ports.length)
  else s

/-- R28, R130, R164: a firing takes effect whole when its outputs have room; one that would fault is recorded instead. -/
def State.applyFire (code : Nat) (sl : Slot) (f : Fire) (s : State) : State :=
  let e := s.site.elem
  match f with
  | .wait => s
  | .fault out cause chan detail =>
    if (s.elem e).roomFor out then s.raiseElem e s.site.slot cause chan detail else s
  | .go eff =>
    if (s.elem e).roomFor eff.out && (s.elem e).portsFree eff.out then
      let s1 := s.setElem e eff.elem
      let s2 := State.writeAll eff.writes s1
      let s3 := (State.consumeAll e eff.eat s2).updElem e (fun x => x.send ((s.elem e).admits eff.out) eff.out)
      ((s3.countPorts e (eff.out.length + (s.elem e).age.ports.length)).activity e).countFiring code sl eff.data
    else s

/-- R190: a data firing that would read storage with an uncorrectable error faults instead. -/
def State.checkReads (s : State) (code : Nat) (sl : Slot) (f : Fire) : Fire :=
  match f with
  | .go eff =>
    if eff.data then
      match s.badOperand s.site.elem s.site.slot code sl with
      | some d => .fault eff.out 8 none d
      | none => f
    else f
  | _ => f

/-- One slot of the acting element fires by its form, or nothing happens because it is not ready. A slot with tw = 10 is not
ready while its row of `tl` is valid (R129). -/
def State.fireSlot (code : Nat) (sl : Slot) (source : Bool) (f : Fire) (s : State) : Out :=
  if s.slotHeld s.site.elem code sl source || (s.elem s.site.elem).tileWaits s.site.slot sl then .next s
  else .next (s.applyFire code sl (s.checkReads code sl f))

/-- R136: an FP form: one result per element of the element's floating-point format. -/
def State.fpForm (s : State) (code : Nat) (sl : Slot) (f : FFmt → Nat → Nat → Nat → Nat) : Out :=
  match numOf (s.elem s.site.elem).fmt with
  | some (.flt t) => s.fireSlot code sl false (s.rowForm code sl t.bits (fun el rows => (laneWise code sl t.bits (f t) rows, el)))
  | _ => .next s

/-- R141: an integer form: one exact result per element, reduced by R100. -/
def State.intForm (s : State) (code : Nat) (sl : Slot) (f : IFmt → Nat → Nat → Nat → Nat) : Out :=
  match numOf (s.elem s.site.elem).fmt with
  | some (.int t) => s.fireSlot code sl false (s.rowForm code sl t.n (fun el rows => (laneWise code sl t.n (f t) rows, el)))
  | _ => .next s

/-- R141: the forms that act on bit patterns of every format. -/
def State.bitForm (s : State) (code : Nat) (sl : Slot) (f : Nat → Nat → Nat → Nat) : Out :=
  match numOf (s.elem s.site.elem).fmt with
  | some t => s.fireSlot code sl false (s.rowForm code sl t.bits (fun el rows => (laneWise code sl t.bits f rows, el)))
  | none => .next s

end Sys2Proof.Machine
end

