-- ==== Sys2Proof/Machine/Integer.lean ====
section
/-!
DEFINITION. The integer forms of the panel sequencer (R68-R73): registers in, one register out, `spt` advanced by 4.
-/

namespace Sys2Proof.Machine

/-- A register written and `spt` advanced: the whole effect of an integer form. -/
def State.writeBack (d : Reg) (v : Word) (s : State) : Out := .next (s.setReg d v).advance

/-- A two-register form (R68). -/
def State.alu2 (d a b : Reg) (f : Word → Word → Word) (s : State) : Out := s.writeBack d (f (s.reg a) (s.reg b))

/-- A one-register form (R70, R71). -/
def State.alu1 (d a : Reg) (f : Word → Word) (s : State) : Out := s.writeBack d (f (s.reg a))

/-- 1 or 0. -/
def flagWord (p : Bool) : Word := if p then 1 else 0

/-- R42: a 16-bit immediate sign-extended. -/
def sext16 (imm : BitVec 16) : Word := imm.signExtend 64

/-- R42: a 16-bit immediate zero-extended. -/
def zext16 (imm : BitVec 16) : Word := imm.setWidth 64

/-- The word whose low n bits are ones. -/
def lowOnes (n : Nat) : Word := BitVec.ofNat 64 (2^n - 1)

/-- R72: quarter q of a word replaced. -/
def setQuarter (x : Word) (q : Nat) (imm : BitVec 16) : Word :=
  (x &&& ~~~(lowOnes 16 <<< (16 * q))) ||| (zext16 imm <<< (16 * q))

/-- R73: the field of `width` bits from `pos` up, zero-extended. -/
def fieldOf (x : Word) (pos width : Nat) : Word := (x >>> pos) &&& lowOnes width

/-- R73: the field sign-extended. -/
def fieldSigned (x : Word) (pos width : Nat) : Word := BitVec.ofInt 64 (sint width (fieldOf x pos width).toNat)

/-- R73: the low bits of x put into a field of y. -/
def fieldInsert (x y : Word) (pos width : Nat) : Word :=
  (y &&& ~~~(lowOnes width <<< pos)) ||| ((x &&& lowOnes width) <<< pos)

/-- R68: the sum modulo 2^64. -/
def execAdd (d a b : Reg) (s : State) : Out := s.alu2 d a b (fun x y => x + y)

/-- R68: the difference modulo 2^64. -/
def execSub (d a b : Reg) (s : State) : Out := s.alu2 d a b (fun x y => x - y)

/-- R68: the low 64 bits of the product. -/
def execMul (d a b : Reg) (s : State) : Out := s.alu2 d a b (fun x y => x * y)

/-- R68: bits [127:64] of the signed product. -/
def execMulh (d a b : Reg) (s : State) : Out := s.alu2 d a b (fun x y => BitVec.ofInt 64 (x.toInt * y.toInt / 2^64))

/-- R68: bits [127:64] of the unsigned product. -/
def execMulhu (d a b : Reg) (s : State) : Out := s.alu2 d a b (fun x y => BitVec.ofNat 64 (x.toNat * y.toNat / 2^64))

/-- R68, R69: the signed quotient, truncated towards zero; all ones by zero. -/
def execDiv (d a b : Reg) (s : State) : Out := s.alu2 d a b (fun x y => if y = 0 then BitVec.allOnes 64 else x.sdiv y)

/-- R68, R69: the unsigned quotient; all ones by zero. -/
def execDivu (d a b : Reg) (s : State) : Out := s.alu2 d a b (fun x y => if y = 0 then BitVec.allOnes 64 else x / y)

/-- R68, R69: the signed remainder, of the sign of a; all ones by zero. -/
def execRem (d a b : Reg) (s : State) : Out := s.alu2 d a b (fun x y => if y = 0 then BitVec.allOnes 64 else x.srem y)

/-- R68, R69: the unsigned remainder; all ones by zero. -/
def execRemu (d a b : Reg) (s : State) : Out := s.alu2 d a b (fun x y => if y = 0 then BitVec.allOnes 64 else x % y)

/-- R68 -/
def execAnd (d a b : Reg) (s : State) : Out := s.alu2 d a b (fun x y => x &&& y)

/-- R68 -/
def execOr (d a b : Reg) (s : State) : Out := s.alu2 d a b (fun x y => x ||| y)

/-- R68 -/
def execXor (d a b : Reg) (s : State) : Out := s.alu2 d a b (fun x y => x ^^^ y)

/-- R68: a AND NOT b. -/
def execAndn (d a b : Reg) (s : State) : Out := s.alu2 d a b (fun x y => x &&& ~~~y)

/-- R68: shifted left by b[5:0]. -/
def execShl (d a b : Reg) (s : State) : Out := s.alu2 d a b (fun x y => x <<< (y.toNat % 64))

/-- R68: shifted logically right by b[5:0]. -/
def execShr (d a b : Reg) (s : State) : Out := s.alu2 d a b (fun x y => x >>> (y.toNat % 64))

/-- R68: shifted arithmetically right by b[5:0]. -/
def execSar (d a b : Reg) (s : State) : Out := s.alu2 d a b (fun x y => x.sshiftRight (y.toNat % 64))

/-- R68: the signed minimum. -/
def execMin (d a b : Reg) (s : State) : Out := s.alu2 d a b (fun x y => if x.slt y then x else y)

/-- R68: the signed maximum. -/
def execMax (d a b : Reg) (s : State) : Out := s.alu2 d a b (fun x y => if x.slt y then y else x)

/-- R68: the unsigned minimum. -/
def execMinu (d a b : Reg) (s : State) : Out := s.alu2 d a b (fun x y => if x.ult y then x else y)

/-- R68: the unsigned maximum. -/
def execMaxu (d a b : Reg) (s : State) : Out := s.alu2 d a b (fun x y => if x.ult y then y else x)

/-- R68: 1 if a < b as signed values, else 0. -/
def execSlt (d a b : Reg) (s : State) : Out := s.alu2 d a b (fun x y => flagWord (x.slt y))

/-- R68: 1 if a < b as unsigned values, else 0. -/
def execSltu (d a b : Reg) (s : State) : Out := s.alu2 d a b (fun x y => flagWord (x.ult y))

/-- R68: 1 if a = b, else 0. -/
def execSeq (d a b : Reg) (s : State) : Out := s.alu2 d a b (fun x y => flagWord (x == y))

/-- R70: leading zero bits, 64 for zero. -/
def execClz (d a : Reg) (s : State) : Out := s.alu1 d a (fun x => x.clz)

/-- R70: trailing zero bits, 64 for zero. -/
def execCtz (d a : Reg) (s : State) : Out := s.alu1 d a (fun x => x.ctz)

/-- R70: set bits. -/
def execPopc (d a : Reg) (s : State) : Out := s.alu1 d a (fun x => x.cpop)

/-- R71 -/
def execAddi (d a : Reg) (imm : BitVec 16) (s : State) : Out := s.alu1 d a (fun x => x + sext16 imm)

/-- R71 -/
def execAndi (d a : Reg) (imm : BitVec 16) (s : State) : Out := s.alu1 d a (fun x => x &&& zext16 imm)

/-- R71 -/
def execOri (d a : Reg) (imm : BitVec 16) (s : State) : Out := s.alu1 d a (fun x => x ||| zext16 imm)

/-- R71 -/
def execXori (d a : Reg) (imm : BitVec 16) (s : State) : Out := s.alu1 d a (fun x => x ^^^ zext16 imm)

/-- R71 -/
def execSlti (d a : Reg) (imm : BitVec 16) (s : State) : Out := s.alu1 d a (fun x => flagWord (x.slt (sext16 imm)))

/-- R71 -/
def execShli (d a : Reg) (sh : BitVec 6) (s : State) : Out := s.alu1 d a (fun x => x <<< sh.toNat)

/-- R71 -/
def execShri (d a : Reg) (sh : BitVec 6) (s : State) : Out := s.alu1 d a (fun x => x >>> sh.toNat)

/-- R71 -/
def execSari (d a : Reg) (sh : BitVec 6) (s : State) : Out := s.alu1 d a (fun x => x.sshiftRight sh.toNat)

/-- R72: one 16-bit quarter replaced. -/
def execLih (d : Reg) (q : BitVec 2) (imm : BitVec 16) (s : State) : Out := s.alu1 d d (fun x => setQuarter x q.toNat imm)

/-- R73 -/
def execBfx (d a : Reg) (pos widthM1 : BitVec 6) (s : State) : Out :=
  s.alu1 d a (fun x => fieldSigned x pos.toNat (widthM1.toNat + 1))

/-- R73 -/
def execBfxu (d a : Reg) (pos widthM1 : BitVec 6) (s : State) : Out :=
  s.alu1 d a (fun x => fieldOf x pos.toNat (widthM1.toNat + 1))

/-- R73 -/
def execBfi (d a : Reg) (pos widthM1 : BitVec 6) (s : State) : Out :=
  s.alu2 d a d (fun x y => fieldInsert x y pos.toNat (widthM1.toNat + 1))

end Sys2Proof.Machine
end

