-- ==== Sys2Proof/Machine/Sparse.lean ====
section
/-!
DEFINITION. Sparse and stream control forms of a CE or SE (R148-R158).
-/

namespace Sys2Proof.Machine

/-- R148: a coordinate not greater than the last one consumed from that input. -/
def outOfOrder (last : Option (BitVec 32)) (c : Nat) : Bool :=
  match last with
  | some l => decide (c ≤ l.toNat)
  | none => false

/-- R148: the pair tokens of a triple; an absent value is zero bits. -/
def tripleOut (sl : Slot) (c : Nat) (va vb : Option Nat) : List (Nat × Token) :=
  match maskPorts sl.outmask with
  | [p, q] => [(p, .dat (pairRow c (va.getD 0))), (q, .dat (pairRow c (vb.getD 0)))]
  | ps => ps.map (fun p => (p, .dat (pairRow c ((va.orElse (fun _ => vb)).getD 0))))

/-- R148: the join of two pair streams; `union` says whether unmatched coordinates are emitted. A head of the wrong shape is recorded before
a coordinate out of order, and in0's coordinate before in1's (log 98). -/
def State.joinForm (s : State) (sl : Slot) (union : Bool) : Fire :=
  let n := s.site.slot
  let el := s.elem s.site.elem
  let both := channelsOf [sl.in0, sl.in1]
  let st := el.slot n
  let noteA (c : Nat) (e : Elem) : Elem := e.updSlot n (fun x => { x with last0 := some (BitVec.ofNat 32 c) })
  let ea := channelsOf [sl.in0]
  let eb := channelsOf [sl.in1]
  let noteB (c : Nat) (e : Elem) : Elem := e.updSlot n (fun x => { x with last1 := some (BitVec.ofNat 32 c) })
  let takeA (c : Nat) (v : Nat) : Fire :=
    if outOfOrder st.last0 c then .fault [] 2 (chanOf sl.in0) c
    else .go { eat := ea, out := if union then tripleOut sl c (some v) none else [], elem := noteA c el }
  let takeB (c : Nat) (v : Nat) : Fire :=
    if outOfOrder st.last1 c then .fault [] 2 (chanOf sl.in1) c
    else .go { eat := eb, out := if union then tripleOut sl c none (some v) else [], elem := noteB c el }
  match s.opHead s.site.elem n sl sl.in0, s.opHead s.site.elem n sl sl.in1 with
  | some a, some b =>
    match el.wrongShape both true with
    | some c => .fault [] 4 (some c) 0
    | none =>
      let ca := lane a.row 0
      let cb := lane b.row 0
      match a.kind.isControl, b.kind.isControl with
      | false, false =>
        if ca < cb then takeA ca (lane a.row 1)
        else if cb < ca then takeB cb (lane b.row 1)
        else if outOfOrder st.last0 ca then .fault [] 2 (chanOf sl.in0) ca
        else if outOfOrder st.last1 cb then .fault [] 2 (chanOf sl.in1) cb
        else .go { eat := both, out := tripleOut sl ca (some (lane a.row 1)) (some (lane b.row 1)),
                   elem := noteB cb (noteA ca el) }
      | false, true => takeA ca (lane a.row 1)
      | true, false => takeB cb (lane b.row 1)
      | true, true =>
        if a.kind = b.kind then
          .go { eat := both, out := toPorts sl.outmask a,
                elem := (el.ctlSlot n).updSlot n (fun x => { x with last0 := none, last1 := none }) }
        else .fault [] 1 both.head? 0
  | _, _ => .wait

/-- R148: `INTSC`. -/
def execIntsc (sl : Slot) (s : State) : Out := s.fireSlot 0x40 sl false (s.joinForm sl false)
/-- R148: `UNION`. -/
def execUnion (sl : Slot) (s : State) : Out := s.fireSlot 0x41 sl false (s.joinForm sl true)

/-- The shared form of the forms that decide about one in0 token at a time under the general control rule (R133): `shaped`
are the channels that must hold one-beat tokens, `f` gives what a data firing emits. -/
def State.streamForm (s : State) (code : Nat) (sl : Slot) (shaped : List Nat) (f : Elem → Token → Fire) : Fire :=
  let n := s.site.slot
  let el := s.elem s.site.elem
  let ports := slotChannels code sl
  match el.heads ports with
  | .wait => .wait
  | .mismatch c => .fault [] 1 (some c) 0
  | .control t => controlFire n el sl ports t
  | .data =>
    match el.wrongShape shaped true with
    | some c => .fault [] 4 (some c) 0
    | none => f el ((s.opHead s.site.elem n sl sl.in0).getD {})

/-- R149: `FILT`. The predicate token of test 0, and the token whose lane 1 test 1 reads, are one-beat tokens (cause 4); what test 0 forwards
may be a tile token (log 19). -/
def execFilt (sl : Slot) (s : State) : Out :=
  let n := s.site.slot
  let test := sl.imm.toNat % 4
  let ports := slotChannels 0x42 sl
  s.fireSlot 0x42 sl false (s.streamForm 0x42 sl (channelsOf [if test = 0 then sl.in1 else sl.in0]) (fun el a =>
    let keep := if test = 0 then lane ((s.opHead s.site.elem n sl sl.in1).getD {}).row 0 != 0 else lane1Nonzero el.fmt (lane a.row 1)
    .go { eat := ports, out := if keep then toPorts sl.outmask a else [], elem := el.tick n }))

/-- R150: `STOPG`. -/
def State.stopgForm (s : State) (sl : Slot) : Fire :=
  let n := s.site.slot
  let el := s.elem s.site.elem
  let p := sl.in0.toNat
  let i := sl.imm.toNat
  let stop := Token.ctl (.stop (i / 4096 % 4))
  let put (v : Nat) : Elem := el.updSlot n (fun x => { x with run := v })
  match el.head p with
  | none => .wait
  | some t =>
    let run := (el.slot n).run
    match t.kind with
    | .data =>
      if run + 1 = i % 4096 + 1 then
        .go { eat := [p], out := toPorts sl.outmask t ++ toPorts sl.outmask stop, elem := put 0 }
      else .go { eat := [p], out := toPorts sl.outmask t, elem := put (run + 1) }
    | .eos =>
      .go { eat := [p], out := (if run = 0 then [] else toPorts sl.outmask stop) ++ toPorts sl.outmask t, elem := put 0 }
    | _ => .go { eat := [p], out := toPorts sl.outmask t, elem := put 0 }

/-- R150 -/
def execStopg (sl : Slot) (s : State) : Out := s.fireSlot 0x43 sl false (s.stopgForm sl)

/-- R151: `STOPX`. -/
def State.stopxForm (s : State) (sl : Slot) : Fire :=
  let el := s.elem s.site.elem
  let p := sl.in0.toNat
  let l := sl.imm.toNat % 4
  match el.head p with
  | none => .wait
  | some t =>
    match t.kind with
    | .stop k => .go { eat := [p], out := if k ≤ l then [] else toPorts sl.outmask (.ctl (.stop (k - l))), elem := el }
    | _ => .go { eat := [p], out := toPorts sl.outmask t, elem := el }

/-- R151 -/
def execStopx (sl : Slot) (s : State) : Out := s.fireSlot 0x44 sl false (s.stopxForm sl)

/-- R152: `CNT`. -/
def State.cntForm (s : State) (sl : Slot) : Fire :=
  let n := s.site.slot
  let el := s.elem s.site.elem
  let p := sl.in0.toNat
  match el.head p with
  | none => .wait
  | some t =>
    let c := (el.slot n).cnt
    let count := toPorts sl.outmask (.dat (packRow 32 [c.toNat]))
    let clear := el.updSlot n (fun x => { x with cnt := 0, seen := false })
    match t.kind with
    | .data => .go { eat := [p], elem := el.updSlot n (fun x => { x with cnt := c + 1, seen := true }) }
    | .stop k =>
      .go { eat := [p], out := count ++ (if 2 ≤ k then toPorts sl.outmask (.ctl (.stop (k - 1))) else []), elem := clear }
    | .eos =>
      .go { eat := [p], out := (if (el.slot n).seen then count else []) ++ toPorts sl.outmask t, elem := clear }
    | _ => .go { eat := [p], out := toPorts sl.outmask t, elem := clear }

/-- R152 -/
def execCnt (sl : Slot) (s : State) : Out := s.fireSlot 0x45 sl false (s.cntForm sl)

/-- R153: the output that a select value names, or the route-select fault. -/
def routeTo (sl : Slot) (sel : Nat) (chan : Option Nat) (go : Nat → Fire) : Fire :=
  match (maskPorts sl.outmask)[sel]? with
  | some p => go p
  | none => .fault [] 6 chan sel

/-- R153: `ROUTE`. A data firing writes its selected output only. -/
def execRoute (sl : Slot) (s : State) : Out :=
  let n := s.site.slot
  let ports := slotChannels 0x46 sl
  let field := sl.in1 == 9
  let from_ := if field then sl.in0 else sl.in1
  s.fireSlot 0x46 sl false (s.streamForm 0x46 sl (channelsOf [from_]) (fun el a =>
    let i := sl.imm.toNat
    let sel := if field then lane a.row 0 / 2^(i % 32) % 2^(i / 32 % 8) else lane ((s.opHead s.site.elem n sl from_).getD {}).row 0
    routeTo sl sel (chanOf from_) (fun p => .go { eat := ports, out := [(p, a)], elem := el.tick n })))

/-- R154: `MUX`. It is ready only with room at its outputs, and a selector that selects neither input faults then too (log 33). -/
def State.muxForm (s : State) (sl : Slot) : Fire :=
  let el := s.elem s.site.elem
  let n := s.site.slot
  let ps := channelsOf [sl.in2]
  match s.opHead s.site.elem n sl sl.in2 with
  | none => .wait
  | some sel =>
    if sel.kind.isControl then .go { eat := ps, out := toPorts sl.outmask sel, elem := el }
    else
      match el.wrongShape ps true with
      | some c => .fault [] 4 (some c) 0
      | none =>
        let v := lane sel.row 0
        if 2 ≤ v then .fault (toPorts sl.outmask sel) 6 (chanOf sl.in2) v
        else
          let o := if v = 0 then sl.in0 else sl.in1
          match s.opHead s.site.elem n sl o with
          | none => .wait
          | some t => .go { eat := channelsOf [sl.in2, o], out := toPorts sl.outmask t, elem := el }

/-- R154 -/
def execMux (sl : Slot) (s : State) : Out := s.fireSlot 0x47 sl false (s.muxForm sl)

/-- R155: `DUP`. -/
def execDup (sl : Slot) (s : State) : Out :=
  let n := s.site.slot
  let ports := slotChannels 0x48 sl
  s.fireSlot 0x48 sl false (s.streamForm 0x48 sl [] (fun el a =>
    .go { eat := ports, out := (List.range (sl.imm.toNat % 8 + 1)).flatMap (fun _ => toPorts sl.outmask a), elem := el.tick n }))

/-- R156: `HOLD`. The latch holds one row (R124), so a tile token cannot be latched (log 19). -/
def State.holdForm (s : State) (sl : Slot) : Fire :=
  let n := s.site.slot
  let el := s.elem s.site.elem
  let ea := channelsOf [sl.in0]
  let eb := channelsOf [sl.in1]
  let l := sl.imm.toNat % 4
  match (el.slot n).latch with
  | none =>
    match s.opHead s.site.elem n sl sl.in0 with
    | none => .wait
    | some a =>
      if a.kind = .data then
        if a.tile then .fault [] 4 (chanOf sl.in0) 0
        else .go { eat := ea, elem := el.updSlot n (fun x => { x with latch := some a }) }
      else .go { eat := ea, elem := el }
  | some held =>
    match s.opHead s.site.elem n sl sl.in1 with
    | none => .wait
    | some b =>
      match b.kind with
      | .data => .go { eat := eb, out := toPorts sl.outmask held, elem := el }
      | k =>
        let free := match k with | .eos => true | .stop j => decide (1 ≤ l) && decide (l ≤ j) | _ => false
        .go { eat := eb, out := toPorts sl.outmask b,
              elem := if free then el.updSlot n (fun x => { x with latch := none }) else el }

/-- R156 -/
def execHold (sl : Slot) (s : State) : Out := s.fireSlot 0x49 sl false (s.holdForm sl)

/-- R157: the combine operators of `ACCU`. -/
def accuCombine (op x v : Nat) : Nat :=
  match op with
  | 0 => fp32.add .rne x v
  | 1 => (x + v) % 2^32
  | 2 => fp32.max x v
  | 3 => fp32.min x v
  | 4 => v
  | 5 => x
  | _ => x ||| v

/-- R157: `ACCU`. -/
def State.accuForm (s : State) (sl : Slot) : Fire :=
  let e := s.site.elem
  let el := s.elem e
  let p := sl.in0.toNat
  let win := sl.imm.toNat % 4096
  match el.head p with
  | none => .wait
  | some t =>
    if t.kind ≠ .data then .wait
    else if t.tile then .fault [] 4 (some p) 0
    else
      match (if slotXi sl then el.expandPair t.row else .ok t.row) with
      | .error i => .fault [] 3 (some p) i
      | .ok r =>
        let c := lane r 0
        let v := lane r 1
        if c < 2048 * win ∨ 2048 * win + 2048 ≤ c then .fault [] 5 (some p) c
        else
          let i := c - 2048 * win
          let a := elemHome e + 4 * i
          if el.occ.look false i then
            if s.isBad (elemHome e + 64 * (i / 16)) 64 then .fault [] 8 none (i / 16)
            else .go { eat := [p], elem := el, writes := [(a, 4, accuCombine (sl.imm.toNat / 4096) (s.peek a 4) v)] }
          else .go { eat := [p], elem := { el with occ := el.occ.put i true }, writes := [(a, 4, v)] }

/-- R157 -/
def execAccu (sl : Slot) (s : State) : Out := s.fireSlot 0x4A sl false (s.accuForm sl)

/-- R158: `DRN`. -/
def State.drnForm (s : State) (sl : Slot) : Fire :=
  let e := s.site.elem
  let el := s.elem e
  let p := sl.in0.toNat
  match el.head p with
  | none => .wait
  | some t =>
    if 32768 ≤ sl.imm.toNat then
      .go { eat := [p], out := if t.kind = .data then [] else toPorts sl.outmask t, elem := el }
    else if t.kind = .data then .wait
    else
      match el.occ.find? (fun x => x.2) with
      | some (i, _) =>
        let a := elemHome e + 4 * i
        if s.isBad (elemHome e + 64 * (i / 16)) 64 then .fault (toPorts sl.outmask {}) 8 none (i / 16)
        else .go { out := toPorts sl.outmask (.dat (pairRow (2048 * (sl.imm.toNat % 4096) + i) (s.peek a 4))),
                   elem := { el with occ := el.occ.del i }, writes := [(a, 4, 0)] }
      | none => .go { eat := [p], out := toPorts sl.outmask t, elem := el }

/-- R158 -/
def execDrn (sl : Slot) (s : State) : Out := s.fireSlot 0x4B sl false (s.drnForm sl)

end Sys2Proof.Machine
end

