-- ==== Sys2Proof/Machine/Matrix.lean ====
section
/-!
DEFINITION. Matrix elements (R165-R179): the weight buffer and its entry check, operand layouts, and the five matrix forms.
-/

namespace Sys2Proof.Machine

/-- R168: a directory entry's first line, line count and encoding. -/
structure WEntry where
  first : Nat
  lines : Nat
  enc : Nat
  deriving DecidableEq, Repr

/-- R167: the home address of directory entry i. -/
def entryAddr (e i : Nat) : Nat := elemHome e + 0x8000 + 8 * i

/-- R167: the fields of an entry word. -/
def wentryOf (v : Nat) : WEntry := { first := bitsAt v 0 9, lines := bitsAt v 9 5, enc := bitsAt v 14 2 }
/-- R167: the entry's error bit. -/
def entryError (v : Nat) : Bool := bitsAt v 16 1 == 1
/-- R167: the entry's ready bit. -/
def entryReady (v : Nat) : Bool := bitsAt v 17 1 == 1

/-- R169: the K depth of a format. -/
def kDepth (fmt : Nat) : Nat := if fmt = 0x12 then 16 else if fmt = 0x13 ∨ fmt = 0x14 then 32 else 64

/-- R169: lines that a raw or fret entry's layout needs. -/
def rawLines (fmt enc : Nat) : Nat := if enc = 2 then 1 else if 0x20 ≤ fmt then 9 else 8

/-- Set bits of a number below 2^n. -/
def popTo (v : Nat) : Nat → Nat
  | 0 => 0
  | n + 1 => v / 2^n % 2 + popTo v n

/-- R273: the length of a BM128 chunk of elements of `size` bytes: bitmap, stored elements, zero bytes up to 16. -/
def bmLength (bitmap size : Nat) : Nat := 16 + (popTo bitmap 128 * size + 15) / 16 * 16

/-- R170: the bytes that n back-to-back BM128 chunks take from a home address. -/
def State.bmSpan (s : State) (size a : Nat) : Nat → Nat
  | 0 => 0
  | n + 1 =>
    let l := bmLength (s.peek a 16) size
    l + s.bmSpan size (a + l) n

/-- R273: the stored elements of a chunk handed out in order: element k reads the next stored element where its bit is set, and
zero bits elsewhere. -/
def State.bmElems (s : State) (size bitmap : Nat) : Nat → Nat → Nat → List Nat
  | 0, _, _ => []
  | n + 1, k, a =>
    if bitmap / 2^k % 2 = 1 then s.peek a size :: s.bmElems size bitmap n (k + 1) (a + size)
    else 0 :: s.bmElems size bitmap n (k + 1) a

/-- R170: the elements of n back-to-back chunks. -/
def State.bmTile (s : State) (size a : Nat) : Nat → List Nat
  | 0 => []
  | n + 1 =>
    let b := s.peek a 16
    s.bmElems size b 128 0 (a + 16) ++ s.bmTile size (a + bmLength b size) n

/-- R170: chunks of a B tile of a format. -/
def bmChunks (fmt : Nat) : Nat := if fmt = 0x12 then 2 else 4

/-- R168: whether an entry with a nonzero line count is an error under the element's format. R169 gives no layout for an element without a
configuration or of format none, where no product can fire: a raw entry of 8 lines or more is then ready (log 99). -/
def State.entryBad (s : State) (e : Nat) (w : WEntry) : Bool :=
  let el := s.elem e
  let a := elemHome e + 64 * w.first
  w.enc == 3 || decide (512 < w.first + w.lines) ||
  (w.enc == 1 && !(el.fmt == 0x12 || el.fmt == 0x13 || el.fmt == 0x14)) ||
  (w.enc == 2 && (el.fmt != 0x12 || !el.fretOn || el.fretShape != 2)) ||
  (w.enc != 1 && decide (w.lines < rawLines el.fmt w.enc)) ||
  (w.enc == 1 && decide (64 * w.lines < s.bmSpan (if el.fmt = 0x12 then 2 else 1) a (bmChunks el.fmt)))

/-- R169, R170: the elements of the B tile of an entry, ordered by 16k + n (Block-4: the codes' values by 16k + n too); or the
index that selects an invalid fret entry, the first in the order of 16k + n where several do (log 98). -/
def State.bTile (s : State) (e : Nat) (w : WEntry) : Except Nat (List FVal) :=
  let el := s.elem e
  let a := elemHome e + 64 * w.first
  let f := if el.fmt = 0x12 then bf16 else if el.fmt = 0x13 then e4m3 else e5m2
  let size := if el.fmt = 0x12 then 2 else 1
  if 0x20 ≤ el.fmt then
    let l := blkLenOf el.fmt
    .ok ((List.range 1024).map (fun j =>
      let i := 64 * (j % 16) + j / 16
      blkVal (s.peek (a + 512 + i / l) 1) (s.peek (a + i / 2) 1 / 16^(i % 2) % 16)))
  else if w.enc = 1 then .ok ((s.bmTile size a (bmChunks el.fmt)).map f.read)
  else if w.enc = 0 then .ok ((List.range (16 * kDepth el.fmt)).map (fun j => f.read (s.peek (a + size * j) size)))
  else
    let row := s.peek a 64
    let sub (j : Nat) : Except Nat FVal :=
      let k := j / 16
      let n := j % 16
      match el.fretEntry (fretIndex el.fretNarrow row (4 * n + k / 4)) with
      | .error i => .error i
      | .ok v => .ok (bf16.read (bitsAt v (16 * (k % 4)) 16))
    (List.range 256).mapM sub
where
  /-- R53: block length of a Block-4 code. -/
  blkLenOf (fmt : Nat) : Nat := if 0x30 ≤ fmt then 32 else 16

/-- R167: the flags of an entry set; clear ones are not listed. -/
def State.setFlags (e i : Nat) (f : BitVec 128) (s : State) : State :=
  if (s.elem e).wflags.look 0 i = f then s
  else s.updElem e (fun x => { x with wflags := if f = 0 then x.wflags.del i else x.wflags.put i f })

/-- R121, R167: the flags of a B tile of the given K depth, its elements ordered by 16k + n. -/
def tileFlags (depth : Nat) (b : List FVal) : BitVec 128 :=
  let sub (j : Nat) : List FVal := (List.range 16).map (fun i => b.getD (16 * (16 * (j % 4) + i) + j / 4) (.fin false 0 0))
  let bit (p : List FVal → Bool) : List Nat := (List.range 64).map (fun j => if decide (16 * (j % 4) < depth) && p (sub j) then 1 else 0)
  BitVec.ofNat 128 (packBits 1 (bit subZero) + 2^64 * packBits 1 (bit subFinite))

/-- R121: the flags of K-sub-block q of column n. -/
def flagsAt (f : BitVec 128) (n q : Nat) : Bool × Bool := (f.getLsbD (4 * n + q), f.getLsbD (64 + 4 * n + q))

/-- R168, R170: the flags that an entry gets when it becomes ready: those of its decoded values, or clear ones for a fret entry, whose
finite flags are computed at each firing. -/
def State.entryFlags (s : State) (e : Nat) (w : WEntry) : BitVec 128 :=
  if w.enc = 2 then 0
  else match s.bTile e w with
    | .ok b => tileFlags (kDepth (s.elem e).fmt) b
    | .error _ => 0

/-- R168: the check of one entry, which leaves it empty, in error, or ready with its flags. -/
def State.checkEntry (e i : Nat) (s : State) : State :=
  let v := s.peek (entryAddr e i) 8 % 2^16
  let w := wentryOf v
  let bad := s.entryBad e w
  let flags := if w.lines = 0 || bad then 0 else s.entryFlags e w
  (s.poke (entryAddr e i) 8 (v + (if w.lines = 0 then 0 else if bad then 2^16 else 2^17))).setFlags e i flags

/-- R168: the check of several entries. -/
def State.checkEntries (e : Nat) : List Nat → State → State
  | [], s => s
  | i :: r, s => State.checkEntries e r (s.checkEntry e i)

/-- R171: entries that are ready and cover a line of those from first to last lose their ready bit. -/
def State.unready (e first last : Nat) (s : State) : State :=
  (List.range 64).foldl (fun s i =>
    let v := s.peek (entryAddr e i) 8
    let w := wentryOf v
    if entryReady v && decide (w.first ≤ last) && decide (first < w.first + w.lines) then
      s.poke (entryAddr e i) 8 (v - 2^17)
    else s) s

/-- R167, R168, R171: bytes written by a stream into `ELEM` of an MXE at an offset: entries keep their read-only bits and are
checked again; a line write clears the ready bits that it covers. A write into a CE's store is plain. -/
def State.elemWrite (e off : Nat) (bs : List Byte) (s : State) : State :=
  let n := bs.length
  let s1 := { s with mem := memStore s.mem (elemHome e + off) bs }
  if kindAt (e % 64) ≠ .mxe ∨ n = 0 then s1
  else if off < 0x8000 then s1.unready e (off / 64) ((off + n - 1) / 64)
  else
    let i0 := (off - 0x8000) / 8
    let i1 := (off + n - 1 - 0x8000) / 8
    s1.checkEntries e ((List.range (i1 + 1 - i0)).map (· + i0))

/-- R169: the values A(m, k) of K-block h of row m. -/
def aRow (fmt h : Nat) (r : Row) : List FVal :=
  let v := r.toNat
  if 0x20 ≤ fmt then
    let l := if 0x30 ≤ fmt then 32 else 16
    (List.range 64).map (fun k => blkVal (bitsAt v (8 * (32 + k / l)) 8) (bitsAt v (8 * (k / 2) + 4 * (k % 2)) 4))
  else
    let f := if fmt = 0x12 then bf16 else if fmt = 0x13 then e4m3 else e5m2
    let d := kDepth fmt
    (List.range d).map (fun k => f.read (bitsAt v (f.bits * (d * h + k)) f.bits))

/-- R121: a list in pieces of 16. -/
def sixteens : Nat → List FVal → List (List FVal)
  | 0, _ => []
  | n + 1, l => l.take 16 :: sixteens n (l.drop 16)

/-- R117, R121, R173: the accumulator after one firing: for each element the products of the K-sub-blocks that are not skipped, and its
value, added exactly and rounded once. `flags` are the B tile's; the A rows' are computed from the operand that fires. -/
def mmaAcc (fmt h : Nat) (rows : List Row) (b : List FVal) (flags : BitVec 128) (acc : Tab (BitVec 32)) : Tab (BitVec 32) :=
  (List.range 16).flatMap (fun m =>
    let a := (sixteens (kDepth fmt / 16) (aRow fmt h (rows.getD m 0))).map (fun l => (l, subFlags l))
    (List.range 16).map (fun n =>
      let old := (acc.look 0 (16 * m + n)).toNat
      let ps := a.zipIdx.flatMap (fun x =>
        if subSkipped x.1.2 (flagsAt flags n x.2) then []
        else x.1.1.zipIdx.map (fun y => y.1.mul (b.getD (16 * (16 * x.2 + y.2) + n) (.fin false 0 0))))
      (16 * m + n, BitVec.ofNat 32 (exactSum (fp32.read old :: ps)))))

/-- An accumulator replaced. -/
def Elem.setAcc (n : Nat) (a : Acc) (e : Elem) : Elem := { e with accs := e.accs.put n a }

/-- R172: no `MMA` or `MMAS` of the element has begun in the preceding 7 cycles. -/
def State.mmaSpaced (s : State) (e : Nat) : Bool :=
  match (s.elem e).mmaAt with
  | some c => decide (8 ≤ (s.cyc - c).toNat)
  | none => true

/-- R171, R172, R190: whether the lines of an entry or the accumulator hold an uncorrectable error. -/
def State.mmaBad (s : State) (e acc : Nat) (w : WEntry) : Bool :=
  s.isBad (accKey e acc) 1 || s.isBad (elemHome e + 64 * w.first) (64 * w.lines) ||
  (w.enc == 2 && s.isBad (fretKey e (if (s.elem e).active then 1 else 0)) 1)

/-- R170, R173: the firing of a ready `MMA` or `MMAS` on A rows and a B tile with its flags. `aPort` is the channel of the A token, which
the last K-block of it consumes. -/
def State.mmaGo (s : State) (sl : Slot) (rows : List Row) (b : List FVal) (flags : BitVec 128) (aPort : Option Nat)
    (eat : List Nat) : Fire :=
  let el := s.elem s.site.elem
  let n := s.site.slot
  let accN := sl.imm.toNat / 4096 % 4
  let acc := el.acc accN
  let blk := decide (0x20 ≤ el.fmt)
  let h := if blk then 0 else (el.slot n).idx.toNat % 2
  let el1 := el.setAcc accN { vals := mmaAcc el.fmt h rows b flags (if acc.owned then acc.vals else []), owned := true, owner := n }
  .go { eat := eat ++ (match aPort with | some p => if h == 1 || blk then [p] else [] | none => []),
        elem := ({ el1 with mmaAt := some s.cyc } : Elem).tick n }

/-- R170-R172, R175, R179, R190: the firing of `MMA` or `MMAS` on an A operand that stands and an entry number: an entry in error or none is a
fault; the slot waits for a ready entry, its accumulator and its cycle; a directory word that cannot be read is a fault once the other two have come; only then the firing begins and reads its operands. -/
def State.mmaFire (s : State) (sl : Slot) (a : Except (Nat × Option Nat × Nat) (List Row)) (entry : Nat) (chan : Option Nat)
    (aPort : Option Nat) (eat : List Nat) : Fire :=
  let e := s.site.elem
  let el := s.elem e
  let accN := sl.imm.toNat / 4096 % 4
  let acc := el.acc accN
  let busy := (acc.owned && acc.owner != s.site.slot) || !(s.mmaSpaced e)
  if 64 ≤ entry then .fault [] 7 chan entry
  else if s.isBad (entryAddr e entry) 8 then (if busy then .wait else .fault [] 8 none 0)
  else
    let v := s.peek (entryAddr e entry) 8
    let w := wentryOf v
    if entryError v then .fault [] 7 chan entry
    else if !(entryReady v) || busy then .wait
    else if s.mmaBad e accN w then .fault [] 8 none 0
    else
      match a with
      | .error (cause, c, d) => .fault [] cause c d
      | .ok rows =>
        match s.bTile e w with
        | .error i => .fault [] 9 none i
        | .ok b =>
          -- R170: the finite flags of a fret entry are those of the values expanded now; its zero flags stay clear
          let flags := if w.enc = 2 then tileFlags (kDepth el.fmt) b / 2^64 * 2^64 else el.wflags.look 0 entry
          s.mmaGo sl rows b flags aPort eat

/-- R126, R135, R190: the rows of `ta`, or the row that holds an uncorrectable error. -/
def State.taRows (s : State) (e : Nat) : Except (Nat × Option Nat × Nat) (List Row) :=
  match (List.range 16).find? (fun r => s.isBad (taKey e r) 1) with
  | some r => .error (8, none, r)
  | none => .ok ((List.range 16).map (fun r => (s.elem e).ta.look 0 r))

/-- R175: the rows of the A token, expanded under XI. -/
def Elem.aRows (el : Elem) (sl : Slot) (p : Nat) (t : Token) : Except (Nat × Option Nat × Nat) (List Row) :=
  match (if slotXi sl then el.expandRows (if el.fmt = 0x12 then 16 else 8) t.rows else .ok t.rows) with
  | .error i => .error (3, some p, i)
  | .ok rows => .ok rows

/-- R172, R186: what keeps a product from its operands: a head that is missing or a control token (not ready, R28), or the lowest-numbered
channel whose DATA head has the wrong shape: a one-beat token for A, a tile token for the entry number. -/
def Elem.mmaHeads (el : Elem) (aPort selPort : Option Nat) : Option Fire :=
  let ports := channelsOf ((aPort.toList ++ selPort.toList).map (BitVec.ofNat 4))
  if ports.any (fun p => match el.head p with | some t => t.kind != .data | none => true) then some .wait
  else
    match ports.find? (fun p => (aPort == some p && !((el.head p).getD {}).tile) || (selPort == some p && ((el.head p).getD {}).tile)) with
    | some p => some (.fault [] 4 (some p) 0)
    | none => none

/-- R173: `MMA`. -/
def State.mmaForm (s : State) (sl : Slot) : Fire :=
  let el := s.elem s.site.elem
  let p := sl.in0.toNat
  match el.mmaHeads (some p) none with
  | some f => f
  | none =>
    s.mmaFire sl (el.aRows sl p ((el.head p).getD {}))
      (sl.imm.toNat % 64 + (el.slot s.site.slot).idx.toNat % (sl.imm.toNat / 64 % 64 + 1)) none (some p) []

/-- R173 -/
def execMma (sl : Slot) (s : State) : Out := s.fireSlot 0x60 sl false (s.mmaForm sl)

/-- R174: `MMAS`: the entry number is lane 0 of the in1 head; A is a tile token or `ta`, which is never consumed. -/
def State.mmasForm (s : State) (sl : Slot) : Fire :=
  let e := s.site.elem
  let el := s.elem e
  let q := sl.in1.toNat
  let p := chanOf sl.in0
  match el.mmaHeads p (some q) with
  | some f => f
  | none =>
    s.mmaFire sl (match p with | some p => el.aRows sl p ((el.head p).getD {}) | none => s.taRows e)
      (lane ((el.head q).getD {}).row 0) (some q) p [q]

/-- R174 -/
def execMmas (sl : Slot) (s : State) : Out := s.fireSlot 0x61 sl false (s.mmasForm sl)

/-- The channels that a matrix slot names, in the order of its operand fields (R176, R178). -/
def matrixChannels (code : Nat) (sl : Slot) : List Nat :=
  (slotOperands code sl).filterMap (fun o => if o.toNat < 8 then some o.toNat else none)

/-- R176: idx returns to 0 in every `MMA` and `MMAS` slot that names the channels given. -/
def Elem.resetMma (chans : List Nat) (e : Elem) : Elem :=
  (List.range 4).foldl (fun e n =>
    let w := (e.slots.look 0 n).toNat
    let code := bitsAt w 56 8
    if e.slotMask / 2^n % 2 = 1 ∧ (code = 0x60 ∨ code = 0x61) ∧ matrixChannels code (slotFields w) = chans then
      e.updSlot n (fun t => { t with idx := 0 })
    else e) e

/-- R176: the tile token of an accumulator. -/
def accTile (a : Acc) : Token :=
  .tileOf ((List.range 16).map (fun m => packRow 32 ((List.range 16).map (fun n => (a.vals.look 0 (16 * m + n)).toNat))))

/-- R176: `MRD`. -/
def State.mrdForm (s : State) (sl : Slot) : Fire :=
  let e := s.site.elem
  let el := s.elem e
  let i := sl.imm.toNat
  let n := i % 4
  let ports := slotChannels 0x63 sl
  match el.heads ports with
  | .wait => .wait
  | .data => .wait
  | .mismatch c => .fault [] 1 (some c) 0
  | .control t =>
    if !((maskPorts sl.outmask).all (fun p => el.room p 2)) then .wait
    else
      let acc := el.acc n
      let reads := match t.kind with | .stop j => decide (i / 16 % 4 ≤ j) | .eos => acc.owned | _ => false
      if reads && s.isBad (accKey e n) 1 then .fault [] 8 none 0
      else
        let el1 := if reads && i / 4 % 2 == 1 then el.setAcc n {} else el
        .go { eat := ports, out := (if reads then toPorts sl.outmask (accTile acc) else []) ++ toPorts sl.outmask t,
              elem := el1.resetMma (matrixChannels 0x63 sl), data := false }

/-- R176 -/
def execMrd (sl : Slot) (s : State) : Out := s.fireSlot 0x63 sl false (s.mrdForm sl)

/-- R177: `MMZ`. -/
def execMmz (sl : Slot) (s : State) : Out :=
  let p := sl.in0.toNat
  s.fireSlot 0x62 sl false (s.streamForm 0x62 sl [p] (fun el _ =>
    .go { eat := [p], elem := (el.setAcc (sl.imm.toNat % 4) {}).tick s.site.slot }))

/-- R177: every element of an accumulator scaled by its column's lane. -/
def scaleAcc (mode : RMode) (r : Row) (a : Acc) : Acc :=
  if a.owned then
    { a with vals := (List.range 256).map (fun j =>
        (j, BitVec.ofNat 32 (fp32.mul mode (a.vals.look 0 j).toNat (lane r (j % 16))))) }
  else a

/-- R177: `MSCL`. -/
def execMscl (sl : Slot) (s : State) : Out :=
  let e := s.site.elem
  let p := sl.in0.toNat
  let n := sl.imm.toNat % 4
  s.fireSlot 0x64 sl false (s.streamForm 0x64 sl [p] (fun el t =>
    if s.isBad (accKey e n) 1 then .fault [] 8 none 0
    else .go { eat := [p], elem := (el.setAcc n (scaleAcc (slotMode sl) t.row (el.acc n))).tick s.site.slot }))

end Sys2Proof.Machine
end

