-- ==== Sys2Proof/Machine/Memory.lean ====
section
/-!
DEFINITION. The parts of the ordering machine (R312-R319) as operations on requests: reads through stream buffer, die point and
home, writes at a die point and at the home, presence and deferral, releases and acquires; and the checks of on-chip spaces.
-/

namespace Sys2Proof.Machine

/-- What a request that is performed answers. -/
inductive Ans where
  | value (v : Nat)
  /-- R82, R219: the home refused it; the lowest full word -/
  | refused (a : Nat)
  /-- it cannot be performed yet -/
  | wait
  deriving DecidableEq, Repr

/-- Whether a request changes memory. -/
def Req.writes (r : Req) : Bool :=
  match r.kind with
  | .read => false
  | .syncRead => false
  | _ => true

/-- Whether two byte ranges meet. -/
def overlaps (a n b m : Nat) : Bool := decide (a < b + m) && decide (b < a + n)

/-- R315 move 2, R80, R252: an earlier request of the same issue queue to an overlapping byte is not yet performed. -/
def State.earlier (s : State) (r : Req) : Bool :=
  s.reqs.any (fun q => q.agent == r.agent && decide (q.id < r.id) && overlaps q.home q.size r.home r.size)

/-- The AGE of an agent. -/
def Agent.ageOf : Agent → Option Nat
  | .place e _ => some e
  | .spill e _ => some e
  | _ => none

/-- The AGE whose spill queue an agent is. -/
def Agent.spillOf : Agent → Option Nat
  | .spill e _ => some e
  | _ => none

/-- R227, R252: a write that an AGE's spill queue issued before is not yet performed at its home. -/
def State.spillFlies (s : State) (e id : Nat) : Bool :=
  s.reqs.any (fun q => (q.agent.spillOf == some e && decide (q.id < id)) || q.writers.any (fun a => a.spillOf == some e)) ||
  s.dieLines.any (fun d => d.changed != 0 && d.writers.any (fun a => a.spillOf == some e))

/-- R252: an earlier request of the same AGE, of whatever command, to an overlapping byte is not yet performed; a write of the spill queue waits for
all that the queue issued before it (R227). -/
def State.earlierAge (s : State) (r : Req) : Bool :=
  match r.agent.ageOf with
  | some e => s.reqs.any (fun q => q.agent.ageOf == some e && decide (q.id < r.id) && overlaps q.home q.size r.home r.size) ||
      (r.agent.spillOf.isSome && s.spillFlies e r.id)
  | none => false

/-- R218, R220: the bank or channel that is a physical address's home; none for on-chip storage. -/
def State.homeBank (s : State) (r : Req) : Option Nat := if r.virt then some (s.bankOf r.home) else none

/-- R286: the home bank's row is held by a bank program. -/
def State.homeHeld (s : State) (r : Req) : Bool :=
  match s.homeBank r with
  | some b => (s.bankAt b).held
  | none => false

/-- R286, R313: the accesses that stand at a bank in the order of their arrival, but for synchronising reads. -/
def State.queuedAt (s : State) (b : Nat) : List Req :=
  s.reqs.filter (fun q => q.stage == .home && q.kind != .syncRead && s.homeBank q == some b)

/-- R286: a bank whose row a program holds has its 16 pending entries in use, or would with n more accesses, so that these wait at their issuers. -/
def State.pendingOver (s : State) (b n : Nat) : Bool := (s.bankAt b).held && decide (Config.bankPending < (s.queuedAt b).length + n)

/-- R286: a request finds the pending queue of its home full. -/
def State.pendingFull (s : State) (r : Req) : Bool :=
  match s.homeBank r with
  | some b => s.pendingOver b 1
  | none => false

/-- R286, R327: some bank program holds a row. -/
def State.rowHeld (s : State) : Bool := s.banks.any (fun b => b.2.held)

/-- R286, R327: a unit that reaches memory by no request of its own waits while a bank program holds a row: the whole hold is one move, before
or after it (log 104). -/
def State.unheld (o : Out) (s : State) : Out := if s.rowHeld then .next s else o

/-- R286, R327, R333: a walk reads page-table entries at their homes, so that an access that needs one waits while a bank program holds a row: the
whole hold is one move (log 104). -/
def State.walkWaits (s : State) (own : TlbOwner) (die job va : Nat) : Bool := s.rowHeld && (s.cached own die job va).isNone

/-- R338: the key of the scratch tile that a home address lies in. -/
def tileKey (a : Nat) : Option Nat :=
  if 2^56 ≤ a ∧ a < 2^57 then some ((a - 2^56) / 2^20 * 2048 + (a - 2^56) % 2^20 / 1024)
  else if 2^57 ≤ a ∧ a < 2^58 then some ((a - 2^57) / 2^19 * 2048 + 1024 + (a - 2^57) % 2^19 / 1024)
  else none

/-- R57: the op of the command in a place. -/
def Place.op (p : Place) : Nat := bitsAt p.raw.toNat 120 8
/-- R57: the space code of the command in a place. -/
def Place.space (p : Place) : Nat := bitsAt p.raw.toNat 104 4

/-- R339: the tile state holds the access: a read of a filling tile, a write to a filling or draining one. `TFIL` and `TDRN`
move their own tile. -/
def State.tileHolds (s : State) (r : Req) : Bool :=
  let own := match r.agent with
    | .place e p => (s.place e p).op == 0x2C || (s.place e p).op == 0x2D
    | .spill e p => (s.place e p).op == 0x2C || (s.place e p).op == 0x2D
    | _ => false
  match tileKey r.home with
  | some k => !own && (s.tiles.look 0 k == 1 || (r.writes && s.tiles.look 0 k == 3))
  | none => false

-- lines -----------------------------------------------------------------------------------------

/-- The 128 bytes of a line at the home. -/
def State.homeLine (s : State) (l : Nat) : BitVec 1024 := BitVec.ofNat 1024 (s.peek (128 * l) 128)

/-- The die point's copy of a line. -/
def State.dieLine (s : State) (die l : Nat) : Option DieLine := s.dieLines.find? (fun x => x.die == die && x.line == l)

/-- Whether a sector is present in a die line. -/
def DieLine.holds (d : DieLine) (sector : Nat) : Bool := d.present.toNat / 2^sector % 2 == 1
/-- R211: whether a sector is dirty. -/
def DieLine.dirty (d : DieLine) (sector : Nat) : Bool := bitsAt d.changed.toNat (64 * sector) 64 != 0

/-- The bytes given, put where the mask has ones. -/
def maskedStore (m : List Host.Cell) (a : Nat) : Nat → Nat → Nat → List Host.Cell
  | 0, _, _ => m
  | n + 1, v, k => maskedStore (if k % 2 = 1 then memPut m a (BitVec.ofNat 8 v) else m) (a + 1) n (v / 256) (k / 2)

/-- A number with the bytes of another put in where the mask has ones, from byte `at_` up. -/
def mergeBytes (old at_ : Nat) : Nat → Nat → Nat → Nat
  | 0, _, _ => old
  | n + 1, v, k =>
    mergeBytes (if k % 2 = 1 then old - bitsAt old (8 * at_) 8 * 2^(8 * at_) + v % 256 * 2^(8 * at_) else old)
      (at_ + 1) n (v / 256) (k / 2)

/-- The bits of a mask spread over n bytes from byte `at_` up, added to a set of changed bytes. -/
def mergeMask (old at_ : Nat) : Nat → Nat → Nat
  | 0, _ => old
  | n + 1, k => mergeMask (if k % 2 = 1 ∧ old / 2^at_ % 2 = 0 then old + 2^at_ else old) (at_ + 1) n (k / 2)

/-- R315 move 4: whether a request is a sector that a die point has sent home. -/
def Req.isSector (r : Req) : Bool := !r.writers.isEmpty

/-- R312: a line of the home with the sectors that a die point has sent there and the home has not applied yet: what is performed at die scope
shows on that die, though the die point has dropped its line. -/
def State.homeSeen (s : State) (die l : Nat) : BitVec 1024 :=
  (s.reqs.filter (fun r => r.stage == .home && r.isSector && r.die == die && r.home / 128 == l)).foldl
    (fun h r => BitVec.ofNat 1024 (mergeBytes h.toNat (r.home % 128) r.size (r.data.toNat % 2^512) r.mask.toNat)) (s.homeLine l)

/-- The bytes of a line as agents of a die see them: present sectors from the die point, others from the home. -/
def State.lineSeen (s : State) (die l : Nat) : BitVec 1024 :=
  let h := s.homeSeen die l
  match s.dieLine die l with
  | none => h
  | some d =>
    let pick (k : Nat) : Nat := if d.holds k then bitsAt d.data.toNat (512 * k) 512 else bitsAt h.toNat (512 * k) 512
    BitVec.ofNat 1024 (pick 0 + 2^512 * pick 1)

/-- The job of an agent. -/
def State.agentJob (s : State) (a : Agent) : Nat :=
  match a with
  | .seq k => (s.strand k).job
  | _ => match a.ageOf with | some e => (s.strand (s.strandOf e)).job | none => 0

/-- R380: the write-backs of a line's dirty sectors counted. -/
def State.countBack (d : DieLine) (s : State) : State :=
  s.countPerf d.die 6 (match d.writers with | a :: _ => s.agentJob a | [] => 0)
    ((if d.dirty 0 then 1 else 0) + (if d.dirty 1 then 1 else 0))

/-- R363: the bytes that writes of a sector or a line owe to barriers, counted as they are performed at the home. -/
def State.countOwed (l : List Owed) (s : State) : State := l.foldl (fun s c => s.countBytes (some c.bar) c.job c.bytes) s

/-- R315 move 5, R355: the changed bytes of a dirty die line applied at the home. -/
def State.applyLine (d : DieLine) (s : State) : State :=
  let s1 := s.underKey d.key (128 * d.line) 128
  (({ s1 with mem := maskedStore s1.mem (128 * d.line) 128 d.data.toNat d.changed.toNat } : State).countBack d).countOwed d.counts

/-- R315 move 5: the changed bytes of every die point's copy of a line applied at the home. -/
def State.applyLines : List DieLine → State → State
  | [], s => s
  | d :: r, s => State.applyLines r (s.applyLine d)

/-- R315 moves 4 and 5: a sector that a die point has sent home applied there, with the bytes that it owes to barriers. -/
def State.applySector (r : Req) (s : State) : State :=
  let s1 := s.underKey r.key r.home r.size
  State.countOwed r.counts { s1 with mem := maskedStore s1.mem r.home r.size (r.data.toNat % 2^512) r.mask.toNat }

/-- R315: a sector of a line that one of a list of die points has sent home and that is not applied yet. -/
def Req.fliesFrom (ds : List DieLine) (l : Nat) (r : Req) : Bool :=
  r.stage == .home && r.isSector && r.home / 128 == l && ds.any (fun d => d.die == r.die)

/-- R211, R315 move 5: before a request is serialised at the home, dirty sectors of its line are applied, each behind the sectors of the line that
its die point had sent home before it; then every die point drops its copy; a locked line keeps its lock (R213). -/
def State.gather (l : Nat) (s : State) : State :=
  let ds := s.dieLines.filter (fun d => d.line == l && d.changed != 0)
  let s0 := (s.reqs.filter (Req.fliesFrom ds l)).foldl (fun s r => s.applySector r) s
  let s1 := State.applyLines ds { s0 with reqs := s0.reqs.filter (fun r => !(r.fliesFrom ds l)) }
  { s1 with dieLines := s1.dieLines.filterMap (fun d =>
      if d.line = l then (if d.lock.isSome then some { d with present := 0, changed := 0, writers := [], pages := [], counts := [] } else none) else some d) }

-- the home --------------------------------------------------------------------------------------

/-- R84, R233, R247: the result of an atomic or combining operation on the old value. -/
def amoResult (op : AmoOp) (old v expect : Nat) : Nat :=
  match op with
  | .add64 => (old + v) % 2^64
  | .swp64 => v
  | .cas64 => if old = expect then v else old
  | .max64 => if sint 64 old ≤ sint 64 v then v else old
  | .add32 => (old + v) % 2^32
  | .swp32 => v
  | .max32 => if sint 32 old ≤ sint 32 v then v else old
  | .min32 => if sint 32 old ≤ sint 32 v then old else v
  | .maxu32 => if old ≤ v then v else old
  | .or32 => old ||| v
  | .and32 => old &&& v
  | .addf => fp32.add .rne old v
  | .addi => (old + v) % 2^32
  | .maxf => fp32.max old v
  | .minf => fp32.min old v

/-- The SYNC words that an access covers; one of 4 bytes lies in a word (R240). -/
def wordsOf (a n : Nat) : List Nat := if n < 8 then [a / 8 * 8] else (List.range (n / 8)).map (fun k => a + 8 * k)

/-- The number of bytes of a request. -/
def Req.value (r : Req) : Nat := r.data.toNat % 2^(8 * r.size)

/-- Bytes stored at a home: an MXE's weight buffer checks its entries (R168, R171). -/
def State.storeHome (r : Req) (s : State) : State :=
  if 2^59 ≤ r.home ∧ r.home < 2^60 then
    State.elemWrite ((r.home - 2^59) / 65536) ((r.home - 2^59) % 65536) (toBytes r.size r.value) s
  else { s with mem := maskedStore s.mem r.home r.size r.value r.mask.toNat }

/-- SYNC words written from a list of values; each is set full where its bit says so, and an empty one holds 0 (R219, R244). -/
def State.setWords (a : Nat) (full : Nat) : List Nat → State → State
  | [], s => s
  | v :: r, s => State.setWords (a + 8) (full / 2) r ((s.poke a 8 (if full % 2 = 1 then v else 0)).setFull a (full % 2 == 1))

/-- R80, R313, R324: a request applied at its home. -/
def State.applyHome (r : Req) (s : State) : State × Ans :=
  let words := (List.range (r.size / 8)).map (fun k => bitsAt r.value (64 * k) 64)
  match r.kind with
  | .read => (s, .value (s.peek r.home r.size))
  | .syncRead => if (wordsOf r.home r.size).all s.isFull then (s, .value (s.peek r.home r.size)) else (s, .wait)
  | .write => (s.storeHome r, .value 0)
  | .stp => if s.isFull r.home then (s, .refused r.home) else (s.setWords r.home 1 words, .value 0)
  | .clrp => ((s.poke r.home 8 0).setFull r.home false, .value 0)
  | .engine =>
    match (wordsOf r.home r.size).find? s.isFull with
    | some a => (s, .refused a)
    | none => (s.setWords r.home 255 words, .value 0)
  | .copySync full =>
    match (wordsOf r.home r.size).find? s.isFull with
    | some a => (s, .refused a)
    | none => (s.setWords r.home full.toNat words, .value 0)
  | .amo op =>
    let old := s.peek r.home r.size
    (s.storeHome { r with data := BitVec.ofNat 512 (amoResult op old r.value r.expect.toNat) }, .value old)

-- answers ---------------------------------------------------------------------------------------

/-- The first occurrence of a number removed. -/
def dropOne (k : Nat) : List Nat → List Nat
  | [] => []
  | a :: r => if a = k then r else a :: dropOne k r

/-- R80, R81, R225: the answer of a performed request reaches the register, the waiting sequencer or the place that made it. -/
def State.answer (r : Req) (v : Nat) (s : State) : State :=
  match r.dest with
  | .none => s
  | .reg k d => s.updStrand k (fun t => { (t.setReg d (BitVec.ofNat 64 v)) with owedRegs := dropOne d t.owedRegs })
  | .host => { s with hostAnswer := BitVec.ofNat 64 v }
  | .await k => s.updStrand k (fun t => if t.awaits = some r.id then { t with answer := some (true, BitVec.ofNat 64 v) } else t)
  | .elem e p i =>
    s.updPlace e p (fun x => { x with
      got := x.got.put i (BitVec.ofNat 512 v)
      full := if r.virt && r.regionKind == 1 then
          x.full.put i (BitVec.ofNat 8 (packBits 1 ((wordsOf r.home r.size).map (fun w => if s.isFull w then 1 else 0))))
        else x.full })

/-- R315 move 9: deferred reads whose words are now all full are answered in the order in which they joined. -/
def State.answerDeferred : List Req → State → State
  | [], s => s
  | r :: rest, s =>
    if r.stage = .deferred ∧ (wordsOf r.home r.size).all s.isFull then
      State.answerDeferred rest
        ({ s with reqs := s.reqs.filter (fun q => q.id != r.id) }.answer r (s.peekKey r.key r.home r.size))
    else State.answerDeferred rest s

/-- Whether a kind can fill a SYNC word. -/
def ReqKind.fills : ReqKind → Bool
  | .stp => true
  | .engine => true
  | .copySync _ => true
  | _ => false

/-- R210: whether a stream line is a panel's copy of a job's line. -/
def StreamLine.is (panel job line : Nat) (l : StreamLine) : Bool := l.panel == panel && l.job == job && l.line == line

/-- R210, R315 move 3: what a write does to its own panel's stream-buffer line. -/
def State.streamWrite (r : Req) (s : State) : State :=
  match r.agent with
  | .seq _ => { s with streamLines := s.streamLines.filter (fun l => !(l.is r.panel r.job (r.va / 128))) }
  | _ => { s with streamLines := s.streamLines.map (fun l =>
      if l.is r.panel r.job (r.va / 128) then
        { l with data := BitVec.ofNat 1024 (mergeBytes l.data.toNat (r.va % 128) r.size r.value r.mask.toNat) }
      else l) }

/-- R210, R227, R317: an atomic or combining access in `VIRT` that its home has performed: its panel's stream-buffer line takes the new bytes of the
word, or goes where a sequencer made it. -/
def State.streamAtomic (r : Req) (s : State) : State :=
  match r.kind with
  | .amo _ => if r.virt then s.streamWrite { r with data := BitVec.ofNat 512 (s.peek r.home r.size) } else s
  | _ => s

/-- R315 move 5: a request performed at its home under its page's key (R355), with the answers that it owes (R220) and the bytes it counts
(R363). A read, and a write that the home refuses, leave its storage as it was; a sector that its line's newer bytes have taken home with them is
performed already. -/
def State.serialise (r : Req) (s : State) : State × Ans :=
  let s0 := if r.virt && r.writes then s.gather (r.home / 128) else s
  if r.isSector && !(s0.reqs.any (fun q => q.id == r.id)) then (s0, .value 0)
  else
    match (s0.underKey r.key r.home r.size).applyHome r with
    | (s1, .value v) =>
      if r.writes then
        let s2 := if r.kind.fills then State.answerDeferred s1.reqs s1 else s1
        (((s2.streamAtomic r).countBytes r.bar r.job r.size).countOwed r.counts, .value v)
      else (s0, .value v)
    | (_, a) => (s0, a)

-- reads -----------------------------------------------------------------------------------------

/-- R210: the line of a panel's stream buffer that a virtual address hits; data and fetch share the buffer. -/
def State.streamHit (s : State) (panel job va : Nat) : Option StreamLine :=
  s.streamLines.find? (fun l => l.panel == panel && l.job == job && l.line == va / 128)

/-- R315 move 6: whether an agent reads through its panel's stream buffer. -/
def Req.streams (r : Req) : Bool := r.virt && r.agent.ageOf.isSome && r.regionKind != 3

/-- R315 move 6: what a read returns: the stream-buffer line, else the die point's, else the home's. -/
def State.readValue (s : State) (r : Req) : Nat :=
  if !r.virt then s.peek r.home r.size
  else if r.regionKind == 3 || r.atHome then s.peekKey r.key r.home r.size
  else
    match (if r.streams then s.streamHit r.panel r.job r.va else none) with
    | some l => bitsAt l.data.toNat (8 * (r.va % 128)) (8 * r.size)
    | none => bitsAt ((s.underKey r.key r.home r.size).lineSeen r.die (r.home / 128)).toNat (8 * (r.home % 128)) (8 * r.size)

-- the two caches --------------------------------------------------------------------------------

/-- R210: the set of a line in a stream buffer. -/
def streamSet (line : Nat) : Nat := line % 64

/-- R210: lines with one put in front; of its set the eight most recently used stay. -/
def putStream (d : StreamLine) (l : List StreamLine) : List StreamLine :=
  let rest := l.filter (fun x => !(x.is d.panel d.job d.line))
  let mine (x : StreamLine) : Bool := x.panel == d.panel && streamSet x.line == streamSet d.line
  let keep := (rest.filter mine).take 7
  d :: rest.filter (fun x => !(mine x) || keep.contains x)

/-- R210: a stream line read: the most recently used of its set. -/
def State.touchStream (panel job va : Nat) (fetch : Bool) (s : State) : State :=
  match s.streamHit panel job va with
  | some d => { s with streamLines := putStream { d with fetch := d.fetch || fetch } s.streamLines }
  | none => s

/-- R211: the set of a line in an L2. -/
def l2Set (line : Nat) : Nat := (line % 2^15) ^^^ (line / 2^15 % 2^15)

/-- R211, R315 move 4: a dirty sector of a die point goes home with its changed bytes, and is clean. -/
def State.sendSector (die line sector : Nat) (s : State) : State :=
  match s.dieLine die line with
  | none => s
  | some d =>
    if !(d.dirty sector) then s
    else
      let mask := bitsAt d.changed.toNat (64 * sector) 64
      let r : Req := {
        id := s.fresh, kind := .write, home := 128 * line + 64 * sector, size := 64, die, key := d.key
        data := BitVec.ofNat 512 (bitsAt d.data.toNat (512 * sector) 512), mask := BitVec.ofNat 64 mask, writers := d.writers, pages := d.pages, stage := .home,
        counts := d.counts.filter (fun c => c.sector == sector) }
      let left := d.changed.toNat - mask * 2^(64 * sector)
      let d1 : DieLine := { d with
        changed := BitVec.ofNat 128 left, writers := if left = 0 then [] else d.writers, pages := if left = 0 then [] else d.pages
        counts := d.counts.filter (fun c => c.sector != sector) }
      let s1 : State := { s with
        dieLines := s.dieLines.map (fun x => if x.die = die ∧ x.line = line then d1 else x), reqs := s.reqs ++ [r], fresh := s.fresh + 1 }
      s1.countBack { d with changed := BitVec.ofNat 128 (mask * 2^(64 * sector)) }

/-- R211, R213: the line that gives way to another in its set of 16 ways: where that is absent and the set is full, the least recently used line
that is not locked. -/
def State.evictee (s : State) (die line : Nat) : Option DieLine :=
  let set := s.dieLines.filter (fun d => d.die == die && l2Set d.line == l2Set line)
  if (s.dieLine die line).isSome || decide (set.length < 16) then none else (set.filter (fun d => d.lock.isNone)).getLast?

/-- R286: the write-backs of the line that would give way find the pending queue of their bank full. -/
def State.roomWaits (s : State) (die line : Nat) : Bool :=
  match s.evictee die line with
  | none => false
  | some v => (v.dirty 0 || v.dirty 1) &&
      s.pendingOver (s.bankOf (128 * v.line)) ((if v.dirty 0 then 1 else 0) + (if v.dirty 1 then 1 else 0))

/-- R211, R213: room for a line: the line that gives way goes, its dirty sectors sent home. -/
def State.makeRoom (die line : Nat) (s : State) : State :=
  match s.evictee die line with
  | none => s
  | some v =>
    let s1 := (s.sendSector die v.line 0).sendSector die v.line 1
    { s1 with dieLines := s1.dieLines.filter (fun d => !(d.die == die && d.line == v.line)) }

/-- R212: a line put among a die's, as the most recently used, or under policy 1 as the least. -/
def State.putLine (policy : Nat) (d : DieLine) (s : State) : State :=
  let rest := s.dieLines.filter (fun x => !(x.die == d.die && x.line == d.line))
  { s with dieLines := if policy = 1 then rest ++ [d] else d :: rest }

/-- R211, R212: a read fills the sectors that it touches, and its line becomes the most recently used; under policy 1 a line that it
allocates is the least, and under policy 2 it fills nothing; nor does it where no room can be made (R286). -/
def State.fillDie (r : Req) (s : State) : State :=
  let l := r.home / 128
  if r.policy = 2 ∨ s.roomWaits r.die l then s
  else
    let s1 := s.makeRoom r.die l
    let d : DieLine := (s1.dieLine r.die l).getD { die := r.die, line := l, key := r.key }
    let touched := BitVec.ofNat 2 (((List.range 2).map (fun k => if r.home % 128 < 64 * (k + 1) ∧ 64 * k < r.home % 128 + r.size then 2^k else 0)).sum)
    s1.putLine (if (s1.dieLine r.die l).isSome then 0 else r.policy)
      { d with data := (s1.underKey r.key (128 * l) 128).lineSeen r.die l, present := d.present ||| touched }

/-- R210-R212: a read may fill the die point and the stream buffer; `fill` says whether it does (log 2). A line that it hits becomes the most
recently used. -/
def State.fillLines (r : Req) (s : State) : State :=
  if !r.virt || r.regionKind == 3 || r.atHome then s
  else if r.streams && (s.streamHit r.panel r.job r.va).isSome then s.touchStream r.panel r.job r.va false
  else if !s.fill then s
  else
    let s1 := s.fillDie r
    if r.streams then
      { s1 with streamLines := putStream { panel := r.panel, job := r.job, line := r.va / 128
                                           data := (s.underKey r.key (r.home / 128 * 128) 128).lineSeen r.die (r.home / 128) } s1.streamLines }
    else s1

-- the die point ---------------------------------------------------------------------------------

/-- R211, R212, R315 move 3: the die point's line takes the bytes of a write and its sector becomes dirty; a sector that was absent is
filled first. -/
def State.dieWrite (r : Req) (s : State) : State :=
  let l := r.home / 128
  let o := r.home % 128
  let k := o / 64
  let s1 := s.makeRoom r.die l
  let d : DieLine := (s1.dieLine r.die l).getD { die := r.die, line := l }
  let seen := (s1.underKey r.key (128 * l) 128).lineSeen r.die l
  s1.putLine (if (s1.dieLine r.die l).isSome then 0 else r.policy) { d with
    data := BitVec.ofNat 1024 (mergeBytes seen.toNat o r.size r.value r.mask.toNat)
    present := d.present ||| BitVec.ofNat 2 (2^k)
    changed := BitVec.ofNat 128 (mergeMask d.changed.toNat o r.size r.mask.toNat)
    key := r.key
    writers := if d.writers.contains r.agent then d.writers else r.agent :: d.writers
    pages := if d.pages.contains (r.job, r.va / 65536) then d.pages else (r.job, r.va / 65536) :: d.pages
    counts := d.counts ++ (match r.bar with | some b => [{ sector := k, bar := b, job := r.job, bytes := r.size }] | none => []) }

/-- R212, R315 moves 3 and 4: whether a write comes to rest at a die point, or goes on home. -/
def Req.rests (r : Req) : Bool := r.virt && r.kind == .write && r.regionKind != 1 && r.regionKind != 3 && r.policy != 2

/-- R315 move 3: whether a write passes its own panel's stream buffer and die point. -/
def Req.passesDie (r : Req) : Bool := r.virt && r.kind == .write && r.regionKind != 1 && r.regionKind != 3

-- requests --------------------------------------------------------------------------------------

/-- R211, R380: whether a read is an L2 miss. -/
def State.missesL2 (s : State) (r : Req) : Bool :=
  r.virt && r.regionKind != 3 && !(r.streams && (s.streamHit r.panel r.job r.va).isSome) &&
  !((s.dieLine r.die (r.home / 128)).any (fun d => d.holds (r.home % 128 / 64)))

/-- R380: an L2 read miss counted. -/
def State.countMiss (r : Req) (miss : Bool) (s : State) : State := if miss then s.countPerf r.die 5 r.job 1 else s

/-- R315 move 1: a request joins the tail of its issue queue. -/
def State.issue (r : Req) (s : State) : State := { s with reqs := s.reqs ++ [r], fresh := s.fresh + 1 }

/-- A request removed from the machine. -/
def State.retire (r : Req) (s : State) : State := { s with reqs := s.reqs.filter (fun q => q.id != r.id) }

/-- The request with a number. -/
def State.req (s : State) (id : Nat) : Option Req := s.reqs.find? (fun q => q.id == id)

/-- A request replaced. -/
def State.setReq (r : Req) (s : State) : State := { s with reqs := s.reqs.map (fun q => if q.id = r.id then r else q) }

/-- R210-R212, R315 move 6: a read returns. -/
def State.readNow (r : Req) (s : State) : State :=
  (((s.fillLines r).countMiss r (s.missesL2 r)).retire r).answer r (s.readValue r)

/-- Whether a command in a place takes the old values of its atomics (`AMOS`). -/
def State.takesOld (s : State) (r : Req) : Bool :=
  match r.agent with
  | .place e p => !r.writes || (s.place e p).op == 0x28
  | .spill _ _ => false
  | _ => true

/-- R187: the element address as the port fault register holds it. -/
def faultAddr (a : Int) : Nat := wrapN 60 a

/-- R82, R219, R192: a refused write leaves its home queue: the waiting `STP` takes its fault; an engine write returns to its port, which holds
it with the lowest full word until retry issues it again. -/
def State.refuseWrite (r : Req) (a : Nat) (s : State) : State :=
  let held (e p i : Nat) : State :=
    let s1 := s.setReq { r with stage := .returned }
    if (s.place e p).held then s1 else s1.holdPlace e p 6 (s.place e p).op i (faultAddr (r.va + (a - r.home) : Nat)) 4
  match r.agent, r.dest with
  | _, .await k => (s.retire r).updStrand k (fun t => if t.awaits = some r.id then { t with answer := some (false, 0) } else t)
  | .place e p, .elem _ _ i => held e p i
  | .spill e p, .elem _ _ i => held e p i
  | _, _ => s.retire r

/-- R315 moves 5 and 6: a request in a home queue is applied at its home and answered; a read that waited there returns. -/
def State.serveHome (r : Req) (s : State) : State :=
  if r.kind = .read then s.readNow r
  else
    match s.serialise r with
    | (s1, .value v) => if s.takesOld r then (s1.retire r).answer r v else s1.retire r
    | (s1, .refused a) => s1.refuseWrite r a
    | (_, .wait) => s

/-- R286, R313: the accesses that stand at a bank are served in the order of their arrival. -/
def State.serveQueued (b : Nat) (s : State) : State :=
  (s.queuedAt b).foldl (fun s r => if s.reqs.any (fun q => q.id == r.id) then s.serveHome r else s) s

/-- R313, R315: what stands in the home queue of a virtual request's bank goes before it. -/
def State.behindQueue (r : Req) (s : State) : State := if r.virt then s.serveQueued (s.bankOf r.home) else s

/-- R313, R315 move 5: a unit that reaches the home of an address goes behind what stands in the home queue and behind dirty sectors of the line. -/
def State.claim (a : Nat) (s : State) : State := (s.serveQueued (s.bankOf a)).gather (a / 128)

/-- A request performed at once: the composite of the moves of R315 that `prompt` chooses (log 2). It waits behind requests of
its own issue queue to the same bytes, a held bank row (R286) and a scratch tile's state (R339). A write goes behind what stands in the queue of its
home. -/
def State.performNow (r : Req) (s : State) : State × Ans :=
  if s.earlier r || s.earlierAge r || s.homeHeld r || s.tileHolds r then (s, .wait)
  else if r.writes then
    let s1 := (if r.passesDie then s.streamWrite r else s).behindQueue r
    match s1.serialise r with
    | (s2, .value v) => (s2, .value v)
    | (_, a) => (s, a)
  else if r.kind = .syncRead then s.serialise r
  else ((s.fillLines r).countMiss r (s.missesL2 r), .value (s.readValue r))

-- releases and acquires -------------------------------------------------------------------------

/-- R317: whether an agent's earlier writes are all performed at a scope (codes of R312). At package and system scope a dirty
sector of a die point still counts as not performed. -/
def State.performedAt (s : State) (a : Agent) (scope : Nat) : Bool :=
  !(s.reqs.any (fun q => q.writes && (q.agent == a || (decide (3 ≤ scope) && q.writers.contains a)))) &&
  (decide (scope < 3) || !(s.dieLines.any (fun d => d.changed != 0 && d.writers.contains a)))

/-- R85: whether an agent's earlier loads have returned. -/
def State.readsReturned (s : State) (a : Agent) : Bool := !(s.reqs.any (fun q => q.agent == a && !q.writes))

/-- R317: an acquire at a scope wider than panel drops every stream-buffer line of the job in a panel. -/
def State.acquireAt (panel job scope : Nat) (s : State) : State :=
  if scope = 0 then s
  else { s with streamLines := s.streamLines.filter (fun l => !(l.panel == panel && l.job == job)) }

/-- R317: an acquire of the acting sequencer. -/
def State.acquire (scope : Nat) (s : State) : State := s.acquireAt s.self.lead s.self.job scope

-- on-chip spaces --------------------------------------------------------------------------------

/-- R293: elastic slots of a panel. -/
def State.elastic (s : State) (panel : Nat) : Nat :=
  ((List.range 64).map (fun n =>
    let el := s.elem (panel * 64 + n)
    if el.configured then ((List.range 8).map (fun i => 2^(bitsAt el.depths.toNat (3 * i) 3 + 1) - 2)).sum else 0)).sum

/-- R205: the panel of a cluster's share. -/
def sharePanel (die cluster k : Nat) : Nat := 128 * die + 16 * (4 * (cluster / 4) + k / 4) + 4 * (cluster % 4) + k % 4

/-- Where an access reaches: its home, and for `VIRT` the region kind and policy of its page. -/
structure Loc where
  home : Nat
  virt : Bool := false
  kind : Nat := 0
  policy : Nat := 0
  key : Nat := 0
  deriving DecidableEq, Repr

/-- R205, R206: an on-chip element address, checked in order; the port fault class where it fails. -/
def State.checkChip (s : State) (e space a size : Nat) : Except Nat Loc :=
  let t := s.strand (s.strandOf e)
  let die := dieOf t.lead
  let aligned (l : Loc) : Except Nat Loc := if a % size = 0 then .ok l else .error 5
  match space with
  | 0 =>
    let off := a % 2^16
    let n := a / 2^16 % 64
    let k := a / 2^22 % 128
    if 2^29 ≤ a ∨ t.width * t.height ≤ k then .error 2
    else
      match kindAt n with
      | .ce => if 0x2000 ≤ off then .error 2 else aligned { home := elemHome (t.panelAt k * 64 + n) + off }
      | .mxe => if 0x81FF < off then .error 2 else aligned { home := elemHome (t.panelAt k * 64 + n) + off }
      | _ => .error 2
  | 1 =>
    let k := a / 2^20
    let slots := s.elastic (t.panelAt k)
    if 2^27 ≤ a ∨ t.width * t.height ≤ k then .error 2
    -- R293: some byte of the element stands in the elastic slots
    else if 0 < slots ∧ 0x100000 - 1024 * slots < a % 2^20 + size then .error 2
    else aligned { home := panelHome (t.panelAt k) + a % 2^20 }
  | 2 =>
    let p := sharePanel die (a / 2^23 % 8) (a / 2^19 % 16)
    if 2^26 ≤ a then .error 2
    else if a % size ≠ 0 then .error 5
    else
      let held := match s.strandOn p with
        | some q => (s.strand q).job == t.job
        | none => let en : Panel := s.panels.look {} p; en.state == 4 && en.job == t.job
      if held then .ok { home := shareHome p + a % 2^19 } else .error 3
  | _ =>
    let w := (s.windows.look 0 (die * 64 + t.job)).toNat
    if 2^26 ≤ a then .error 2
    else if a % size ≠ 0 then .error 5
    else if 65536 * (w / 2^10 % 2^11) ≤ a then .error 3
    else .ok { home := chipHome die + 65536 * (w % 2^10) + a }

/-- R206, R226: an element address of a stream command, checked in order; the class of the first failure. -/
def State.checkSpace (s : State) (e space : Nat) (a : Int) (size : Nat) (f : AccForm) (write : Bool) : Except Nat Loc :=
  if a < 0 then .error 2
  else if space = 4 then
    let t := s.strand (s.strandOf e)
    match s.checkVirt (.age e) (dieOf (panelOf e)) t.job a.toNat size f write with
    | .error x => .error x.portClass
    | .ok l => .ok { home := l.pa, virt := true, kind := l.kind, policy := l.policy, key := l.key }
  else s.checkChip e space a.toNat size

end Sys2Proof.Machine
end

