-- ==== Sys2Proof/Machine/SeqMemory.lean ====
section
/-!
DEFINITION. Sequencer memory access (R78-R85): loads, stores, presence forms, atomics and `FENCE`.
-/

namespace Sys2Proof.Machine

/-- R78: the effective address. -/
def State.seqAddr (s : State) (a : Reg) (off : BitVec 16) : Nat := (s.reg a + sext16 off).toNat

/-- R78, R190: the checks of a sequencer access, in order; what a load, an `LDP` or an atomic reads may hold an uncorrectable error. -/
def State.seqCheck (s : State) (va size : Nat) (f : AccForm) (write : Bool) : Except AccErr Leaf :=
  let t := s.self
  match s.checkVirt (.seq s.site.strand) (dieOf t.lead) t.job va size f write with
  | .error e => .error e
  | .ok l => if (!write || f == .atomic) && s.isBad l.pa size then .error .uncorrectable else .ok l

/-- R78, R84: the effective address of a word that accesses memory. -/
def State.seqTarget (s : State) (i : Instr) : Option Nat :=
  match i with
  | .ldb _ a off => some (s.seqAddr a off)
  | .ldh _ a off => some (s.seqAddr a off)
  | .ldw _ a off => some (s.seqAddr a off)
  | .ldd _ a off => some (s.seqAddr a off)
  | .stb _ a off => some (s.seqAddr a off)
  | .sth _ a off => some (s.seqAddr a off)
  | .stw _ a off => some (s.seqAddr a off)
  | .std _ a off => some (s.seqAddr a off)
  | .ldp _ a off => some (s.seqAddr a off)
  | .stp _ a off => some (s.seqAddr a off)
  | .clrp a off => some (s.seqAddr a off)
  | .amadd _ a _ => some (s.reg a).toNat
  | .amswp _ a _ => some (s.reg a).toNat
  | .amcas _ a _ => some (s.reg a).toNat
  | .ammax _ a _ => some (s.reg a).toNat
  | _ => none

/-- R286, R327: a word of the acting sequencer that is still to make its access waits while its page is to be walked and a row is held. -/
def State.seqWalks (s : State) (i : Instr) : Bool :=
  s.self.awaits.isNone && (s.seqTarget i).any (s.walkWaits (.seq s.site.strand) (dieOf s.self.lead) s.self.job)

/-- A request of the acting sequencer. -/
def State.seqReq (s : State) (l : Leaf) (va size : Nat) (kind : ReqKind) (data : Nat) (dest : Dest) : Req :=
  let t := s.self
  { id := s.fresh, agent := .seq s.site.strand, kind, home := l.pa, size, data := BitVec.ofNat 512 data, va,
    die := dieOf t.lead, panel := t.lead, job := t.job, policy := l.policy, regionKind := l.kind, key := l.key, dest }

/-- R80: a sequencer access that does not hold the sequencer: performed at once, or issued with its register owed. -/
def State.seqAccess (va size : Nat) (f : AccForm) (write : Bool) (kind : ReqKind) (data : Nat) (expect : Word)
    (d : Option Reg) (s : State) : Out :=
  match s.seqCheck va size f write with
  | .error e => .next (s.raiseAcc e va)
  | .ok l =>
    let dest : Dest := match d with | some r => .reg s.site.strand r.toNat | none => .none
    let r : Req := { s.seqReq l va size kind data dest with expect }
    let s1 := s.cacheLeaf (.seq s.site.strand) (dieOf s.self.lead) s.self.job va
    if s.prompt then
      match s1.performNow r with
      | (s2, .value v) =>
        .next (match d with | some r => s2.setReg r (BitVec.ofNat 64 v) | none => s2).advance
      | (_, _) => .next s.wait
    else
      .next (((s1.issue r).updSelf (fun t => match d with
        | some r => { t with owedRegs := t.owedRegs ++ [r.toNat] }
        | none => t)).advance)

/-- R79: a load of `size` bytes, zero-extended. -/
def State.load (d a : Reg) (off : BitVec 16) (size : Nat) (s : State) : Out :=
  s.seqAccess (s.seqAddr a off) size .load false .read 0 0 (some d)

/-- R79: a store of the low `size` bytes of a register. -/
def State.store (v a : Reg) (off : BitVec 16) (size : Nat) (s : State) : Out :=
  s.seqAccess (s.seqAddr a off) size .store true .write (s.reg v).toNat 0 none

/-- R79, R80 -/
def execLdb (d a : Reg) (off : BitVec 16) (s : State) : Out := s.load d a off 1
/-- R79, R80 -/
def execLdh (d a : Reg) (off : BitVec 16) (s : State) : Out := s.load d a off 2
/-- R79, R80 -/
def execLdw (d a : Reg) (off : BitVec 16) (s : State) : Out := s.load d a off 4
/-- R79, R80 -/
def execLdd (d a : Reg) (off : BitVec 16) (s : State) : Out := s.load d a off 8
/-- R79, R80 -/
def execStb (v a : Reg) (off : BitVec 16) (s : State) : Out := s.store v a off 1
/-- R79, R80 -/
def execSth (v a : Reg) (off : BitVec 16) (s : State) : Out := s.store v a off 2
/-- R79, R80 -/
def execStw (v a : Reg) (off : BitVec 16) (s : State) : Out := s.store v a off 4
/-- R79, R80 -/
def execStd (v a : Reg) (off : BitVec 16) (s : State) : Out := s.store v a off 8

/-- R84: an atomic on the 8-byte word at `x[xa]`. -/
def State.atomic (d a b : Reg) (op : AmoOp) (s : State) : Out :=
  s.seqAccess (s.reg a).toNat 8 .atomic true (.amo op) (s.reg b).toNat (s.reg d) (some d)

/-- R84 -/
def execAmadd (d a b : Reg) (s : State) : Out := s.atomic d a b .add64
/-- R84 -/
def execAmswp (d a b : Reg) (s : State) : Out := s.atomic d a b .swp64
/-- R84: `x[xd]` is read before it is overwritten. -/
def execAmcas (d a b : Reg) (s : State) : Out := s.atomic d a b .cas64
/-- R84 -/
def execAmmax (d a b : Reg) (s : State) : Out := s.atomic d a b .max64

/-- R83: `CLRP`. -/
def execClrp (a : Reg) (off : BitVec 16) (s : State) : Out :=
  s.seqAccess (s.seqAddr a off) 8 .presence true .clrp 0 0 none

/-- R220: whether the deferral table of a request's home is full. -/
def State.deferralFull (s : State) (r : Req) : Bool :=
  decide (Config.deferralEntries ≤
    (s.reqs.filter (fun q => q.stage == .deferred && s.homeBank q == s.homeBank r)).length)

/-- The sequencer waits for the answer of a request just issued. -/
def State.awaitReq (r : Req) (stage : Stage) (s : State) : State :=
  ((s.issue { r with stage }).updSelf (fun t => { t with awaits := some r.id, answer := none })).wait

/-- The awaited answer is taken. -/
def State.clearAwait (s : State) : State := s.updSelf (fun t => { t with awaits := none, answer := none })

/-- R81: `LDP`. The deferred read stands in the word's deferral set while the sequencer waits. -/
def execLdp (d a : Reg) (off : BitVec 16) (s : State) : Out :=
  let va := s.seqAddr a off
  match s.self.awaits, s.self.answer with
  | some _, some (_, v) => .next ((s.clearAwait.setReg d v).acquire 3).advance
  | some _, none => .next s.wait
  | none, _ =>
    match s.seqCheck va 8 .presence false with
    | .error e => .next (s.raiseAcc e va)
    | .ok l =>
      let r := s.seqReq l va 8 .syncRead 0 (.await s.site.strand)
      if s.prompt then
        if s.earlier r || s.homeHeld r then .next s.wait
        else if s.isFull l.pa then .next ((s.setReg d (BitVec.ofNat 64 (s.peekKey l.key l.pa 8))).acquire 3).advance
        else .next (s.awaitReq r (if s.deferralFull r then .home else .deferred))
      else .next (s.awaitReq r .issued)

/-- R82: `STP`, a release at package scope; it retires when its home has performed or refused it. -/
def execStp (v a : Reg) (off : BitVec 16) (s : State) : Out :=
  let va := s.seqAddr a off
  match s.self.awaits, s.self.answer with
  | some _, some (ok, _) => if ok then .next s.clearAwait.advance else .next (s.clearAwait.raiseAcc .presence va)
  | some _, none => .next s.wait
  | none, _ =>
    match s.seqCheck va 8 .presence true with
    | .error e => .next (s.raiseAcc e va)
    | .ok l =>
      if !(s.performedAt (.seq s.site.strand) 3) then .next s.wait
      else
        let r := s.seqReq l va 8 .stp (s.reg v).toNat (.await s.site.strand)
        if s.prompt then
          match s.performNow r with
          | (s1, .value _) => .next s1.advance
          | (_, .refused _) => .next (s.raiseAcc .presence va)
          | (_, .wait) => .next s.wait
        else .next (s.awaitReq r .issued)

/-- R85, R39: the sequencer's fetch lines discarded. A line of the job that AGEs have filled and no fetch has used stays for the AGEs, and fetch finds
it no more. -/
def State.fenceLines (panel job : Nat) (s : State) : State :=
  { s with streamLines := (s.streamLines.filter (fun l => !(l.fetch && l.panel == panel && l.job == job))).map (fun l =>
      if l.panel = panel ∧ l.job = job then { l with fenced := true } else l) }

/-- R85: `FENCE` holds what follows until earlier writes are performed at the scope and earlier loads have returned, and
discards the sequencer's fetch lines. -/
def execFence (scope : Scope) (s : State) : Out :=
  let a : Agent := .seq s.site.strand
  if s.performedAt a scope.code && s.readsReturned a then .next (s.fenceLines s.self.lead s.self.job).advance
  else .next s.wait

end Sys2Proof.Machine
end

