-- ==== Sys2Proof/Machine/Sync.lean ====
section
/-!
DEFINITION. Hardware queues, weights and barriers at the sequencer (R299-R306, R359-R365, R369-R377).
-/

namespace Sys2Proof.Machine

/-- R301: whether a panel lies within a scope (0 panel, 1 cluster, 2 die, 3 package) of a home. -/
def withinScope (scope homeDie homePanel homeCluster panel : Nat) : Bool :=
  match scope with
  | 0 => panel == homeDie * 128 + homePanel
  | 1 => dieOf panel == homeDie && clusterOf panel == homeCluster
  | 2 => dieOf panel == homeDie
  | _ => true

/-- R301: whether an agent of a job, with a lead panel, is within the scope of queue q. -/
def State.queueReaches (s : State) (q job panel : Nat) : Bool :=
  let d := s.queue q
  d.job == job && withinScope d.scope (q / 256) d.homePanel (d.homePanel % 8) panel

/-- R299: the home address of an entry of a queue's ring, within its job's window of the home die (R208). -/
def State.ringAddr (s : State) (q k : Nat) : Nat :=
  let d := s.queue q
  let w := (s.windows.look 0 (q / 256 * 64 + d.job)).toNat
  chipHome (q / 256) + 65536 * (w % 2^10) + 16 * (d.ringBase + k)

/-- R299: the virtual address of an entry of a queue's spill ring. -/
def Queue.spillEntry (d : Queue) (k : Nat) : Nat := d.spillVa.toNat + 16 * k

/-- R300: a message: payload, and the weight given with the root it is held under. -/
def message (payload : Word) (wt : Option (Nat × Nat)) : Nat :=
  payload.toNat + (match wt with | some (e, r) => (e + 64) * 2^64 + r * 2^71 | none => 0)

/-- R300: whether a message carries weight. -/
def msgWeighted (m : Nat) : Bool := bitsAt m 70 1 == 1
/-- R300, R369: the weight that a message carries, in the format of `w`. -/
def msgWeight (m : Nat) : BitVec 64 := if msgWeighted m then BitVec.ofNat 64 (2^(63 - bitsAt m 64 6)) else 0
/-- R300: the root that a message names. -/
def msgRoot (m : Nat) : Nat := bitsAt m 71 10

/-- R303, R305: whether a queue has room for a push; behind spilled messages only the spill ring has. -/
def Queue.hasRoom (d : Queue) : Bool := (d.spillCount == 0 && decide (d.count < d.depth)) || decide (d.spillCount < d.spillCap)

/-- A message appended to the ring of a queue. -/
def State.appendRing (q m : Nat) (s : State) : State :=
  let d := s.queue q
  (s.poke (s.ringAddr q ((d.head + d.count) % d.depth)) 16 m).setQueue q { d with count := d.count + 1 }

/-- R305: while the ring has room the home moves the oldest spilled message to its tail; one that cannot be read stays. -/
def State.refill (q : Nat) (s : State) : State :=
  let d := s.queue q
  if d.spillCount ≠ 0 ∧ d.count < d.depth then
    let va := d.spillEntry d.spillHead
    match s.checkVirt (.die (q / 256)) (q / 256) d.job va 16 .load false with
    | .error _ => s
    | .ok l =>
      let m := bitsAt ((s.underKey l.key l.pa 16).lineSeen (q / 256) (l.pa / 128)).toNat (8 * (l.pa % 128)) 128
      (s.appendRing q m).setQueue q { (s.appendRing q m).queue q with
        spillCount := d.spillCount - 1, spillHead := (d.spillHead + 1) % d.spillCap, spillHomes := d.spillHomes.drop 1 }
  else s

/-- R303, R305: a message appended to the ring, or to the spill ring, after the refill that is due; a spill write that fails its checks appends
nothing. -/
def State.append (q m : Nat) (s0 : State) : Except (AccErr × Nat) State :=
  let s := s0.refill q
  let d := s.queue q
  if d.spillCount = 0 ∧ d.count < d.depth then .ok (s.appendRing q m)
  else
    let va := d.spillEntry ((d.spillHead + d.spillCount) % d.spillCap)
    match s.checkVirt (.die (q / 256)) (q / 256) d.job va 16 .store true with
    | .error e => .error (e, va)
    | .ok l => .ok (((s.claim l.pa).pokeKey l.key l.pa 16 m).setQueue q { d with
        spillCount := d.spillCount + 1, spillHomes := d.spillHomes ++ [l.tag] })

/-- R303, R305, R286: a queue cannot take a message now: no room is left after the refill that is due, or a bank row is held while its spill ring
is in use. -/
def State.queueFull (s : State) (q : Nat) : Bool :=
  !((s.refill q).queue q).hasRoom || (s.rowHeld && (s.queue q).spillCap != 0)

/-- The oldest message in the ring. -/
def State.oldest (s : State) (q : Nat) : Nat := s.peek (s.ringAddr q (s.queue q).head) 16

/-- R304, R305: the oldest message removed, and room refilled. -/
def State.popRing (q : Nat) (s : State) : State :=
  let d := s.queue q
  (s.setQueue q { d with head := (d.head + 1) % d.depth, count := d.count - 1 }).refill q

/-- R301, R302: whether a queue form of the acting strand passes its checks. -/
def State.queueOk (s : State) (v : Word) (classes : List Nat) (pop : Bool) : Bool :=
  let q := v.toNat
  let d := s.queue q
  decide (q < 2^10) && d.valid && s.queueReaches q s.self.job s.self.lead && classes.contains d.cls &&
  !(pop && d.bound.isSome)

/-- R96: a protection fault, class 6, with the address field given: a queue's number (R301) or a barrier's handle (R360). A fault of `QROOT`, `WRET`,
`WAITQ`, `QCHK` or `YIELD` has no address; the root's number that stands there then is a DESIGN CHOICE (log 17). -/
def State.protect (addr : Nat) (s : State) : State := s.raise 6 0 s.selfWord addr

/-- R303: a push of the acting sequencer. -/
def State.push (a b : Reg) (weighted : Bool) (classes : List Nat) (s : State) : Out :=
  let q := (s.reg a).toNat
  let t := s.self
  if !(s.queueOk (s.reg a) classes false) then .next (s.protect q)
  else if s.queueFull q then .next s.wait
  else if weighted && t.w == 0 then .next (s.protect q)
  else if !(s.performedAt (.seq s.site.strand) (s.queue q).scope) then .next s.wait
  else
    let g := if weighted then give t.w else none
    let wt := g.map (fun x => (x.1, t.proot.toNat))
    match s.append q (message (s.reg b) wt) with
    | .error (e, va) => .next (s.raiseAcc e va)
    | .ok s1 =>
      match g with
      | none => .next s1.advance
      | some (_, w, borrow) =>
        let s2 := if borrow then s1.borrowFrom t.proot.toNat else s1
        .next (s2.updSelf (fun t => { t with w := w })).advance

/-- R302, R303 -/
def execQpush (a b : Reg) (s : State) : Out := s.push a b false [0, 2]
/-- R302, R303 -/
def execQpushWt (a b : Reg) (s : State) : Out := s.push a b true [0, 1]
/-- R302, R303 -/
def execSpawn (a b : Reg) (s : State) : Out := s.push a b true [1]

/-- R304: the oldest message of a queue that holds one, taken by the acting sequencer. -/
def State.takeMessage (d : Reg) (q : Nat) (s : State) : Out :=
  let m := s.oldest q
  if msgWeighted m && msgRoot m != s.self.proot.toNat then .next (s.protect q)
  else
    let s1 := (s.popRing q).setReg d (BitVec.ofNat 64 m)
    .next ((s1.updSelf (fun t => { t with w := t.w + msgWeight m })).acquire (s.queue q).scope).advance

/-- R304: `QPOP` waits for a message. -/
def execQpop (d a : Reg) (s : State) : Out :=
  let q := (s.reg a).toNat
  if !(s.queueOk (s.reg a) [0, 1, 2] true) then .next (s.protect q)
  else if s.rowHeld && (s.queue q).spillCount != 0 then .next s.wait
  else
    let s1 := s.refill q
    if (s1.queue q).count = 0 then .next s1.wait else s1.takeMessage d q

/-- R304: `QTRY` writes all ones when the queue is empty. -/
def execQtry (d a : Reg) (s : State) : Out :=
  let q := (s.reg a).toNat
  if !(s.queueOk (s.reg a) [0, 1, 2] true) then .next (s.protect q)
  else if s.rowHeld && (s.queue q).spillCount != 0 then .next s.wait
  else
    let s1 := s.refill q
    if (s1.queue q).count = 0 then .next (s1.setReg d (BitVec.allOnes 64)).advance else s1.takeMessage d q

-- weights ---------------------------------------------------------------------------------------

/-- R374: `QROOT`. -/
def execQroot (d : Reg) (s : State) : Out :=
  let t := s.self
  if Config.rootStackDepth ≤ t.stack.length then .next (s.protect t.proot.toNat)
  else
    match s.freeRoot (dieOf t.lead) with
    | none => .next s.wait
    | some r =>
      let s1 := s.setRoot r { expected := BitVec.ofNat 96 (2^64), kind := 2, job := t.job, parent := t.proot }
      let s2 := s1.updSelf (fun t => { t with
        stack := (t.proot, t.w) :: t.stack, proot := BitVec.ofNat 10 r, w := BitVec.ofNat 64 (2^63) })
      .next (s2.setReg d (BitVec.ofNat 64 r)).advance

/-- R375: `WRET`, a release at package scope. -/
def execWret (a : Reg) (s : State) : Out :=
  let t := s.self
  let v := s.reg a
  if t.w.ult v then .next (s.protect t.proot.toNat)
  else if !(s.performedAt (.seq s.site.strand) 3) then .next s.wait
  else .next ((s.updSelf (fun t => { t with w := t.w - v })).returnTo t.proot.toNat v).advance

/-- R376: `WAITQ`: its return of w is a release; passing is an acquire at package scope. -/
def execWaitq (a : Reg) (s : State) : Out :=
  let t := s.self
  let r := t.proot.toNat
  if (s.reg a).toNat ≠ r ∨ (s.root r).kind ≠ 2 then .next (s.protect (s.reg a).toNat)
  else if !(s.performedAt (.seq s.site.strand) 3) then .next s.wait
  else
    let s1 := (s.updSelf (fun t => { t with w := 0 })).returnTo r t.w
    if s1.rootQuiet r then
      let s2 := s1.setRoot r {}
      .next ((s2.updSelf (fun t => match t.stack with
        | (p, w) :: rest => { t with proot := p, w := w, stack := rest }
        | [] => t)).acquire 3).advance
    else .next (s1.setRoot r { s1.root r with waiter := true }).wait

/-- R377: `QCHK`. -/
def execQchk (d a : Reg) (s : State) : Out :=
  let r := (s.reg a).toNat
  let x := s.root r
  if 2^10 ≤ r ∨ x.kind = 0 ∨ x.job ≠ s.self.job then .next (s.protect r)
  else
    let diff := (x.expected - x.returned).toNat
    let v : Word := if 2^65 ≤ diff then BitVec.allOnes 64 else BitVec.ofNat 64 (diff / 2)
    .next ((s.setReg d v).acquire 3).advance

-- barriers --------------------------------------------------------------------------------------

/-- R359: the barrier that a handle names: die × 128 + index. -/
def handleBarrier (h : Word) : Nat := bitsAt h.toNat 7 2 * 128 + bitsAt h.toNat 0 7

/-- R360: whether the acting strand is within a barrier's scope. -/
def State.barrierReaches (s : State) (b : Nat) : Bool :=
  let x := s.barrier b
  x.job == s.self.job && withinScope x.scope (b / 128) x.home (clusterOf x.home) s.self.lead

/-- R360: whether a handle names a valid barrier that the acting strand may use. -/
def State.barrierOk (s : State) (h : Word) : Bool :=
  let b := handleBarrier h
  decide (h.toNat < 2^10) && (s.barrier b).valid && s.barrierReaches b

/-- R361: a phase has begun: an arrival or a byte stands in it. -/
def Barrier.midPhase (b : Barrier) : Bool := b.outstanding != b.n || b.pending != 0

/-- R361: `BARI` claims, resets or frees a barrier. -/
def execBari (a b : Reg) (s : State) : Out :=
  let h := s.reg a
  let v := (s.reg b).toNat
  let k := handleBarrier h
  let x := s.barrier k
  let n := bitsAt v 0 16
  let sc := bitsAt v 16 3
  let t := s.self
  if 2^10 ≤ h.toNat ∨ 2^19 ≤ v ∨ 3 < sc ∨ (x.valid ∧ !(s.barrierReaches k)) then .next (s.protect h.toNat)
  else if n = 0 then
    if !x.valid || x.midPhase || !x.waiting.isEmpty then .next (s.protect h.toNat)
    else .next (s.setBarrier k { x with valid := false }).advance
  else if (x.valid && x.midPhase) || (k / 128 != dieOf t.lead && decide (sc < 2)) then .next (s.protect h.toNat)
  else
    .next (s.setBarrier k { x with
      valid := true, job := t.job, scope := sc, home := t.lead % 128, n := n, outstanding := n, pending := 0
      phase := x.valid && x.phase, issuer := some s.site.strand }).advance

/-- R362, R363: one arrival, with bytes added to the pending count, applied indivisibly. It is sent once the sequencer's earlier writes are performed
at the barrier's scope, and what it finds there decides whether it is taken. -/
def State.arrive (h : Word) (bytes : Nat) (s : State) : Out :=
  let k := handleBarrier h
  let x := s.barrier k
  if !(s.barrierOk h) || decide (2^47 ≤ bytes) then .next (s.protect h.toNat)
  else if !(s.performedAt (.seq s.site.strand) x.scope) then .next s.wait
  else if x.outstanding = 0 then .next (s.protect h.toNat)
  else
    let x1 : Barrier := { x with outstanding := x.outstanding - 1, pending := x.pending + BitVec.ofNat 48 bytes }
    .next (s.setBarrier k x1.settle).advance

/-- R362 -/
def execBara (a : Reg) (s : State) : Out := s.arrive (s.reg a) 0
/-- R362 -/
def execBarx (a b : Reg) (s : State) : Out := s.arrive (s.reg a) (s.reg b).toNat

/-- R364: `BARW` waits for the phase bit to differ from P; while it waits it is among the barrier's waiters (R360). Passing is an acquire. -/
def execBarw (a : Reg) (s : State) : Out :=
  let h := s.reg a
  let k := handleBarrier h
  let x := s.barrier k
  if !(s.barrierOk h) then .next (s.protect h.toNat)
  else if x.phase != (bitsAt h.toNat 9 1 == 1) then
    .next ((s.setBarrier k { x with waiting := x.waiting.filter (fun j => j != s.site.strand) }).acquire x.scope).advance
  else .next (s.setBarrier k { x with
    waiting := if x.waiting.contains s.site.strand then x.waiting else s.site.strand :: x.waiting }).wait

end Sys2Proof.Machine
end

