-- ==== Sys2Proof/Machine/Loader.lean ====
section
/-!
DEFINITION. The loader: configuration records and images (R21, R51-R56), the checks of R87 with their causes (R26, R131,
R157, R178, R293-R295, R320-R323, R328, R353), the load, `GO`, and the drain condition (R86).
-/

namespace Sys2Proof.Machine

-- reading virtual memory --------------------------------------------------------------------------

/-- R312: a byte of the home with the sectors that a die point has sent there and the home has not applied yet. -/
def State.homeByte (s : State) (die pa : Nat) : Byte :=
  ((s.reqs.filter (fun r => r.stage == .home && r.isSector && r.die == die && decide (r.home ≤ pa) && decide (pa < r.home + r.size) &&
      r.mask.getLsbD (pa - r.home))).getLast?).elim (memGet s.mem pa) (fun r => BitVec.ofNat 8 (bitsAt r.data.toNat (8 * (pa - r.home)) 8))

/-- The byte of a physical address as agents of a die see it: the die point's copy, else the home's. -/
def State.seenByte (s : State) (die pa : Nat) : Byte :=
  match s.dieLine die (pa / 128) with
  | some d => if d.holds (pa % 128 / 64) then BitVec.ofNat 8 (bitsAt d.data.toNat (8 * (pa % 128)) 8) else s.homeByte die pa
  | none => s.homeByte die pa

/-- n bytes as agents of a die see them. -/
def State.seenBytes (s : State) (die pa : Nat) : Nat → List Byte
  | 0 => []
  | n + 1 => s.seenByte die pa :: s.seenBytes die (pa + 1) n

/-- The number in n bytes as agents of a die see them. -/
def State.seen (s : State) (die pa n : Nat) : Nat := ofBytes (s.seenBytes die pa n)

/-- R78: bytes of a job's virtual memory, read page by page; `fuel` bounds the pages. The error names the first address
that fails. -/
def State.readVirt (s : State) (own : TlbOwner) (die job : Nat) : Nat → Nat → Nat → Except (AccErr × Nat) (List Byte)
  | 0, _, _ => .ok []
  | fuel + 1, va, n =>
    if n = 0 then .ok []
    else
      let k := Nat.min n (65536 - va % 65536)
      match s.checkVirt own die job va 1 .load false with
      | .error e => .error (e, va)
      | .ok l =>
        if s.isBad l.pa k then .error (.uncorrectable, va)
        else
          match s.readVirt own die job fuel (va + k) (n - k) with
          | .error e => .error e
          | .ok r => .ok ((s.underKey l.key l.pa k).seenBytes die l.pa k ++ r)

/-- R78: the number in n bytes of a job's virtual memory. -/
def State.readVirtNat (s : State) (own : TlbOwner) (die job va n : Nat) : Except (AccErr × Nat) Nat :=
  match s.readVirt own die job (n / 65536 + 2) va n with
  | .error e => .error e
  | .ok l => .ok (ofBytes l)

-- records and images ------------------------------------------------------------------------------

/-- R21: a configuration record. -/
structure ConfigRecord where
  image : Nat
  script : Nat
  width : Nat
  height : Nat
  next : Nat
  reserved : Bool
  deriving DecidableEq, Repr

/-- R21: the fields of a record's 32 bytes. -/
def recordOf (v : Nat) : ConfigRecord :=
  { image := bitsAt v 0 60, script := bitsAt v 64 32, width := bitsAt v 96 4 + 1, height := bitsAt v 100 3 + 1
    next := bitsAt v 128 60
    reserved := bitsAt v 60 4 + bitsAt v 103 25 + bitsAt v 188 68 != 0 }

/-- R51, R52: what an ECW says; slots that are absent are kept as they stand. -/
structure Ecw where
  raw : Nat
  kind : Nat
  fmt : Nat
  mask : Nat
  fretOn : Bool
  fretActive : Bool
  shape : Nat
  narrow : Bool
  rates : Nat
  depths : Nat
  first : Nat
  count : Nat
  reserved : Nat
  deriving DecidableEq, Repr

/-- R52: the header of an ECW. -/
def ecwOf (v : Nat) : Ecw :=
  { raw := v, kind := bitsAt v 256 4, fmt := bitsAt v 260 8, mask := bitsAt v 268 4, fretOn := bitsAt v 272 1 == 1
    fretActive := bitsAt v 273 1 == 1, shape := bitsAt v 274 3, narrow := bitsAt v 277 1 == 1
    rates := bitsAt v 278 64, depths := bitsAt v 342 24, first := bitsAt v 366 8, count := bitsAt v 374 4
    reserved := bitsAt v 378 6 }

/-- Whether an element has a configuration (R51). -/
def Ecw.present (w : Ecw) : Bool := w.raw != 0
/-- R52: whether slot n is present. -/
def Ecw.has (w : Ecw) (n : Nat) : Bool := w.mask / 2^n % 2 == 1
/-- R51: slot n's word. -/
def Ecw.slotWord (w : Ecw) (n : Nat) : Nat := bitsAt w.raw (64 * n) 64
/-- R51: route entry m. -/
def Ecw.route (w : Ecw) (m : Nat) : Nat := bitsAt w.raw (384 + 32 * m) 32
/-- R52: the rate code of a port; outputs count from 8. -/
def Ecw.rate (w : Ecw) (p : Nat) : Nat := bitsAt w.rates (4 * p) 4
/-- R52: the depth code of an input. -/
def Ecw.depthCode (w : Ecw) (p : Nat) : Nat := bitsAt w.depths (3 * p) 3

/-- The opcode and fields of a slot word that decodes. -/
def slotDecoded (v : Nat) : Option (Nat × Slot) :=
  match decodeSlot v with
  | .ok i => i.slotCode
  | .error _ => none

/-- The present slots of an ECW that decode, with their numbers. -/
def Ecw.slotList (w : Ecw) : List (Nat × Nat × Slot) :=
  (List.range 4).filterMap (fun n => if w.has n then (slotDecoded (w.slotWord n)).map (fun x => (n, x.1, x.2)) else none)

-- cause 4: the rules of one element ---------------------------------------------------------------

/-- R53: whether a format code is allowed on a kind. -/
def formatAllowed (fmt : Nat) (k : Kind) : Bool :=
  fmt == 0 ||
  (k == .ce && ((decide (1 ≤ fmt) && decide (fmt ≤ 6)) || fmt == 0x10 || fmt == 0x11)) ||
  ((k == .ce || k == .mxe) && (fmt == 0x12 || fmt == 0x13 || fmt == 0x14 ||
    (decide (0x20 ≤ fmt) && decide (fmt ≤ 0x24)) || (decide (0x30 ≤ fmt) && decide (fmt ≤ 0x34))))

/-- R50: whether an opcode is accepted on a kind. -/
def codeAllowed (code : Nat) (k : Kind) : Bool :=
  match k with
  | .ce => code < 0x60 || (decide (0x70 ≤ code) && decide (code ≤ 0x72))
  | .mxe => code == 0x50 || code == 0x51 || (decide (0x60 ≤ code) && decide (code ≤ 0x72))
  | .se => code == 0x46 || code == 0x47 || code == 0x48 || code == 0x49 || code == 0x4B ||
      (decide (0x70 ≤ code) && decide (code ≤ 0x72))
  | .age => decide (0x70 ≤ code) && decide (code ≤ 0x80)

/-- R131, R178, R335: whether a form accepts the element's format. -/
def formAccepts (code fmt : Nat) : Bool :=
  let flt := decide (0x10 ≤ fmt) && decide (fmt ≤ 0x14)
  let int := decide (1 ≤ fmt) && decide (fmt ≤ 6)
  let blk := decide (0x20 ≤ fmt)
  if code = 0x1A ∨ code = 0x1B ∨ code = 0x1C then fmt == 0x10
  else if code = 0x1D then flt && fmt != 0x13 && fmt != 0x14
  else if 0x10 ≤ code ∧ code ≤ 0x1C then flt
  else if code = 0x26 ∨ code = 0x27 ∨ code = 0x28 ∨ code = 0x2F ∨ code = 0x30 then flt || int
  else if 0x20 ≤ code ∧ code ≤ 0x2E then int
  else if code = 0x31 ∨ code = 0x32 then blk
  else if code = 0x33 then fmt == 0x10 || fmt == 0x11 || fmt == 0x12
  else if 0x38 ≤ code ∧ code ≤ 0x3B then flt || int
  else if 0x60 ≤ code ∧ code ≤ 0x64 then blk || fmt == 0x12 || fmt == 0x13 || fmt == 0x14
  else if code = 0x80 then fmt == 0
  else true

/-- R127, R128, R131, R175: whether the fret shape matches what a slot under XI expands. -/
def shapeMatches (code fmt shape : Nat) (sl : Slot) : Bool :=
  if pairMode code sl ∨ code = 0x4A then shape == 0
  else
    let f := if code = 0x30 then sl.imm.toNat else if code = 0x31 then 0x10 else fmt
    if f = 0x10 then shape == 0 || shape == 1
    else if f = 0x12 then shape == 2
    else if f = 0x11 then shape == 3
    else if f = 0x13 ∨ f = 0x14 then shape == 4
    else false

/-- R142: tokens consumed and emitted by a `CVT` firing. -/
def cvtRatio (src dst : Nat) : Nat × Nat :=
  let ns := 512 / fmtBits src
  let nd := 512 / fmtBits dst
  (nd / Nat.gcd ns nd, ns / Nat.gcd ns nd)

/-- R48-R50, R56, R126-R131, R145, R157, R158, R162: the rules of a present slot that depend on its element. -/
def slotFits (w : Ecw) (k : Kind) (code : Nat) (sl : Slot) : Bool :=
  let os := slotOperands code sl
  let fp8 := w.fmt == 0x13 || w.fmt == 0x14
  codeAllowed code k && formAccepts code w.fmt &&
  os.all (fun o => (o != 8 || k == .ce || k == .mxe) && (o != 10 || k == .ce)) &&
  (!pairMode code sl || w.fmt == 3 || w.fmt == 4 || w.fmt == 0x10) &&
  (!((namesImm code sl || code == 0x70) && code != 0x46 && fp8) || decide (sl.imm.toNat < 256)) &&
  (!slotXi sl || (w.fretOn && shapeMatches code w.fmt w.shape sl)) &&
  (code != 0x53 || (w.fretOn && shapeMatches code w.fmt w.shape sl)) &&
  (sl.tw == 0 || ((k == .ce || k == .mxe) && (code != 0x30 || (cvtRatio sl.imm.toNat w.fmt).2 == 1) &&
    (code != 0x33 || sl.outmask.cpop.toNat == 1))) &&
  (code != 0x33 || (decide (2^sl.imm.toNat ≤ 512 / fmtBits w.fmt) &&
    sl.outmask.cpop.toNat == (if 2^sl.imm.toNat = 512 / fmtBits w.fmt then 2 else 1))) &&
  (code != 0x4B || k == .ce || sl.imm == 0x8000)

/-- R157, R178: the rules that tie slots of one element together. -/
def slotsPair (l : List (Nat × Nat × Slot)) : Bool :=
  l.all (fun a => a.2.1 != 0x4A || l.any (fun d => d.2.1 == 0x4B && d.2.2.imm.toNat < 0x8000 && d.2.2.in0 == a.2.2.in0 &&
    d.2.2.imm.toNat % 4096 == a.2.2.imm.toNat % 4096)) &&
  -- the pair of a product names exactly its channels, in the same order; no two MRD name the same channels
  l.all (fun a => (a.2.1 != 0x60 && a.2.1 != 0x61) || l.any (fun d => d.2.1 == 0x63 &&
    matrixChannels d.2.1 d.2.2 == matrixChannels a.2.1 a.2.2)) &&
  l.all (fun a => a.2.1 != 0x63 || (l.filter (fun d => d.2.1 == 0x63 &&
    slotChannels d.2.1 d.2.2 == slotChannels a.2.1 a.2.2)).length == 1)

-- routes --------------------------------------------------------------------------------------------

/-- R54: the turns of an entry, turn 0 first. -/
def turnsOf (e : Nat) : List Nat := (List.range 12).map (fun j => bitsAt e (2 * j) 2)

/-- R353: whether the link out of an element of a page set in a heading is retired. Headings: 0 east, 1 south, 2 west, 3 north;
the map's bits are north, east, south, west. -/
def State.linkRetired (s : State) (t : Strand) (x y h : Nat) : Bool :=
  let p := t.panelAt (y / 8 * t.width + x / 8)
  let m := (s.retired.look 0 p).toNat
  (s.panels.look {} p).state == 3 || m / 2^(4 * (8 * (y % 8) + x % 8) + (h + 1) % 4) % 2 == 1

/-- R11, R353: a walk of turns from a position; the element of the set where `take` stands, and whether a retired link was
crossed. Turns after `take` must be zero (R54); a string without `take`, or that leaves the page set, gives none. -/
def State.walkTurns (s : State) (t : Strand) : List Nat → Nat → Nat → Nat → Bool → Option (Nat × Bool)
  | [], _, _, _, _ => none
  | u :: r, x, y, h, bad =>
    match u with
    | 0 =>
      let bad := bad || s.linkRetired t x y h
      if h = 0 then (if x + 1 < 8 * t.width then s.walkTurns t r (x + 1) y h bad else none)
      else if h = 1 then (if y + 1 < 8 * t.height then s.walkTurns t r x (y + 1) h bad else none)
      else if h = 2 then (if x = 0 then none else s.walkTurns t r (x - 1) y h bad)
      else (if y = 0 then none else s.walkTurns t r x (y - 1) h bad)
    | 1 => s.walkTurns t r x y ((h + 3) % 4) bad
    | 2 => s.walkTurns t r x y ((h + 1) % 4) bad
    | _ => if r.all (fun v => v == 0) then some (64 * (y / 8 * t.width + x / 8) + 8 * (y % 8) + x % 8, bad) else none

/-- The column of an element of the set, counted over the whole set. -/
def Strand.colOf (t : Strand) (i : Nat) : Nat := 8 * (i / 64 % t.width) + i % 8
/-- The row of an element of the set, counted over the whole set. -/
def Strand.rowOf (t : Strand) (i : Nat) : Nat := 8 * (i / 64 / t.width) + i % 64 / 8

/-- R353: the string of n turns and a `take` with the least turn field that reaches an element without a retired link. The
last turns weigh most, so they are chosen first. -/
def State.leastString (s : State) (t : Strand) (src dst : Nat) : Nat → List Nat → Option (List Nat)
  | 0, suffix =>
    match s.walkTurns t suffix (t.colOf src) (t.rowOf src) 0 false with
    | some (e, false) => if e = dst then some suffix else none
    | _ => none
  | n + 1, suffix =>
    [0, 1, 2].findSome? (fun u => s.leastString t src dst n (u :: suffix))

/-- R353: the shortest replacement string of at most 12 turns. -/
def State.replaceRoute (s : State) (t : Strand) (src dst : Nat) : Option (List Nat) :=
  (List.range 12).findSome? (fun n => s.leastString t src dst n [3])

/-- The turn field of a string. -/
def packTurns : List Nat → Nat
  | [] => 0
  | u :: r => u + 4 * packTurns r

/-- R11, R54, R353: where a valid route entry of element i of the set ends, with the turns that the load keeps. -/
def State.routeEnd (s : State) (t : Strand) (i e : Nat) : Option (Nat × Nat) :=
  match s.walkTurns t (turnsOf e) (t.colOf i) (t.rowOf i) 0 false with
  | none => none
  | some (d, false) => some (d, bitsAt e 0 24)
  | some (d, true) => (s.replaceRoute t i d).map (fun l => (d, packTurns l))

/-- R54: an entry is well formed: all zero, or valid with its reserved bit clear. -/
def routeFormed (e : Nat) : Bool := e == 0 || (bitsAt e 31 1 == 1 && bitsAt e 30 1 == 0)
/-- R54: a valid entry. -/
def routeValid (e : Nat) : Bool := bitsAt e 31 1 == 1
/-- R54: an entry's source output. -/
def routeSrc (e : Nat) : Nat := bitsAt e 27 3
/-- R54: an entry's destination input. -/
def routeDst (e : Nat) : Nat := bitsAt e 24 3

/-- An edge of the channel graph: source element and port, destination element and port, by their numbers in the set, the
route entry, and the turns kept. -/
structure Edge where
  src : Nat
  port : Nat
  dst : Nat
  dport : Nat
  entry : Nat
  turns : Nat
  deriving DecidableEq, Repr

/-- The edges of element i of the set; none where a string is refused. -/
def State.edgesOf (s : State) (t : Strand) (i : Nat) (w : Ecw) : Option (List Edge) :=
  (List.range 4).foldl (fun acc m =>
    match acc with
    | none => none
    | some l =>
      let e := w.route m
      if routeValid e then
        match s.routeEnd t i e with
        | none => none
        | some (d, turns) =>
          some (l ++ [{ src := i, port := routeSrc e, dst := d, dport := routeDst e, entry := m, turns }])
      else some l) (some [])

/-- R56: the rules of one element of the set, but for its routes' ends and its range entries. -/
def ecwOk (i : Nat) (w : Ecw) : Bool :=
  let k := kindAt (i % 64)
  let sl := w.slotList
  let outs := (List.range 8).filter (fun p => sl.any (fun x => x.2.2.outmask.getLsbD p))
  let routed := ((List.range 4).map w.route).filter routeValid |>.map routeSrc
  !w.present ||
  (w.kind == k.code && formatAllowed w.fmt k && decide (w.shape ≤ 4) && w.reserved == 0 &&
   (List.range 8).all (fun p => decide (w.depthCode p ≤ 5)) &&
   (k == .ce || k == .mxe || bitsAt w.raw 272 6 == 0) &&
   (k == .age || (w.first == 0 && w.count == 0)) &&
   (List.range 4).all (fun n =>
     if w.has n then (match slotDecoded (w.slotWord n) with
       | some (code, x) => slotFits w k code x
       | none => false)
     else w.slotWord n == 0) &&
   slotsPair sl &&
   -- R53: format none on a CE or MXE holds only sparse-control, tile or misc slots
   (w.fmt != 0 || sl.all (fun x => decide (0x40 ≤ x.2.1) && !(decide (0x60 ≤ x.2.1) && decide (x.2.1 ≤ 0x64)))) &&
   (List.range 4).all (fun m => routeFormed (w.route m)) &&
   outs.all (fun p => routed.contains p) &&
   (k == .age || routed.all (fun p => outs.contains p)))

-- range and done entries ----------------------------------------------------------------------------

/-- R55, R320: an entry with neither read nor write is a done entry. -/
def rangeIsDone (v : Nat) : Bool := bitsAt v 60 2 == 0
/-- R55: base of a range. -/
def rangeBase (v : Nat) : Nat := bitsAt v 0 60
/-- R55: length of a range. -/
def rangeLen (v : Nat) : Nat := bitsAt v 64 64
/-- R55: whether a range is written. -/
def rangeWrites (v : Nat) : Bool := bitsAt v 61 1 == 1
/-- R55: whether a range carries `RACY`. -/
def rangeRacy (v : Nat) : Bool := bitsAt v 62 1 == 1

/-- R320: the part that a done entry names, 0 for the source's own page set. -/
def donePart (v : Nat) : Nat := bitsAt v 13 3

/-- R55, R320, R323: a range-table entry of a set is one that the loader accepts; `panels` gives the number of panels of a part's page
set, none where no such part is known. -/
def rangeOk (panels : Nat → Option Nat) (v : Nat) : Bool :=
  if rangeIsDone v then
    decide (v < 2^16) && decide (bitsAt v 10 3 ≤ 4) && (match panels (donePart v) with | some n => decide (bitsAt v 0 7 < n) | none => false)
  else bitsAt v 63 1 == 0 && decide (1 ≤ rangeLen v) && decide (rangeLen v ≤ 2^60 - rangeBase v)

/-- A done edge: source and target AGE by their numbers in the set, and the scope. -/
structure DoneEdge where
  src : Nat
  dst : Nat
  scope : Nat
  deriving DecidableEq, Repr

/-- R320: the done edge of an entry of AGE i. -/
def doneEdgeOf (i v : Nat) : DoneEdge :=
  { src := i, dst := 64 * bitsAt v 0 7 + 8 * bitsAt v 7 3 + 7, scope := bitsAt v 10 3 }

/-- One round of taking away the nodes that no edge enters. -/
def peelOnce (l : List (Nat × Nat)) : List (Nat × Nat) := l.filter (fun e => l.any (fun d => d.2 == e.1))

/-- A directed graph given by its edges holds a cycle: what is left after removing, over and over, edges whose source no edge
enters. -/
def cyclic (l : List (Nat × Nat)) : Bool :=
  !((List.range l.length).foldl (fun m _ => peelOnce m) l).isEmpty

/-- The nodes reached from a list of nodes along edges, after `fuel` rounds. -/
def reachFrom (l : List (Nat × Nat)) : Nat → List Nat → List Nat
  | 0, seen => seen
  | f + 1, seen =>
    reachFrom l f (l.foldl (fun a e => if a.contains e.1 && !a.contains e.2 then e.2 :: a else a) seen)

/-- Whether a path of edges leads from one node to another. -/
def reaches (l : List (Nat × Nat)) (a b : Nat) : Bool := (reachFrom l l.length [a]).contains b

-- cause 5: rates --------------------------------------------------------------------------------------

/-- R52, R294: a port's tokens in a data firing: a fixed count, or any count up to a bound. -/
structure Rate where
  variable_ : Bool
  n : Nat
  deriving DecidableEq, Repr

/-- R52: a declared rate; code 0 declares the port unused. -/
def rateOf (code : Nat) : Option Rate :=
  if code = 0 then none
  else if 8 ≤ code then some { variable_ := true, n := 2^(code % 8) }
  else some { variable_ := false, n := code }

/-- R142: a rate above 7 can only be declared variable with bound 8. -/
def fixedRate (n : Nat) : Rate := if n ≤ 7 then { variable_ := false, n := n } else { variable_ := true, n := n }

/-- R294, R295: what a form consumes from the operand field k (0-2), and what it emits on an output, in one data firing. -/
def formRates (code fmt : Nat) (sl : Slot) : (Nat → Rate) × Rate :=
  let one : Rate := { variable_ := false, n := 1 }
  let none_ : Rate := { variable_ := false, n := 0 }
  let upTo (n : Nat) : Rate := { variable_ := true, n := n }
  let i := sl.imm.toNat
  if code = 0x30 then (fun _ => fixedRate (cvtRatio i fmt).1, fixedRate (cvtRatio i fmt).2)
  else if code = 0x31 then (fun _ => fixedRate 6, one)
  else if code = 0x32 then (fun _ => one, fixedRate (if i % 4 = 0 then 6 else 3))
  else if (0x38 ≤ code ∧ code ≤ 0x3A ∧ i % 2 = 1) ∨ code = 0x43 ∨ code = 0x45 then (fun _ => one, upTo 2)
  else if code = 0x40 ∨ code = 0x49 then (fun _ => upTo 1, upTo 1)
  -- R148: every data firing of UNION emits on each of its outputs
  else if code = 0x41 then (fun _ => upTo 1, one)
  -- R158: a drain of an accumulator emits one pair and consumes no DATA; in stream mode DATA is consumed and none emitted
  else if code = 0x4B then (if i < 2^15 then (fun _ => none_, one) else (fun _ => one, none_))
  -- R153: with one output every data firing writes it
  else if code = 0x46 then (fun _ => one, if sl.outmask.cpop.toNat = 1 then one else upTo 1)
  -- R159: a data firing of TLDI emits nothing
  else if code = 0x50 then (fun _ => one, none_)
  else if code = 0x42 then (fun _ => one, upTo 1)
  else if code = 0x47 then (fun k => if k = 2 then one else upTo 1, upTo 1)
  else if code = 0x48 then (fun _ => one, fixedRate (i % 8 + 1))
  else if code = 0x60 ∨ code = 0x61 then (fun k => if k = 1 then one else upTo 1, one)
  else if code = 0x63 then (fun _ => upTo 1, upTo 2)
  else (fun _ => one, one)

/-- The ports of a slot with the rates of its form, each port once; outputs count from 8. -/
def slotPorts (code fmt : Nat) (sl : Slot) : List (Nat × Rate) :=
  let r := formRates code fmt sl
  let u := slotUses code sl
  let ins := (if u.1 then [(sl.in0, r.1 0)] else []) ++ (if u.2.1 then [(sl.in1, r.1 1)] else []) ++
    (if u.2.2 then [(sl.in2, r.1 2)] else [])
  let chans := ins.filterMap (fun x => if x.1.toNat < 8 then some (x.1.toNat, x.2) else none)
  chans.foldl (fun l x => if l.any (fun y => y.1 == x.1) then l else l ++ [x]) [] ++
    (maskPorts sl.outmask).map (fun p => (8 + p, r.2))

/-- R294: the rates that an element's slots give a port. -/
def Ecw.formsAt (w : Ecw) (p : Nat) : List Rate :=
  w.slotList.flatMap (fun x => (slotPorts x.2.1 w.fmt x.2.2).filterMap (fun y => if y.1 = p then some y.2 else none))

/-- R294: the rate of a port that the checks use. -/
def Ecw.portRate (w : Ecw) (p : Nat) : Rate :=
  match w.formsAt p with
  | [] => (rateOf (w.rate p)).getD { variable_ := false, n := 0 }
  | [_] => (rateOf (w.rate p)).getD { variable_ := false, n := 0 }
  | l => { variable_ := true, n := l.foldl (fun m r => Nat.max m r.n) 0 }

/-- R294, R295 step 1: a declaration agrees with the forms of the slots that use the port. -/
def Ecw.formMatch (w : Ecw) (p : Nat) : Bool :=
  match w.formsAt p, rateOf (w.rate p) with
  | [], _ => true
  | _, none => false
  | [r], some d => if d.variable_ then decide (r.n ≤ d.n) else !r.variable_ && d.n == r.n
  | l, some d => decide (l.foldl (fun m r => Nat.max m r.n) 0 ≤ d.n)

/-- R295 step 2: one round of giving each element its q as a ratio, along edges with one end known. -/
def spreadOnce (l : List (Nat × Nat × Nat × Nat)) (q : Tab (Nat × Nat)) : Tab (Nat × Nat) :=
  l.foldl (fun (q : Tab (Nat × Nat)) e =>
    let (a, p, b, c) := e
    if Tab.has q a && !Tab.has q b then q.put b ((q.look (0, 1) a).1 * p, (q.look (0, 1) a).2 * c)
    else if Tab.has q b && !Tab.has q a then q.put a ((q.look (0, 1) b).1 * c, (q.look (0, 1) b).2 * p)
    else q) q

/-- R295 step 2: the fixed edges (source, p, destination, c) allow positive integers q with q(source)·p = q(destination)·c. -/
def balanced (l : List (Nat × Nat × Nat × Nat)) : Bool :=
  let q : Tab (Nat × Nat) := l.foldl (fun (q : Tab (Nat × Nat)) e =>
    if Tab.has q e.1 then q else (List.range l.length).foldl (fun q _ => spreadOnce l q) (Tab.put q e.1 (1, 1))) []
  l.all (fun e =>
    let (a, p, b, c) := e
    let qa := Tab.look (0, 1) q a
    let qb := Tab.look (0, 1) q b
    qa.1 * p * qb.2 == qb.1 * c * qa.2)

/-- The directed paths out of a node, as the edges they take (by index) and the node they end at; `fuel` bounds their length. -/
def pathsFrom (l : List (Nat × Nat × Nat)) : Nat → Nat → List (List Nat × Nat)
  | 0, _ => []
  | f + 1, a =>
    (l.filter (fun e => e.2.1 == a)).flatMap (fun e =>
      ([e.1], e.2.2) :: (pathsFrom l f e.2.2).map (fun p => (e.1 :: p.1, p.2)))

/-- R295 step 5: two paths that share no edge lead from one element to another, and an edge of either has a variable port. -/
def reconverges (l : List (Nat × Nat × Nat)) (vary : Nat → Bool) : Bool :=
  (l.map (fun e => e.2.1)).eraseDups.any (fun a =>
    let ps := pathsFrom l l.length a
    ps.any (fun p => ps.any (fun q =>
      p.2 == q.2 && p.1.all (fun e => !q.1.contains e) && (p.1.any vary || q.1.any vary))))

/-- R293: elastic slots that the image asks for in panel k of the set. -/
def elasticOf (ws : List Ecw) (k : Nat) : Nat :=
  (((ws.drop (64 * k)).take 64).map (fun w =>
    if w.present then ((List.range 8).map (fun i => 2^(w.depthCode i + 1) - 2)).sum else 0)).sum

/-- R293-R295: the rate check. -/
def ratesOk (ws : List Ecw) (n : Nat) (edges : List Edge) : Bool :=
  let at_ (i : Nat) : Ecw := ws.getD i (ecwOf 0)
  let ends (e : Edge) : Rate × Rate := ((at_ e.src).portRate (8 + e.port), (at_ e.dst).portRate e.dport)
  let vary (e : Edge) : Bool := (ends e).1.variable_ || (ends e).2.variable_
  let idx := (List.range edges.length).zip edges
  let fixed := edges.filterMap (fun e =>
    if vary e then none else some (e.src, (ends e).1.n, e.dst, (ends e).2.n))
  let graph := edges.map (fun e => (e.src, e.dst))
  (List.range n).all (fun k => decide (elasticOf ws k ≤ 1024)) &&
  ws.all (fun w => (List.range 16).all w.formMatch) &&
  balanced fixed &&
  edges.all (fun e =>
    let (p, c) := ((ends e).1.n, (ends e).2.n)
    let need := if vary e then p + c - 1 else p + c - Nat.gcd p c
    decide (need ≤ 2^((at_ e.dst).depthCode e.dport + 1))) &&
  !cyclic graph &&
  !reconverges (idx.map (fun x => (x.1, x.2.src, x.2.dst)))
    (fun j => match edges[j]? with | some e => vary e | none => false)

-- causes 6 and 7 ------------------------------------------------------------------------------------

/-- Whether a predicate holds of n numbers from a up. -/
def allFrom (f : Nat → Bool) : Nat → Nat → Bool
  | _, 0 => true
  | a, n + 1 => f a && allFrom f (a + 1) n

/-- R333: the frame of the level-4 table that covers an address, if the upper levels lead to one. -/
def State.lastTable (s : State) (va : Nat) : Nat → Nat → Option Nat
  | 0, frame => some frame
  | fuel + 1, frame =>
    let e := s.peekKey 0 (frame * 65536 + walkIndex (3 - fuel) va * 8) 8
    if pteOk (3 - fuel) e && bitsAt e 1 1 == 0 then s.lastTable va fuel (bitsAt e 18 36) else none

/-- R416: the entry of a page of a lazy section: its level-4 entry is not valid, is set otherwise as a writable PLAIN
page's with key index 0 and policy 0, and names no frame yet (log 92). -/
def State.lazyLeaf (s : State) (job va : Nat) : Option Nat :=
  let r := (s.roots64.look 0 job).toNat
  match (if bitsAt r 36 1 = 1 then s.lastTable va 3 (bitsAt r 0 36) else none) with
  | some frame =>
    let e := s.peekKey 0 (frame * 65536 + walkIndex 4 va * 8) 8
    if bitsAt e 0 15 == 16386 && bitsAt e 16 48 == 0 then some e else none
  | none => none

/-- R328 step 2: whether some page of a range is PLAIN in the job's page table; a lazy page's entry gives its kind
(R416). -/
def State.plainIn (s : State) (job lo hi : Nat) : Bool :=
  !allFrom (fun p => match s.walk job (p * 65536) with
    | some (e, _) => bitsAt e 2 2 != 0
    | none => match s.lazyLeaf job (p * 65536) with
      | some e => bitsAt e 2 2 != 0
      | none => true) (lo / 65536) ((hi - 1) / 65536 + 1 - lo / 65536)

/-- R328: no two range entries of different AGEs race. -/
def State.racesOk (s : State) (job : Nat) (ranges : List (Nat × Nat)) (done : List DoneEdge) : Bool :=
  let d := done.map (fun e => (e.src, e.dst))
  ranges.all (fun a => ranges.all (fun b =>
    let lo := Nat.max (rangeBase a.2) (rangeBase b.2)
    let hi := Nat.min (rangeBase a.2 + rangeLen a.2) (rangeBase b.2 + rangeLen b.2)
    decide (b.1 ≤ a.1) || !(rangeWrites a.2 || rangeWrites b.2) || decide (hi ≤ lo) || rangeRacy a.2 || rangeRacy b.2 ||
    reaches d a.1 b.1 || reaches d b.1 a.1 || !(s.plainIn job lo hi)))

/-- R26: every declared range is mapped with the access it names; a lazy page counts as readable and writable (R416). -/
def State.rightsOk (s : State) (job : Nat) (ranges : List (Nat × Nat)) : Bool :=
  ranges.all (fun r =>
    let lo := rangeBase r.2 / 65536
    allFrom (fun p => match s.walk job (p * 65536) with
      | some (e, _) => !(rangeWrites r.2) || bitsAt e 14 1 == 1
      | none => (s.lazyLeaf job (p * 65536)).isSome) lo ((rangeBase r.2 + rangeLen r.2 - 1) / 65536 + 1 - lo))

-- the whole check -----------------------------------------------------------------------------------

/-- Why a load is refused: the record or image cannot be read, or a configuration fault with its cause (R87). -/
inductive LoadErr where
  | access (e : AccErr) (va : Nat)
  | cause (n : Nat)
  deriving DecidableEq, Repr

/-- What an accepted load carries out. -/
structure LoadPlan where
  record : ConfigRecord
  ecws : List Ecw
  edges : List Edge
  /-- memory ranges by AGE of the set -/
  ranges : List (Nat × Nat)
  done : List DoneEdge
  /-- done entries to other parts, by AGE of the set -/
  far : List (Nat × Nat)
  deriving DecidableEq, Repr

/-- The 64-byte words of a list of bytes. -/
def wordsOf64 : Nat → List Byte → List Nat
  | 0, _ => []
  | n + 1, l => ofBytes (l.take 64) :: wordsOf64 n (l.drop 64)

/-- The range-table entries that the AGEs of an image name: the AGE's number in the set, and the entry's index. -/
def rangeNames (ws : List Ecw) : List (Nat × Nat) :=
  ((List.range ws.length).zip ws).flatMap (fun x =>
    if x.2.present && x.2.kind == 3 then (List.range x.2.count).map (fun j => (x.1, x.2.first + j)) else [])

/-- What an image that obeys the image rules holds: its channel edges, the memory ranges by AGE of the set, its done edges within the set,
and by AGE the done entries that name another part. -/
structure ImageView where
  edges : List Edge
  ranges : List (Nat × Nat)
  done : List DoneEdge
  far : List (Nat × Nat)
  deriving DecidableEq, Repr

/-- The parts that the loader knows. -/
def State.partList (s : State) : List Part := (s.parts.map (·.2)).filter (fun p => p.group != 0)

/-- R27: the part of a cut graph that a strand is. -/
def State.partOf (s : State) (t : Strand) : Option Part :=
  s.partList.find? (fun p => p.away == 0 && p.job == t.job && p.node == t.node && p.replica == t.replica.toNat)

/-- The strand on the fabric that is a part. -/
def State.partStrand (s : State) (p : Part) : Option Nat :=
  if p.away = 0 then
    (s.strands.find? (fun t => t.2.onFabric && t.2.job == p.job && t.2.node == p.node && t.2.replica.toNat == p.replica)).map (·.1)
  else none

/-- R320, R323: the panels of the page set of another part of a strand's graph; 128 while that part is not placed, when the entry is
checked again as the parts are joined. -/
def State.partPanels (s : State) (t : Strand) (number : Nat) : Option Nat :=
  match s.partOf t with
  | none => none
  | some me =>
    (s.partList.find? (fun p => p.group == me.group && p.number == number)).map (fun p =>
      match s.partStrand p with
      | some k => (s.strand k).width * (s.strand k).height
      | none => 128)

/-- R56, R131, R157, R178, R323: the image rules, cause 4. -/
def State.imageCheck (s : State) (t : Strand) (ws : List Ecw) (table : List Nat) : Option ImageView :=
  let idx := (List.range ws.length).zip ws
  let names := rangeNames ws
  if !(idx.all (fun x => ecwOk x.1 x.2)) || names.any (fun x => decide (table.length ≤ x.2)) then none
  else
    let entries := names.map (fun x => (x.1, table.getD x.2 0))
    match idx.foldl (fun acc x => match acc with
        | none => none
        | some l => (s.edgesOf t x.1 x.2).map (fun m => l ++ m)) (some []) with
    | none => none
    | some edges =>
      let at_ (i : Nat) : Ecw := ws.getD i (ecwOf 0)
      let ends := entries.filter (fun x => rangeIsDone x.2)
      let done := (ends.filter (fun x => donePart x.2 == 0)).map (fun x => doneEdgeOf x.1 x.2)
      let far := (ends.filter (fun x => donePart x.2 != 0)).map (fun x => (x.1, x.2 % 2^16))
      if entries.all (fun x => rangeOk (fun p => if p = 0 then some (t.width * t.height) else s.partPanels t p) x.2) &&
          edges.all (fun e => (at_ e.src).rate (8 + e.port) != 0 && (at_ e.dst).present && (at_ e.dst).rate e.dport != 0) &&
          done.all (fun e => decide ((done.filter (fun d => d.dst == e.dst)).length ≤ 8)) &&
          !cyclic (done.map (fun e => (e.src, e.dst))) then
        some { edges, ranges := entries.filter (fun x => !rangeIsDone x.2), done, far }
      else none

/-- R87 step 2: the record at A and its image, read and checked for the page set of a strand, the checks in order; `joins` says whether the
plan suits the other parts of a cut graph (R323), `races` whether its ranges are ordered (R328). -/
def State.planOf (s : State) (joins races : LoadPlan → Bool) (k a : Nat) : Except LoadErr LoadPlan :=
  let t := s.strand k
  let own : TlbOwner := .seq k
  let die := dieOf t.lead
  let n := t.width * t.height
  match s.readVirtNat own die t.job a 32 with
  | .error (e, va) => .error (.access e va)
  | .ok v =>
    let r := recordOf v
    let m := r.width * r.height
    match s.readVirt own die t.job (4096 * m / 65536 + 2) r.image (4096 * m) with
    | .error (e, va) => .error (.access e va)
    | .ok bytes =>
      let ws := (wordsOf64 (64 * m) bytes).map ecwOf
      -- R51: the range table lies between the last ECW and the script
      let room := (r.script - 4096 * m) / 16
      let want := (rangeNames ws).foldl (fun w x => Nat.max w (x.2 + 1)) 0
      let len := Nat.min room want
      match s.readVirt own die t.job (16 * len / 65536 + 2) (r.image + 4096 * m) (16 * len) with
      | .error (e, va) => .error (.access e va)
      | .ok tb =>
        let table := (List.range len).map (fun j => ofBytes ((tb.drop (16 * j)).take 16))
        if a % 32 ≠ 0 ∨ r.image % 64 ≠ 0 then .error (.cause 1)
        else if r.reserved ∨ r.script % 4 ≠ 0 then .error (.cause 2)
        else if r.width ≠ t.width ∨ r.height ≠ t.height then .error (.cause 3)
        else
          match s.imageCheck t ws table with
          | none => .error (.cause 4)
          | some v =>
            let plan : LoadPlan := { record := r, ecws := ws, edges := v.edges, ranges := v.ranges, done := v.done, far := v.far }
            if !(joins plan) then .error (.cause 4)
            else if !(ratesOk ws n v.edges) then .error (.cause 5)
            else if !(races plan) then .error (.cause 6)
            else if !(s.rightsOk t.job v.ranges) then .error (.cause 7)
            else .ok plan

-- the load --------------------------------------------------------------------------------------------

/-- R87: the element after a load: its ECW taken, channels and counters at their start, storage kept. -/
def loadElem (t : Strand) (p : LoadPlan) (i : Nat) (w : Ecw) (old : Elem) : Elem :=
  let key (j : Nat) : Nat := t.panelAt (j / 64) * 64 + j % 64
  { old with
    configured := w.present, kind := kindAt (i % 64), fmt := w.fmt, slotMask := w.mask,
    slots := (List.range 4).filterMap (fun n => if w.has n then some (n, BitVec.ofNat 64 (w.slotWord n)) else none),
    fretOn := w.fretOn, fretShape := w.shape, fretNarrow := w.narrow
    rates := BitVec.ofNat 64 w.rates, depths := BitVec.ofNat 24 w.depths
    ranges := (p.ranges.filter (fun x => x.1 == i)).map (fun x => { raw := BitVec.ofNat 128 x.2 })
    routes := (p.edges.filter (fun e => e.src == i)).map (fun e => (e.entry, {
      turns := BitVec.ofNat 24 e.turns, srcPort := e.port, dstElem := key e.dst, dstPort := e.dport
      dstDepth := 2^((p.ecws.getD e.dst (ecwOf 0)).depthCode e.dport + 1) }))
    chans := [], slotSt := [], active := w.fretActive, go := false
    age := { old.age with
      places := [], ports := []
      doneFar := (p.far.filter (fun x => x.1 == i)).map (·.2)
      doneIn := ((List.range p.done.length).zip (p.done.filter (fun d => d.dst == i))).map (fun x =>
          (x.1, { valid := true, srcPanel := x.2.src / 64, srcRow := x.2.src % 64 / 8, scope := x.2.scope, count := 0 })) ++
        ((List.range old.age.doneIn.length).zip (old.age.doneIn.filter (fun d => d.2.part != 0))).map (fun x =>
          ((p.done.filter (fun d => d.dst == i)).length + x.1, { x.2.2 with count := 0 })),
      doneOut := (((List.range p.done.length).zip p.done).filter (fun x => x.2.src == i)).map (fun x =>
        { target := key x.2.dst
          index := ((p.done.take x.1).filter (fun e => e.dst == x.2.dst)).length }) } }

/-- R87: the elements of the set take their ECWs, one after another. -/
def State.loadElems (t : Strand) (p : LoadPlan) : List (Nat × Ecw) → State → State
  | [], s => s
  | (i, w) :: r, s => State.loadElems t p r (s.updElem (t.panelAt (i / 64) * 64 + i % 64) (loadElem t p i w))

/-- R168: the directory check of every MXE of the set, entries that hold a word. -/
def State.recheck (s : State) : List Nat → State
  | [] => s
  | e :: r =>
    if kindAt (e % 64) = .mxe then
      (s.checkEntries e ((List.range 64).filter (fun i => s.peek (entryAddr e i) 8 != 0))).recheck r
    else s.recheck r

-- the parts of a cut graph ----------------------------------------------------------------------------

/-- R27: the strands on the fabric that are parts of a group, with their numbers. -/
def State.members (s : State) (g : Nat) : List (Nat × Nat) :=
  s.partList.filterMap (fun p => if p.group = g then (s.partStrand p).map (fun k => (p.number, k)) else none)

/-- R389: a package that has acknowledged its part belongs to the same package group, under an index of its own. -/
def State.agrees (s : State) (p : Part) : Bool := p.away == 2 && p.pgroup == s.packageGroup && p.pindex != s.packageIndex

/-- R27, R389: every part of a group has its configuration loaded: it stands on the fabric with it, or has stood there since its launch began (R88), or
is acknowledged by its package. -/
def State.groupLoaded (s : State) (g : Nat) : Bool :=
  s.partList.all (fun p => p.group != g || s.agrees p ||
    (p.away == 0 && (match s.partStrand p with
      | some k => (s.strand k).run != .placed
      | none => decide (p.replica < ((s.job p.job).launches.look {} p.node).nextReplica))))

/-- The key under which an element of another package stands (log 87). -/
def outside : Nat := 32768

/-- A done edge between two parts: the source AGE with its part, its place in its set, the target AGE, and the scope. -/
structure FarEdge where
  src : Nat
  part : Nat
  panel : Nat
  row : Nat
  dst : Nat
  scope : Nat
  deriving DecidableEq, Repr

/-- R320: the done edges between the parts of a group in this package; none where an entry names a place outside the part's set
(R323). Those that lead to another package are joined on its side too (log 87). -/
def State.farEdges (s : State) (g : Nat) : Option (List FarEdge) :=
  let ms := s.members g
  let away (v : Nat) : Bool := s.partList.any (fun p => p.group == g && p.number == donePart v && p.away != 0)
  let all := ms.flatMap (fun m =>
    (s.strand m.2).elems.flatMap (fun e => ((s.elem e).age.doneFar.filter (fun v => !away v)).map (fun v =>
      match ms.find? (fun d => d.1 == donePart v) with
      | some d =>
        let t := s.strand d.2
        if bitsAt v 0 7 < t.width * t.height then
          some { src := e, part := m.1, panel := ((s.strand m.2).offsetOf (panelOf e)).getD 0, row := e % 64 / 8
                 dst := t.ageAt (bitsAt v 0 7) (bitsAt v 7 3), scope := bitsAt v 10 3 }
        else none
      | none => none)))
  if all.all Option.isSome then some (all.filterMap id) else none

/-- R321: the incoming registers of an AGE with the edges from other parts behind those of its own set and of other packages; an edge that stood already
keeps its count. -/
def farIn (away : Nat → Bool) (old : Tab DoneIn) (l : List FarEdge) : Tab DoneIn :=
  let own := old.filter (fun d => d.2.part == 0 || away d.2.part)
  own ++ l.zipIdx.map (fun x =>
    let was := (old.find? (fun d => d.2.part == x.1.part && d.2.srcPanel == x.1.panel && d.2.srcRow == x.1.row && d.2.scope == x.1.scope)).map (·.2.count)
    (own.length + x.2, { valid := true, srcPanel := x.1.panel, srcRow := x.1.row, scope := x.1.scope, part := x.1.part, count := was.getD 0 }))

/-- R320-R323: the done edges of a group joined; none where an AGE would have more than eight incoming edges, or the edges of the parts
together hold a cycle. -/
def State.joinDone (g : Nat) (s : State) : Option State :=
  match s.farEdges g with
  | none => none
  | some l =>
    let es := (s.members g).flatMap (fun m => (s.strand m.2).elems.filter (fun e => kindAt (e % 64) == .age))
    let out (n : Nat) : Bool := s.partList.any (fun p => p.group == g && p.number == n && p.away != 0)
    let own (e : Nat) : List DoneOut := (s.elem e).age.doneOut.filter (fun o => !o.far)
    let beyond (e : Nat) : List DoneOut := ((s.elem e).age.doneFar.filter (fun v => out (donePart v))).map (fun v =>
      ((s.elem e).age.doneOut.find? (fun o => o.away && o.target == v)).getD { target := v, far := true, away := true })
    let s1 := es.foldl (fun (s : State) e => s.updAge e (fun a =>
      { a with
        doneIn := farIn out a.doneIn (l.filter (fun x => x.dst == e))
        doneOut := own e ++ beyond e ++ (l.filter (fun x => x.src == e)).map (fun x =>
          { target := x.dst, far := true, index := ((s.elem x.dst).age.doneIn.filter (fun d => d.2.part == 0 || out d.2.part)).length +
              ((l.filter (fun y => y.dst == x.dst)).idxOf? x).getD 0 }) })) s
    if es.all (fun e => decide ((s1.elem e).age.doneIn.length ≤ 8)) &&
        !cyclic (es.flatMap (fun e => ((s1.elem e).age.doneOut.filter (fun o => !o.away)).map (fun o => (e, o.target)))) then some s1
    else none

/-- R310: a link virtual channel among the routes of its source: made where it is new, else with its tokens and its window as they are. -/
def Elem.joinLink (c srcPort dst dstPort depth : Nat) (e : Elem) : Elem :=
  { e with routes := e.routes.put (4 + c) { (e.routes.look {} (4 + c) : Route) with
      srcPort, dstElem := dst, dstPort, dstDepth := depth, link := some c } }

/-- R310: the cut edges of a group as channels: a route entry of the source element with the depth of the destination input; the tokens that
stand in that input fall to their source again. An edge from another package has its tokens on the link at a key of its own (log 87). -/
def State.joinCuts (g : Nat) (s : State) : State :=
  let ms := s.members g
  let at_ (k i : Nat) : Nat := (s.strand k).panelAt (i / 64) * 64 + i % 64
  s.cuts.foldl (fun (s : State) x =>
    let c := x.2
    match ms.find? (fun m => m.1 == c.srcPart) with
    | some a =>
      if c.group ≠ g then s
      else
        let src := at_ a.2 c.srcElem
        match ms.find? (fun m => m.1 == c.dstPart) with
        | some b =>
          let d := at_ b.2 c.dstElem
          (s.updElem src (Elem.joinLink x.1 c.srcPort d c.dstPort (2^(bitsAt (s.elem d).depths.toNat (3 * c.dstPort) 3 + 1)))).updElem d
            (fun e => { e with chans := e.chans.map (fun (q : Nat × List InTok) =>
              (q.1, q.2.map (fun t => if t.entry = 4 + x.1 then { t with src } else t))) })
        | none => s.updElem src (Elem.joinLink x.1 c.srcPort outside c.dstPort c.depth)
    | none =>
      match ms.find? (fun m => m.1 == c.dstPart) with
      | some b =>
        let d := at_ b.2 c.dstElem
        if c.group ≠ g then s
        else
          s.updElem (outside + x.1)
            (Elem.joinLink x.1 0 d c.dstPort (2^(bitsAt (s.elem d).depths.toNat (3 * c.dstPort) 3 + 1)))
      | none => s) s

/-- R310: the dies that a channel's two ends stand on, by the parts' strands. -/
def State.cutDies (s : State) (c : Cut) : List Nat :=
  let die (n : Nat) : Option Nat := ((s.members c.group).find? (fun m => m.1 == n)).map (fun m => dieOf (s.strand m.2).lead)
  (die c.srcPart).toList ++ (die c.dstPart).toList

/-- R310: a fabric die terminates at most 512 link virtual channels, and a link carries at most 256 in each direction: outward those whose
source stands in this package, inward the others. -/
def State.cutsFit (s : State) : Bool :=
  let cuts := (s.cuts.map (·.2)).filter (fun c => c.group != 0)
  (List.range Config.dies).all (fun d => decide ((cuts.flatMap (fun c => (s.cutDies c).filter (fun x => x == d))).length ≤ 512)) &&
  (List.range 16).all (fun l =>
    let on := cuts.filter (fun c => c.link == some l && !(s.members c.group).isEmpty)
    let out := on.filter (fun c => (s.members c.group).any (fun m => m.1 == c.srcPart))
    decide (out.length ≤ 256) && decide (on.length - out.length ≤ 256))

/-- R328: the ranges of each part of a group, whose done edges are joined, are ordered among themselves; a path of edges may lead through the AGEs of
other parts. -/
def State.partRaces (s : State) (g : Nat) : Bool :=
  let ms := s.members g
  let ages := ms.flatMap (fun m => (s.strand m.2).elems.filter (fun e => kindAt (e % 64) == .age))
  let edges : List DoneEdge := ages.flatMap (fun e => ((s.elem e).age.doneOut.filter (fun o => !o.away)).map (fun o => { src := e, dst := o.target, scope := 0 }))
  ms.all (fun m =>
    let es := (s.strand m.2).elems
    s.racesOk (s.strand m.2).job (es.flatMap (fun e => (s.elem e).ranges.map (fun r => (e, r.raw.toNat)))) edges)

/-- R27, R310, R320, R328: the parts of a group joined once all are loaded; none where the whole launch is refused. -/
def State.joinParts (g : Nat) (s : State) : Option State :=
  if s.cutsFit then (s.joinDone g).bind (fun s1 => if s1.partRaces g then some (s1.joinCuts g) else none) else none

/-- R27, R320: a set that loads again while its graph runs joins the other parts again; an entry that no part holds leaves the edges
as the set's own. -/
def State.rejoin (k : Nat) (s : State) : State :=
  match s.partOf (s.strand k) with
  | none => s
  | some p => if s.groupLoaded p.group then (s.joinParts p.group).getD s else s

/-- R87 step 3: an accepted image loaded on a strand's set, with `cpc` at its record. -/
def State.loadImage (k a : Nat) (p : LoadPlan) (s : State) : State :=
  let t := s.strand k
  let s1 := State.loadElems t p ((List.range p.ecws.length).zip p.ecws) s
  ((s1.recheck t.elems).updStrand k (fun t => { t with cpc := BitVec.ofNat 60 a })).rejoin k

/-- R320, R323: whether a plan's done edges and channels suit the other parts of its graph; a set that is no part has none. -/
def State.joins (s : State) (k a : Nat) (p : LoadPlan) : Bool :=
  match s.partOf (s.strand k) with
  | none => true
  | some q => !(s.groupLoaded q.group) || ((s.loadImage k a p).cutsFit && ((s.loadImage k a p).joinDone q.group).isSome)

/-- R328: the ranges of a plan are ordered; those of a part, whose ordering paths may lead through other parts, as the parts are joined. -/
def State.ordered (s : State) (k a : Nat) (p : LoadPlan) : Bool :=
  match s.partOf (s.strand k) with
  | none => s.racesOk (s.strand k).job p.ranges p.done
  | some q => !(s.groupLoaded q.group) || (match (s.loadImage k a p).joinDone q.group with | some s1 => s1.partRaces q.group | none => true)

/-- R87 step 2: the load that the record at A asks for, checked, or why it is refused. -/
def State.loadCheck (s : State) (k a : Nat) : Except LoadErr LoadPlan := s.planOf (s.joins k a) (s.ordered k a) k a

/-- R88: `GO` to every configured element of the set that has not received it. -/
def State.sendGo (k : Nat) (s : State) : State :=
  (s.strand k).elems.foldl (fun s e => s.updElem e (fun x => if x.configured then { x with go := true } else x)) s

/-- R86: the current configuration of a strand's set is drained. -/
def State.drained (s : State) (k : Nat) : Bool :=
  let es := (s.strand k).elems
  es.all (fun e =>
    let x := s.elem e
    x.chans.all (fun c => c.2.isEmpty) && x.age.ports.isEmpty && x.routes.all (fun r => r.2.flight.isEmpty) && x.age.queue.isEmpty &&
    x.age.places.all (fun p => !p.2.active) && x.age.spills.isEmpty) &&
  !(s.elems.any (fun x => x.2.routes.any (fun r => r.2.link.isSome && !r.2.flight.isEmpty && es.contains r.2.dstElem))) &&
  !(s.reqs.any (fun r => r.writes && (match r.agent.ageOf with | some e => es.contains e | none => false))) &&
  !(s.templates.any (fun t => t.2.firing && es.contains t.2.age))

end Sys2Proof.Machine
end

