-- ==== Sys2Proof/Machine/Lifecycle.lean ====
section
/-!
DEFINITION. How a strand ends: weight returned (R95, R378), queues emptied (R306), page sets freed (R95, R222), completion
counted (R366), and cancel of a strand (R18).
-/

namespace Sys2Proof.Machine

-- messages ----------------------------------------------------------------------------------------

/-- The messages in a queue's ring, oldest first. -/
def State.ringMsgs (s : State) (q : Nat) : List Nat :=
  (List.range (s.queue q).count).map (fun k => s.peek (s.ringAddr q (((s.queue q).head + k) % (s.queue q).depth)) 16)

/-- Where the k-th spilled message of a queue stands, as a tagged address; one whose page no translation reaches stands where it was written. -/
def State.spillAt (s : State) (q k : Nat) : Nat :=
  let d := s.queue q
  match s.checkVirt (.die (q / 256)) (q / 256) d.job (d.spillEntry ((d.spillHead + k) % d.spillCap)) 16 .load false with
  | .ok l => l.tag
  | .error _ => d.spillHomes.getD k 0

/-- The spilled messages of a queue, oldest first. -/
def State.spillMsgs (s : State) (q : Nat) : List Nat :=
  (List.range (s.queue q).spillCount).map (fun k =>
    let t := s.spillAt q k
    (s.underKey (t / 2^64) (t % 2^64) 16).seen (q / 256) (t % 2^64) 16)

/-- Messages written into a queue's spill ring from entry k on. -/
def State.putSpilled (q : Nat) : Nat → List Nat → State → State
  | _, [], s => s
  | k, m :: r, s =>
    let t := s.spillAt q k
    State.putSpilled q (k + 1) r ((s.claim (t % 2^64)).pokeTag t 16 m)

/-- R378: the home removes the messages of a queue that name a released root; those that stay keep their order and their weight (R306). -/
def State.dropRoot (r q : Nat) (s : State) : State :=
  let stays (m : Nat) : Bool := !(msgWeighted m && msgRoot m == r)
  let ring := (s.ringMsgs q).filter stays
  let spilled := (s.spillMsgs q).filter stays
  let d := s.queue q
  if ring.length = d.count ∧ spilled.length = d.spillCount then s
  else
    let s1 := ring.foldl (fun s m => s.appendRing q m) (s.setQueue q { d with count := 0 })
    let s2 := s1.putSpilled q 0 spilled
    s2.setQueue q { s2.queue q with spillCount := spilled.length, spillHomes := d.spillHomes.take spilled.length }

/-- R378: a root released, and the messages that name it removed from every queue. -/
def State.releaseRoot (r : Nat) (s : State) : State :=
  (s.queues.map (·.1)).foldl (fun s q => s.dropRoot r q) (s.setRoot r {})

/-- R306: a queue emptied, the weight of its messages returned, and its descriptor invalid. -/
def State.emptyQueue (q : Nat) (s : State) : State :=
  let s1 := (s.ringMsgs q ++ s.spillMsgs q).foldl (fun s m =>
    if msgWeighted m then s.returnTo (msgRoot m) (msgWeight m) else s) s
  s1.setQueue q { s1.queue q with valid := false, refused := false, count := 0, spillCount := 0, spillHomes := [], bound := none }

-- weight ------------------------------------------------------------------------------------------

/-- R378: the roots that a strand created and has not released. -/
def Strand.nestedRoots (t : Strand) : List Nat :=
  if t.stack.isEmpty then [] else t.proot.toNat :: t.stack.dropLast.map (fun x => x.1.toNat)

/-- R95 step 4, R378: the weight of a strand returned to its roots, and its nested roots released. -/
def State.returnWeight (k : Nat) (s : State) : State :=
  let t := s.strand k
  let s1 := s.returnTo t.proot.toNat t.w
  let s2 := t.stack.foldl (fun s x => s.returnTo x.1.toNat x.2) s1
  let s3 := t.nestedRoots.foldl (fun s r => s.releaseRoot r) s2
  s3.updStrand k (fun t => { t with w := 0, stack := [], proot := match t.stack.getLast? with | some x => x.1 | none => t.proot })

-- templates ---------------------------------------------------------------------------------------

/-- R343, R344: an entry disarmed, and its trigger queue unbound; its numbers and their valid bits are `TARM`'s (R341). -/
def State.disarm (n : Nat) (s : State) : State :=
  let e := s.template n
  let s1 := if e.trigValid && (s.queue e.trigger).bound == some n then
      s.setQueue e.trigger { s.queue e.trigger with bound := none } else s
  s1.updTemplate n (fun t => { t with armed := false })

/-- R344: the entries that a strand armed are disarmed when it ends; a firing that its cancel cuts short is in progress no more. -/
def State.disarmStrand (k : Nat) (s : State) : State :=
  (s.templates.filter (fun t => (t.2.armed || t.2.firing) && t.2.strand == k)).foldl (fun s t =>
    (s.disarm t.1).updTemplate t.1 (fun x => { x with firing := false, fired := none, pushOwed := false })) s

-- freeing a page set ------------------------------------------------------------------------------

/-- R352: allocator entries changed by f. -/
def State.updPanels (f : Panel → Panel) (l : List Nat) (s : State) : State :=
  { s with panels := l.foldl (fun t p => t.put p (f (t.look {} p))) s.panels }

/-- R222, R18: an element whose configuration and work are gone; its storage stands until its panel is zeroed. -/
def Elem.vacant (e : Elem) : Elem :=
  { ta := e.ta, tl := e.tl, tlValid := e.tlValid, occ := e.occ, frets := e.frets, accs := e.accs, wflags := e.wflags, kind := e.kind,
    age := { heat := e.age.heat, bridle := e.age.bridle } }

/-- Whether an agent belongs to a strand, whose elements are listed. -/
def Agent.ofStrand (k : Nat) (es : List Nat) : Agent → Bool
  | .seq j => j == k
  | a => match a.ageOf with | some e => es.contains e | none => false

/-- R18 step 3: writes that have left their ports stay in the machine, with nobody to answer; every other request of the
strand is gone. -/
def State.dropRequests (k : Nat) (s : State) : State :=
  let es := (s.strand k).elems
  { s with reqs := s.reqs.filterMap (fun r =>
      if r.agent.ofStrand k es then (if r.writes && r.stage != .issued && r.stage != .returned then some { r with dest := .none } else none)
      else some r) }

/-- R18, R263: stitch units after the AGEs listed are gone: their registrations are released, and their operations, which have left their
ports, are performed with nobody to answer. -/
def State.dropStitch (es : List Nat) (s : State) : State :=
  { s with stitches := s.stitches.map (fun (u : Nat × Stitch) =>
      (u.1, { u.2 with
        readers := u.2.readers.filter (fun r => !es.contains r.age)
        queue := u.2.queue.map (fun o => if es.contains o.age then { o with place := Config.places } else o) })) }

/-- R18 step 2, R389: the link virtual channels that lead into a set cut, with the tokens in transit there (log 87). -/
def State.cutInto (es : List Nat) (s : State) : State :=
  { s with elems := s.elems.map (fun (x : Nat × Elem) => (x.1, { x.2 with
      routes := x.2.routes.filter (fun r => !(r.2.link.isSome && es.contains r.2.dstElem)) })) }

/-- R364: a strand waits at no barrier any more. -/
def State.leaveBarriers (k : Nat) (s : State) : State :=
  { s with barriers := s.barriers.map (fun (b : Nat × Barrier) => (b.1, { b.2 with waiting := b.2.waiting.filter (fun j => j != k) })) }

/-- R95 step 5, R18 step 4: the page set of a strand is freed; its panels go to zeroing (R222, R352). -/
def State.freeSet (k : Nat) (s : State) : State :=
  let t := s.strand k
  let s1 := (((s.dropRequests k).disarmStrand k).cutInto t.elems).leaveBarriers k
  let s2 := t.elems.foldl (fun s e => if s.elems.has e then s.updElem e Elem.vacant else s) s1
  let s3 := State.updPanels (fun p => { p with state := 1 }) t.panels s2
  (s3.dropStitch t.elems).updStrand k (fun t => { t with run := .complete, waiting := false, awaits := none, answer := none, owedRegs := [] })

/-- R366: a replica of a launch completes: the launch counter falls, and at zero the launch completes (R17). -/
def State.launchDown (j n status : Nat) (s : State) : State :=
  let l := (s.job j).launches.look {} n
  if l.left = 0 then s
  else
    let l1 := { l with left := l.left - 1 }
    if l1.left = 0 then
      s.updJob j (fun x => { x with
        launches := x.launches.put n { l1 with complete := true, status := status }
        graphCount := x.graphCount - 1, phaseCount := x.phaseCount - 1 })
    else s.updJob j (fun x => { x with launches := x.launches.put n l1 })

/-- R19: a replica of a carried launch has ended for good. -/
def State.countHalted (k : Nat) (s : State) : State :=
  let t := s.strand k
  if t.carried then
    s.updJob t.job (fun x =>
      let l : Launch := x.launches.look {} t.node
      { x with launches := x.launches.put t.node { l with halted := l.halted + 1 } })
  else s

/-- R95 steps 4 and 5: the strand's weight returns, its page set is freed and it counts as complete. -/
def State.finishStrand (k : Nat) (s : State) : State :=
  let t := s.strand k
  ((((s.returnWeight k).freeSet k).countHalted k).launchDown t.job t.node 1)

-- cancel ------------------------------------------------------------------------------------------

/-- R285: the runs of a strand's AGEs leave every bank; a row that one held is released. -/
def State.dropRuns (es : List Nat) (s : State) : State :=
  { s with
    banks := s.banks.map (fun b =>
      let gone := match b.2.running with | some r => es.contains r.age | none => false
      (b.1, { b.2 with
        waiting := b.2.waiting.filter (fun r => !es.contains r.age)
        running := if gone then none else b.2.running
        held := b.2.held && !gone, cause := if gone then 0 else b.2.cause, reopen := b.2.reopen && !gone }))
    bankResults := s.bankResults.filter (fun r => !es.contains r.age) }

/-- R18, R378: cancel of one strand: its tokens, commands and spills are discarded, its weight returns, its page set is freed and
the region's registers clear. Counting is the caller's. -/
def State.cancelStrand (k : Nat) (s : State) : State :=
  let t := s.strand k
  if t.onFabric then
    let s1 := (s.dropRuns t.elems).returnWeight k
    (s1.freeSet k).updStrand k (fun t => { t with kpend := 0, fault := 0, region := {}, quiet := 0 })
  else s

-- waiting and stopping ----------------------------------------------------------------------------

/-- R366: a launch that has replicas left to place. -/
def Launch.toPlace (l : Launch) : Bool := l.runnable && l.status == 0 && decide (l.nextReplica < l.replicas)

/-- The nodes of a job's launches that wait for placement, in ascending order. -/
def Job.waitingNodes (j : Job) : List Nat := (j.launches.filter (fun l => l.2.toPlace)).map (·.1)

/-- Whether a strand of a job holds panels. -/
def State.jobPlaced (s : State) (j : Nat) : Bool := s.strands.any (fun t => t.2.onFabric && t.2.job == j)

/-- R36: a job that is being stopped, with strands still on the fabric. -/
def State.stopping (s : State) (j : Nat) : Bool := (s.job j).preempting && s.jobPlaced j

/-- R24, R410: a job waits for placement: a launch with replicas to place, a saved strand that no restore fault has stopped, or a stop at a boundary. A
graph fault leaves the
launches that run to finish, wave by wave (R351). -/
def State.waits (s : State) (j : Nat) : Bool :=
  let x := s.job j
  x.resident && x.status == 0 && !(s.stopping j) &&
  ((x.stopped && x.gstate == 2) || x.saved.any (fun v => !v.failed) || (!x.stopped && !x.waitingNodes.isEmpty))

/-- R24: a job that waits counts its waiting from when it began; one that no longer waits counts none. -/
def State.startWait (j : Nat) (s : State) : State :=
  s.updJob j (fun x => { x with waitFrom := if s.waits j then (match x.waitFrom with | some c => some c | none => some s.cyc) else none })

/-- R36, R37: a job that is being stopped and has no strand left on the fabric returns to the waiting jobs with its declared priority; where
a cancel has left it nothing to come back to, it is not stopped. -/
def State.settleStop (j : Nat) (s : State) : State :=
  let x := s.job j
  if x.preempting && !(s.jobPlaced j) then
    (s.updJob j (fun x => { x with
      preempting := false, stopped := x.gstate == 2 || !x.saved.isEmpty, effective := x.priority, waitFrom := none })).startWait j
  else if x.stopped && !x.preempting && x.saved.isEmpty && x.gstate != 2 then
    (s.updJob j (fun x => { x with stopped := false })).startWait j
  else s.startWait j

/-- R198: a job stops at once: every region of it begins to stop, and a deferred `LDP` is withdrawn (R97). One that is frozen, or freezes,
keeps that for its record. Nothing of a job that holds no panels has to stop. -/
def State.startHalt (j : Nat) (s : State) : State :=
  if !(s.jobPlaced j) then s.updJob j (fun x => { x with preemptAt := none })
  else
    let s1 := s.updJob j (fun x => { x with preempting := true, preemptAt := none })
    ((s1.strands.filter (fun t => t.2.onFabric && t.2.job == j)).map (·.1)).foldl (fun s k =>
      (s.updStrand k (fun t => { t with region := { t.region with
        before := if t.region.state = .running then .running else .frozen } })).beginFreeze k) s1

/-- R18, R19: cancel of one strand, counted as a replica complete; one that stands at its yield has been counted. -/
def State.cancelReplica (k : Nat) (s : State) : State :=
  let t := s.strand k
  if t.onFabric then
    let s1 := (s.cancelStrand k).countHalted k
    (if t.run = .yielded then s1 else s1.launchDown t.job t.node 1).settleStop t.job
  else s

end Sys2Proof.Machine
end

