-- ==== Sys2Proof/Machine/System.lean ====
section
/-!
DEFINITION. Configuration stepping, `YIELD`, `HALT` and the command forms of the sequencer (R19, R43, R86-R91, R94, R95, R297).
-/

namespace Sys2Proof.Machine

/-- R86 -/
def execCfgwt (s : State) : Out := if s.drained s.site.strand then .next s.advance else .next s.wait

/-- R87, R96: a load of the record at A refused: the access fault of its address, or the configuration fault with its cause. -/
def State.refuseLoad (a : Nat) (e : LoadErr) (s : State) : State :=
  match e with
  | .access x va => s.raiseAcc x va
  | .cause n => s.raise 8 n s.selfWord a

/-- R87: `CFGLD` waits for the drain, checks, and loads. -/
def execCfgld (a : Reg) (s : State) : Out :=
  let k := s.site.strand
  let va := if a = 0 then s.self.cpc.toNat else (s.reg a).toNat % 2^60
  if !(s.drained k) || s.rowHeld then .next s.wait
  else
    match s.loadCheck k va with
    | .error e => .next (s.refuseLoad va e)
    | .ok p => .next (s.loadImage k va p).advance

/-- R88, R27: `GO`; a part of a cut graph waits until every other part is loaded. -/
def execCfggo (s : State) : Out :=
  match s.partOf s.self with
  | some p => if s.groupLoaded p.group then .next (s.sendGo s.site.strand).advance else .next s.wait
  | none => .next (s.sendGo s.site.strand).advance

/-- R95 steps 2 and 3, R19, R415: a strand may end, or yield for its phase, once its loads have returned as well. -/
def State.settled (s : State) (k : Nat) : Bool :=
  s.drained k && (s.strand k).kpend == 0 && s.performedAt (.seq k) 3 && s.readsReturned (.seq k)

/-- R95: `HALT`. -/
def execHalt (s : State) : Out :=
  let k := s.site.strand
  if s.settled k then .next (s.finishStrand k) else .next s.wait

/-- R89: `CFGNX` steps to the next record, or halts where there is none. -/
def execCfgnx (s : State) : Out :=
  let k := s.site.strand
  let t := s.self
  if !(s.drained k) || s.rowHeld then .next s.wait
  else
    match s.readVirtNat (.seq k) (dieOf t.lead) t.job t.cpc.toNat 32 with
    | .error (e, va) => .next (s.raiseAcc e va)
    | .ok v =>
      let n := (recordOf v).next
      if n = 0 then (if s.settled k then .next (s.finishStrand k) else .next s.wait)
      else
        match s.loadCheck k n with
        | .error e => .next (s.refuseLoad n e)
        | .ok p => .next (((s.loadImage k n p).sendGo k).goto (BitVec.ofNat 60 (p.record.image + p.record.script)))

/-- R19, R94: `YIELD` in a carried launch ends the strand's part in the phase; in any other strand it advances, and a pre-emption
that is pending halts the job at this boundary. -/
def execYield (s : State) : Out :=
  let k := s.site.strand
  let t := s.self
  if !t.carried then
    .next (if (s.job t.job).preemptAt.isSome then s.advance.startHalt t.job else s.advance)
  else if !t.stack.isEmpty then .next (s.protect t.proot.toNat)
  else if !(s.settled k) then .next s.wait
  else
    let s1 := (s.returnTo t.proot.toNat t.w).advance
    .next ((s1.updSelf (fun t => { t with w := 0, run := .yielded })).launchDown t.job t.node 1)

-- commands ------------------------------------------------------------------------------------------

/-- R297: the signal class. -/
def signalOp (op : Nat) : Bool := op == 0x24 || op == 0x25 || op == 0x26
/-- R297: the ops whose shape word follows them. -/
def owesShape (op : Nat) : Bool := op == 0x02 || op == 0x03 || op == 0x06 || op == 0x07

/-- R297: whether a command queue accepts a word. -/
def Age.accepts (a : Age) (raw : BitVec 128) : Bool :=
  if a.shapeOwed || signalOp (bitsAt raw.toNat 120 8) then decide (a.queue.length ≤ 15)
  else decide (a.queue.length ≤ 13)

/-- R297: a word accepted by a command queue. -/
def Age.enqueue (raw : BitVec 128) (token : Option Nat) (a : Age) : Age :=
  { a with
    queue := a.queue ++ [{ raw, token, shape := a.shapeOwed }]
    shapeOwed := !a.shapeOwed && owesShape (bitsAt raw.toNat 120 8) }

/-- R90: the common part of `CMD` and `CMDNB`. -/
def State.command (c : Qc) (full : State → Out) (took : State → State) (s : State) : Out :=
  let t := s.self
  if t.kpend &&& c.wait ≠ 0 then .next s.wait
  else if c.named && t.kpend.getLsbD c.token.toNat then .next s.wait
  else
    let raw : BitVec 128 := BitVec.ofNat 128 ((s.reg c.xs).toNat + (s.reg (c.xs + 1)).toNat * 2^64)
    let e := t.ageAt t.cpnl.toNat c.row.toNat
    if !(s.elem e).age.accepts raw then full s
    else
      let token := if c.named then some c.token.toNat else none
      let s1 := s.updAge e (Age.enqueue raw token)
      let s2 := if c.named then s1.updSelf (fun t => { t with
          kpend := t.kpend ||| BitVec.ofNat 8 (2^c.token.toNat)
          handles := t.handles.put c.token.toNat (Config.commandHandle raw.toNat s.cyc.toNat) }) else s1
      .next (took s2).advance

/-- R90: `CMD` stalls while its queue cannot accept. -/
def execCmd (c : Qc) (s : State) : Out := s.command c (fun s => .next s.wait) id

/-- R90: `CMDNB` writes 1 where its queue cannot accept, else 0. -/
def execCmdnb (c : Qc) (s : State) : Out :=
  s.command c (fun s => .next (s.setReg c.xs 1).advance) (fun s => s.setReg c.xs 0)

end Sys2Proof.Machine
end

