-- ==== Sys2Proof/Machine/Age.lean ====
section
/-!
DEFINITION. How an AGE runs commands (R223-R229, R308, R316, R322, R356-R358, R363, R379): starting, reading and writing
elements, packing tokens, taking tokens, and completion.
-/

namespace Sys2Proof.Machine

-- fields of the command in a place ------------------------------------------------------------------

/-- R57: the decoded fields of the command in a place. -/
def Place.cmd (x : Place) : Cmd := cmdFields x.raw.toNat
/-- R237: the strides and counts of a shape word: n1, s1, n2, s2. -/
def shapeWord (v : Nat) : Nat × Int × Nat × Int :=
  (bitsAt v 40 24, sint 40 (bitsAt v 0 40), bitsAt v 104 24, sint 40 (bitsAt v 64 40))
/-- R237, R238: the shape of a command of depth d. -/
def Place.dims (x : Place) (d : Nat) : Nat × Int × Nat × Int :=
  let (n1, s1, n2, s2) := shapeWord x.shape.toNat
  if d = 1 then (1, 0, 1, 0) else if d = 2 then (n1, s1, 1, 0) else (n1, s1, n2, s2)
/-- R356, R357: the chain after an element of a shape is issued. -/
def Place.chain (n0 n1 : Nat) (x : Place) : Place :=
  if x.j0 + 1 < n0 then { x with j0 := x.j0 + 1, j3 := x.j3 + 1 }
  else if x.j1 + 1 < n1 then { x with j0 := 0, j1 := x.j1 + 1, j3 := x.j3 + 1 }
  else { x with j0 := 0, j1 := 0, j2 := x.j2 + 1, j3 := x.j3 + 1 }
/-- R357: commands of other shapes count in j0 and j3 only. -/
def Place.count (x : Place) : Place := { x with j0 := x.j0 + 1, j3 := x.j3 + 1 }

/-- R356, R357: the last element of the command in a place has been issued: `FIN` has been sent, and the active bit of the place's chained loop
counter is clear. -/
def Place.lastIssued (x : Place) : Bool :=
  let c := x.cmd
  let n := c.count.toNat
  let shape (d : Nat) : Nat × Nat := let q := x.dims d; (q.1, q.2.2.1)
  let load (d : Nat) : Bool := decide ((shape d).1 * (shape d).2 * n ≤ x.j3)
  let store (d : Nat) : Bool := decide ((shape d).2 ≤ x.j2) || n == 0 || (shape d).1 == 0
  let empty : Bool := x.eos && x.inq.isEmpty && x.cur.isEmpty
  x.done || (match x.op with
    | 0x01 => load 1 | 0x02 => load 2 | 0x03 => load 3 | 0x21 => load 1
    | 0x05 => store 1 || empty | 0x06 => store 2 || empty | 0x07 => store 3 || empty
    | 0x10 => x.phase == 1 | 0x11 => empty | 0x12 => empty | 0x28 => empty
    | 0x13 => x.runs == n | 0x14 => x.runs == n | 0x42 => x.runs == n
    | 0x20 => x.phase == 2 && decide (c.port.toNat * 16 + c.flags.toNat < x.next)
    | 0x22 => empty || x.written == n | 0x23 => x.eos || x.phase == 2
    | 0x2C => x.next == 16 | 0x2D => x.next == 16
    | 0x30 => x.j3 == n | 0x31 => x.j3 == n | 0x32 => x.j3 == n | 0x33 => x.j3 == n | 0x39 => x.j3 == n
    | 0x41 => (if c.flag 0 then empty && x.pairs.isEmpty else decide (c.port.toNat < x.j3))
    | 0x43 => x.phase == 1 | 0x44 => x.phase == 1 || x.phase == 6 | 0x48 => x.phase == 1
    | 0x50 => x.pairs.length == n | 0x58 => x.pairs.length == n % 256 + 1
    | _ => false)

/-- R230, R363: the barrier of a count-class operator on a die. -/
def barrierOf (fused die : Nat) : Option Nat := if isCount fused then some (die * 128 + (fused - 0x80)) else none

/-- R57, R236-R247: the ports that a command names: inputs by number, outputs counted from 8. -/
def cmdPorts (op : Nat) (c : Cmd) : List Nat :=
  let lo := c.port.toNat % 16
  let mid := c.port.toNat / 16 % 8
  let top := decide (128 ≤ c.port.toNat)
  let port (n : Nat) : Nat := if n < 8 then 8 + n else n - 8
  if (1 ≤ op ∧ op ≤ 7) ∨ op = 0x11 ∨ op = 0x12 ∨ op = 0x13 ∨ op = 0x14 ∨ op = 0x21 ∨ op = 0x22 ∨ op = 0x42 ∨ op = 0x44 then
    [port lo]
  else if op = 0x10 ∨ op = 0x23 ∨ op = 0x43 then [8 + lo % 8, mid]
  else if op = 0x28 ∨ op = 0x48 then [lo % 8] ++ (if top then [8 + mid] else [])
  else if op = 0x41 then (if c.flags.toNat % 2 = 1 then [lo % 8] else [])
  else if op = 0x51 then (if top then [8 + lo % 8] else [])
  else if op = 0x52 then [mid] ++ (if top then [8 + lo % 8] else [])
  else if op = 0x58 then (if top then [8 + lo % 8] else [])
  else []

-- starting --------------------------------------------------------------------------------------------

/-- R59: a command fault: the port records class 1 and holds the command at the head of its queue. -/
def State.commandFault (e : Nat) (raw : BitVec 128) (s : State) : State :=
  s.raisePort e 1 (bitsAt raw.toNat 120 8) 0 (bitsAt raw.toNat 4 60) (bitsAt raw.toNat 104 4)

/-- The ports in use by commands in progress. -/
def Age.busyPorts (a : Age) : List Nat :=
  a.places.flatMap (fun p => if p.2.active then cmdPorts (p.2.op) p.2.cmd else [])

/-- R223: the first free progress place. -/
def Age.freePlace (a : Age) : Option Nat :=
  (List.range Config.places).find? (fun p => !(a.places.look {} p).active)

/-- R321: the count at the end of a done edge. -/
def State.edgeCount (s : State) (o : DoneOut) : Nat := if o.away then o.sent else ((s.elem o.target).age.doneIn.look {} o.index).count

/-- R322: every incoming edge holds a token, and no outgoing edge's count is full. -/
def State.edgesReady (s : State) (e : Nat) : Bool :=
  let a := (s.elem e).age
  a.doneIn.all (fun d => !d.2.valid || decide (1 ≤ d.2.count)) && a.doneOut.all (fun o => decide (s.edgeCount o < 255))

/-- R322: `DONE` tokens leave in command order: one on each outgoing edge for every completed command that no earlier one
precedes. A count of 255 holds what is left, since R321 gives it 8 bits. -/
def State.emitDone (e : Nat) : Nat → State → State
  | 0, s => s
  | f + 1, s =>
    let a := (s.elem e).age
    if a.completed.contains a.doneNext && a.doneOut.all (fun o => decide (s.edgeCount o < 255)) then
      let s1 := (a.doneOut.filter (fun o => !o.away)).foldl (fun s o => s.updAge o.target (fun t => { t with
        doneIn := t.doneIn.put o.index { t.doneIn.look {} o.index with count := (t.doneIn.look {} o.index).count + 1 } })) s
      State.emitDone e f (s1.updAge e (fun a => { a with
        doneOut := a.doneOut.map (fun o => if o.away then { o with sent := o.sent + 1 } else o)
        completed := a.completed.filter (fun n => n != a.doneNext), doneNext := a.doneNext + 1 }))
    else s

/-- R321, R322: the tokens that the sources of an AGE's edges have held back for a full count. -/
def State.emitHeld (e : Nat) (s : State) : State :=
  let held (x : Nat × Elem) : Bool := x.2.age.completed.contains x.2.age.doneNext && x.2.age.doneOut.any (fun o => !o.away && o.target == e)
  (s.elems.filter held).foldl (fun s x => s.emitDone x.1 x.2.age.completed.length) s

/-- R322, R319: a token taken from every incoming edge, an acquire at each edge's scope. -/
def State.takeDone (e : Nat) (s : State) : State :=
  let ins := (s.elem e).age.doneIn
  let s1 := State.emitHeld e <| s.updAge e (fun a => { a with doneIn := a.doneIn.map (fun (d : Nat × DoneIn) =>
    (d.1, if d.2.valid then { d.2 with count := d.2.count - 1 } else d.2)) })
  let job := (s.strand (s.strandOf e)).job
  ins.foldl (fun s d => if d.2.valid then s.acquireAt (panelOf e) job d.2.scope else s) s1

/-- R358: a scoreboard token of a strand cleared. -/
def State.clearToken (k : Nat) (t : Option Nat) (s : State) : State :=
  match t with
  | some n => s.updStrand k (fun x => { x with kpend := x.kpend &&& ~~~(BitVec.ofNat 8 (2^n)) })
  | none => s

/-- Whether the region of an element runs. -/
def State.regionRuns (s : State) (e : Nat) : Bool :=
  match s.strandOn (panelOf e) with
  | some k => (s.strand k).region.state == .running
  | none => false

/-- Whether the region of an element is frozen or halted. -/
def State.regionStands (s : State) (e : Nat) : Bool :=
  match s.strandOn (panelOf e) with
  | some k => (s.strand k).region.state == .frozen || (s.strand k).region.state == .halted
  | none => true

/-- R344, R363: what keeps entry t from firing besides its trigger: it is armed, not dormant, not firing, and its AGE runs, with a
free place and free ports. -/
def State.mayFire (s : State) (t : Nat) : Option Nat :=
  let x := s.template t
  let a := (s.elem x.age).age
  let op := bitsAt x.snapshot.toNat 120 8
  let ports := cmdPorts op (cmdFields x.snapshot.toNat)
  if x.armed && !x.firing && !x.dormant && s.regionRuns x.age && !(ports.any (fun q => a.busyPorts.contains q)) &&
      (ports.isEmpty || !(s.elem x.age).configured || (s.elem x.age).go) then a.freePlace
  else none

/-- R344: a template of an AGE has a message at the head of its bound queue, or a `TFIR` in a place of the AGE names it, and nothing keeps it from
firing: it takes a place ahead of the command at the head of the queue. -/
def State.fireReady (s : State) (e : Nat) : Bool :=
  s.templates.any (fun t => t.2.age == e && (s.mayFire t.1).isSome &&
    ((t.2.trigValid && (s.queue t.2.trigger).bound == some t.1 && (s.queue t.2.trigger).count != 0) ||
     (s.elem e).age.places.any (fun p => p.2.active && p.2.op == 0x26 && p.2.phase == 0 && bitsAt p.2.raw.toNat 64 8 == t.1)))

/-- R223, R237, R322, R357, R363: the command at the head of an AGE's queue starts in a free place, changed by `init`, when all
that holds it is met; `ready` is the op's own condition. -/
def State.startCommand (c : Cmd) (op : Nat) (ready : State → Bool) (init : Place → Place) (s : State) : Out :=
  let e := s.site.elem
  let el := s.elem e
  let a := el.age
  let k := s.strandOf e
  let ports := cmdPorts op c
  match a.queue with
  | [] => .next s
  | h :: rest =>
    let shape : Option QEntry := if owesShape op then rest.head? else none
    if !(s.regionRuns e) then .next s
    else if owesShape op && shape.isNone then .next s
    else if (op == 2 || op == 6) && (match shape with | some w => bitsAt w.raw.toNat 64 64 != 0 | none => false) then
      .next (s.commandFault e h.raw)
    else
      match a.freePlace with
      | none => .next s
      | some p =>
        if ports.any (fun q => a.busyPorts.contains q) || (!ports.isEmpty && el.configured && !el.go) ||
            !(s.edgesReady e) || s.fireReady e || !(ready s) then .next s
        else
          match barrierOf c.fused.toNat (dieOf (panelOf e)) with
          | some b =>
            if !((s.barrier b).valid && (s.barrier b).job == (s.strand k).job) then
              .next (s.raisePort e 3 op 0 c.addr.toNat c.space.toNat)
            else .next (begin_ e k p h rest shape a)
          | none => .next (begin_ e k p h rest shape a)
where
  /-- R223: the command leaves the queue and its place is active. -/
  begin_ (e k p : Nat) (h : QEntry) (rest : List QEntry) (shape : Option QEntry) (a : Age) : State :=
    let pl : Place := { active := true, strand := k, raw := h.raw, token := h.token, seq := a.started,
                        shape := match shape with | some w => w.raw | none => 0 }
    let s1 := s.takeDone e
    let s2 := s1.updAge e (fun a => { a with
      queue := if shape.isSome then rest.drop 1 else rest, started := a.started + 1, places := a.places.put p (init pl) })
    match shape with
    | some w => s2.clearToken k w.token
    | none => s2

-- requests --------------------------------------------------------------------------------------------

/-- R227, R252: spilled writes hold a request: every later element of a command that diverted one, but of `SCAD`, and every
request to a byte of a spilled entry. -/
def State.spillBlocks (s : State) (e p va size : Nat) : Bool :=
  let sp := (s.elem e).age.spills
  let x := s.place e p
  !sp.isEmpty && ((x.spilled && x.op != 0x12) ||
    sp.any (fun q => overlaps q.va.toNat q.size va size && !(x.op == 0x12 && q.place == p)))

/-- R244: element `idx` that a `COPY` reads goes to a SYNC page. -/
def State.copyToSync (s : State) (e : Nat) (x : Place) (idx : Nat) : Bool :=
  let c := x.cmd
  x.op == 0x20 &&
  (match s.checkSpace e c.space.toNat ((c.addr.toNat + idx * c.bytes : Nat) : Int) c.bytes (.streamWrite c.bytes) true with
   | .ok l => l.virt && l.kind == 1
   | .error _ => false)

/-- A request of a place. -/
def State.placeReq (s : State) (e p idx : Nat) (l : Loc) (va size : Nat) (kind : ReqKind) (data : Nat) : Req :=
  let x := s.place e p
  let d := dieOf (panelOf e)
  { id := s.fresh, agent := .place e p, kind, home := l.home, size, data := BitVec.ofNat 512 data, virt := l.virt, va, die := d
    panel := panelOf e, job := (s.strand x.strand).job, policy := l.policy, regionKind := l.kind, key := l.key, dest := .elem e p idx
    bar := barrierOf x.cmd.fused.toNat d
    atHome := kind == .read && l.virt && l.kind == 1 && s.copyToSync e x idx }

/-- A home-side write of n bytes, 64 at most, at a virtual address of a job, or nothing where it fails its checks. It goes behind what stands in its
home's queue (R286, R313); the moves that make it wait while a bank row is held (log 104). -/
def State.homeWrite (job va n v : Nat) (s : State) : Option State :=
  match s.checkVirt (.die 0) 0 job va 1 .store true with
  | .error _ => none
  | .ok l => some ((s.claim l.pa).pokeKey l.key l.pa n v)

/-- R379: an entry's record is on its way to its job's heat log. -/
def State.heatLog (x : Heat) (s : State) : State := { s with heatOwed := s.heatOwed ++ [x] }

/-- R379: the oldest record on its way is appended to its job's heat log; a full ring, or a write that faults, drops it. It waits while a bank row
is held (R286, log 104). -/
def State.heatStep (s : State) : State :=
  match s.heatOwed with
  | [] => s
  | x :: rest =>
    if s.rowHeld then s
    else
      let s0 : State := { s with heatOwed := rest }
      let j := s.job x.job
      if j.heatLen ≤ j.heatHead then s0
      else
        match s0.homeWrite x.job (j.heatBase.toNat + 16 * j.heatHead) 16
            (x.tag.toNat + x.delivered.toNat * 2^64 + x.starved.toNat * 2^96) with
        | some s1 => s1.updJob x.job (fun j => { j with heatHead := j.heatHead + 1 })
        | none => s0

/-- R379: whether an entry is a job's for a page. -/
def Heat.mine (x : Heat) (job va : Nat) : Bool := x.valid && x.tag == BitVec.ofNat 44 (va / 65536) && x.job == job

/-- R379: a stream read of a page: its entry becomes the most recently used, or begins, the least recently used giving way. -/
def State.heatTouch (e job va : Nat) (s : State) : State :=
  let h := (s.elem e).age.heat
  if h.any (fun x => x.mine job va) then
    s.updAge e (fun a => { a with heat := a.heat.filter (fun x => x.mine job va) ++ a.heat.filter (fun x => !x.mine job va) })
  else
    let s1 := (h.drop (Config.heatEntries - 1)).foldl (fun s x => s.heatLog x) s
    let x : Heat := { tag := BitVec.ofNat 44 (va / 65536), job, valid := true }
    s1.updAge e (fun a => { a with heat := x :: h.take (Config.heatEntries - 1) })

/-- R379: an element of a page enters the fabric; a count that saturates is logged and the entry's counts begin again. -/
def State.heatDeliver (e job va : Nat) (s : State) : State :=
  match (s.elem e).age.heat.find? (fun x => x.mine job va) with
  | none => s
  | some x =>
    let full := x.delivered == BitVec.allOnes 32
    let x1 : Heat := if full then { x with delivered := 1, starved := 0 } else { x with delivered := x.delivered + 1 }
    let s1 := if full then s.heatLog x else s
    s1.updAge e (fun a => { a with heat := a.heat.map (fun y => if y.mine job va then x1 else y) })

/-- R226, R238: one element of a command is read: checked, then issued, its value going to index `idx`. `ok` is what the place
records when the request has issued. A request that must wait changes nothing; one that fails is held at the port. -/
def State.readElem (e p space : Nat) (a : Int) (size idx : Nat) (form : AccForm) (ok : Place → Place) (s : State) : State :=
  let x := s.place e p
  if space = 4 && (s.spillBlocks e p a.toNat size || s.walkWaits (.age e) (dieOf (panelOf e)) (s.strand x.strand).job a.toNat) then s
  else
    match s.checkSpace e space a size form false with
    | .error c => s.holdPlace e p c x.op x.j3 (faultAddr a) space
    | .ok l =>
      if s.isBad l.home size then s.holdPlace e p 7 x.op x.j3 (faultAddr a) space
      else
        let sync := form == .syncRead
        let job := (s.strand x.strand).job
        let r := s.placeReq e p idx l a.toNat size (if sync then .syncRead else .read) 0
        let s1 := if l.virt then ((s.cacheLeaf (.age e) (dieOf (panelOf e)) job a.toNat).heatTouch e job a.toNat) else s
        let done (s : State) : State :=
          (s.updPlace e p (fun x => ok { x with vas := if l.virt then x.vas.put idx a.toNat else x.vas })).activity e
        if !s.prompt then done (s1.issue r)
        else if sync && !((wordsOf l.home size).all s.isFull) then
          if s.earlier r || s.homeHeld r then s
          else done (s1.issue { r with stage := if s.deferralFull r then .home else .deferred })
        else
          match s1.performNow r with
          | (s2, .value v) => done (s2.answer r v)
          | (_, _) => s

/-- R227, R308, R188: an entry joins the spill queue of an AGE, at its tail or its head, and its command's place knows: the port records class 2 with the
spilled bit, which sets the region's fault bit and freezes nothing. -/
def State.spillIn (e : Nat) (sp : Spill) (first : Bool) (ok : Place → Place) (s : State) : State :=
  let reg := portFaultReg 2 sp.op sp.index sp.va.toNat 4 ||| 0x10
  let k := s.strandOf e
  let s1 := (s.updAge e (fun a => { a with spills := if first then sp :: a.spills else a.spills ++ [sp], port := reg })).updStrand k (fun t => { t with
    region := t.region.mark s.cyc ((t.offsetOf (panelOf (e % 2^20))).getD 0) (e % 64) 1 })
  let s2 := s1.updPlace e sp.place (fun x => ok { x with spilled := true })
  (s2.postEvent (s.strandOf e) 2 (reg.toNat % 2^64)).countPerf (dieOf (panelOf e)) 8 (s.strand (s.place e sp.place).strand).job 1

/-- R227, R308: a write of a command diverted to the spill queue. Into a full queue it is held instead (R309). -/
def State.divert (e p : Nat) (va size data : Nat) (ok : Place → Place) (s : State) : State :=
  let x := s.place e p
  if Config.spillEntries ≤ (s.elem e).age.spills.length then s.holdPlace e p 2 x.op x.j3 va 4
  else
    s.spillIn e { va := BitVec.ofNat 60 va, size, op := x.op, fused := x.cmd.fused.toNat, mask := BitVec.ofNat 64 (2^size - 1)
                  data := BitVec.ofNat 512 data, place := p, bar := barrierOf x.cmd.fused.toNat (dieOf (panelOf e)), index := x.j3
                  full := if x.op = 0x20 ∧ Tab.has x.full x.next then some (x.full.look 0 x.next) else none } false ok

/-- The home operation of an engine write to a place (R219, R233). -/
def writeKind (fused : Nat) (l : Loc) : ReqKind :=
  if fused = 0x10 then .amo .addf
  else if fused = 0x11 then .amo .addi
  else if fused = 0x12 then .amo .maxf
  else if fused = 0x13 then .amo .minf
  else if l.virt ∧ l.kind = 1 then .engine
  else .write

/-- R219, R226, R227, R233: one element of a command is written: checked, then issued; a `VIRT` write that finds no translation
is diverted. A write to a SYNC word that is full is held with the address of the lowest full word. -/
def State.writeElem (e p space : Nat) (a : Int) (size data : Nat) (kind : Loc → ReqKind) (divert : Bool)
    (ok : Place → Place) (s : State) : State :=
  let x := s.place e p
  let form : AccForm := if isCombine x.cmd.fused.toNat || x.op == 0x28 then .combine else .streamWrite size
  if space = 4 && (s.spillBlocks e p a.toNat size || s.walkWaits (.age e) (dieOf (panelOf e)) (s.strand x.strand).job a.toNat) then s
  else
    match s.checkSpace e space a size form true with
    | .error c =>
      if c = 2 && space == 4 && divert && decide (0 ≤ a) && decide (a < 2^60) then s.divert e p a.toNat size data ok
      else s.holdPlace e p c x.op x.j3 (faultAddr a) space
    | .ok l =>
      if form == .combine && s.isBad l.home size then s.holdPlace e p 7 x.op x.j3 (faultAddr a) space
      else
      let r := s.placeReq e p x.j3 l a.toNat size (kind l) data
      let done (s : State) : State := (s.updPlace e p ok).activity e
      if !s.prompt then done (s.issue r)
      else
        match s.performNow r with
        | (s2, .value v) => done (if x.op == 0x28 then s2.answer r v else s2)
        | (_, .refused w) => s.holdPlace e p 6 x.op x.j3 (faultAddr (a + (w - l.home : Nat))) space
        | (_, .wait) => s

/-- R316: every write of a command has been performed at its home, spilled writes included (R225). -/
def State.writesDone (s : State) (e p : Nat) : Bool :=
  s.performedAt (.place e p) 3 && s.performedAt (.spill e p) 3 && !((s.elem e).age.spills.any (fun q => q.place == p))

-- tokens out --------------------------------------------------------------------------------------------

/-- R181, R189, R292: the oldest formed token of a place enters the fabric when the region runs, every branch has room and the
bridle admits it; count-class bytes are counted then (R234). -/
def State.emitHead (e p : Nat) (s : State) : State :=
  let x := s.place e p
  match x.outq with
  | [] => s
  | (port, t) :: rest =>
    let el := s.elem e
    if !(s.regionRuns e) || !(el.room port 1) || !(el.admits [(port, t)]) then s
    else
      let job := (s.strand x.strand).job
      let d := dieOf (panelOf e)
      let bytes :=
        if x.op = 0x21 then (if t.kind.isControl then 0 else Nat.min 64 (x.cmd.count.toNat * x.cmd.bytes - 64 * x.sent))
        else if x.op = 0x23 then (if x.phase = 2 then 0 else 64 * t.beats)
        else 0
      let s1 := s.updElem e (fun y => (y.meter [(port, t)]).emit port t)
      let s2 := s1.updPlace e p (fun y => { y with
        outq := rest, outVas := if t.kind.isControl then y.outVas else y.outVas.del y.sent, sent := if t.kind.isControl then y.sent else y.sent + 1 })
      let s3 := if t.kind.isControl then s2 else (x.outVas.look [] x.sent).foldl (fun s va => s.heatDeliver e job va) s2
      ((s3.countBytes (barrierOf x.cmd.fused.toNat d) job bytes).countPerf d 3 job 1).activity e

/-- The DATA tokens that a command has formed. -/
def Place.formed (x : Place) : Nat := x.sent + (x.outq.filter (fun o => !o.2.kind.isControl)).length

/-- Tokens formed for an output; the pages from which the elements of the open token came go with the first DATA token (R379). -/
def Place.push (port : Nat) (ts : List Token) (x : Place) : Place :=
  let y : Place := { x with outq := x.outq ++ ts.map (fun t => (port, t)) }
  if x.packVas.isEmpty || ts.all (fun t => t.kind.isControl) then y
  else { y with outVas := x.outVas.put x.formed x.packVas, packVas := [] }

/-- R228: a DATA token formed; with X an `XCHG` follows a tile token, or every 16th DATA token of the command. -/
def Place.pushData (port : Nat) (xchg : Bool) (t : Token) (x : Place) : Place :=
  let n := x.formed + 1
  x.push port (t :: (if xchg && (t.tile || n % 16 == 0) then [.ctl .xchg] else []))

/-- R228: the token or tile that holds elements of the open run is sent, padded with zeros. -/
def Place.flush (port : Nat) (xchg : Bool) (x : Place) : Place :=
  if x.tileRows ≠ [] then
    ({ x with tileRows := [] } : Place).pushData port xchg
      (.tileOf (x.tileRows ++ List.replicate (16 - x.tileRows.length) 0))
  else if x.packN ≠ 0 then ({ x with pack := 0, packN := 0 } : Place).pushData port xchg (.dat x.pack)
  else x

/-- R228: an element of s bytes joins the open token; with T rows join the open tile. -/
def Place.putElem (port size : Nat) (tile xchg : Bool) (v : Nat) (x : Place) : Place :=
  if size = 64 then
    if tile then
      let x1 := { x with tileRows := x.tileRows ++ [BitVec.ofNat 512 v], runData := true }
      if x1.tileRows.length = 16 then x1.flush port xchg else x1
    else ({ x with runData := true } : Place).pushData port xchg (.dat (BitVec.ofNat 512 v))
  else
    let x1 := { x with pack := BitVec.ofNat 512 (x.pack.toNat + v % 2^(8 * size) * 2^(8 * size * x.packN)),
                       packN := x.packN + 1, runData := true }
    if x1.packN * size = 64 then x1.flush port xchg else x1

/-- R228: a level-1 run ends: the open token is sent, and with S a stop of level `k` follows, but not after the last run of the
command when it holds data. -/
def Place.endRun (port : Nat) (xchg stops last : Bool) (k : Nat) (x : Place) : Place :=
  let x1 := x.flush port xchg
  let x2 := if stops && !(last && x.runData) then x1.push port [.ctl (.stop k)] else x1
  { x2 with runData := false, runs := x2.runs + 1 }

-- tokens in ---------------------------------------------------------------------------------------------

/-- R229: the token at the head of an input that a command takes; nothing is taken while the region stands. -/
def State.inputHead (s : State) (e port : Nat) : Option Token := if s.regionStands e then none else (s.elem e).head port

/-- R229: the rows of a DATA token; a tile token counts as 16 one-beat tokens. -/
def Token.dataRows (t : Token) : List Row := t.rows

/-- The level of a stop token; 0 for every other kind. -/
def TokKind.level : TokKind → Nat
  | .stop k => k
  | _ => 0

-- a place advances ----------------------------------------------------------------------------------------

/-- R286, R327: the stream ops that reach memory by no request of their own: fibre commands, `BLKX`, loads of blocks, programs and frets, residency
and translation commands. -/
def unitOp (op : Nat) : Bool :=
  op == 0x14 || op == 0x24 || (decide (0x30 ≤ op) && decide (op ≤ 0x39)) || (decide (0x40 ≤ op) && decide (op ≤ 0x48)) || op == 0x50 || op == 0x58

/-- R223, R187: one step of a command in progress: a formed token enters the fabric, else the command's own step is taken. Nothing
moves in a place that is held, or that waits for its completion. -/
def State.advancePlace (step : Nat → Nat → Place → State → State) (s : State) : Out :=
  match s.site.place with
  | none => .next s
  | some p =>
    let e := s.site.elem
    let x := s.place e p
    if !x.active || x.held || x.done then .next s
    else if x.outq.isEmpty then (if unitOp x.op && s.rowHeld then .next s else .next (step e p x s))
    else .next (s.emitHead e p)

/-- A command's meaning: at the head of its queue it starts, in a place it takes a step. -/
def State.runCommand (c : Cmd) (op : Nat) (ready : State → Bool) (init : Place → Place)
    (step : Nat → Nat → Place → State → State) (s : State) : Out :=
  match s.site.place with
  | none => s.startCommand c op ready init
  | some _ => s.advancePlace step

/-- The command in a place has nothing left but its completion step. -/
def State.finish (e p : Nat) (reply : Nat) (s : State) : State :=
  s.updPlace e p (fun x => { x with done := true, reply := BitVec.ofNat 64 reply })

/-- R356: what stays in a progress place when its command is over: the chained loop counter, which the next start sets to 0. -/
def Place.ended (x : Place) : Place := { j0 := x.j0, j1 := x.j1, j2 := x.j2, j3 := x.j3 }

/-- R225, R322, R344: the command in a place completes: its reply register is written, then its token clears, its place is free and its
`DONE` tokens leave. A template's firing writes no reply and emits no `DONE`. -/
def State.complete (age place : Nat) (s : State) : State :=
  let x := s.place age place
  let s1 := s.setPlace age place x.ended
  match x.template with
  | some t => s1.updTemplate t (fun e => { e with
      pushOwed := e.doneValid, firing := e.doneValid, fired := none, count := e.count + 1 })
  | none =>
    let d := x.cmd.reply.toNat
    let s2 := if d = 0 then s1 else s1.updStrand x.strand (fun t => t.setReg d x.reply)
    let s3 := (s2.clearToken x.strand x.token).updAge age (fun a => { a with completed := x.seq :: a.completed })
    s3.emitDone age ((s3.elem age).age.completed.length)

/-- R225, R91: a command that has nothing left completes. R91 lets a read of the reply register before the token clears give the old value or
the reply: register and token change in one step here, so it gives the old value (DESIGN CHOICE, log 103). -/
def execCommandCompletion (s : State) : Out :=
  let age := s.site.elem
  let place := s.site.place.getD Config.places
  let x := s.place age place
  if !x.active || !x.done then .next s else .next (s.complete age place)

/-- R59: a command with an unassigned op is held at the head of its queue. -/
def execCommandDecodeFault (raw : BitVec 128) (s : State) : Out :=
  if s.regionRuns s.site.elem then .next (s.commandFault s.site.elem raw) else .next s

end Sys2Proof.Machine
end

