-- ==== Sys2Proof/Machine/Streams.lean ====
section
/-!
DEFINITION. Dense streams, reduces, gathers and scatters (R228-R241, R247): what `SLD`, `SST`, `GATH`, `SCAT`, `SCAD` and
`AMOS` do, one step at a time.
-/

namespace Sys2Proof.Machine

-- fused operators ---------------------------------------------------------------------------------

/-- R230: the exponent of a scale-class operator. -/
def scaleBy (fused : Nat) : Int := (fused : Int) - 0x60
/-- R232: an FP32 element scaled, rounded once. -/
def scaled (fused v : Nat) : Nat :=
  if isScale fused then fp32.expi .rne v (fp32.ofInt .rne false (scaleBy fused)) else v

/-- R231: how a reduce-class operator combines two values. -/
def reduceOp (fused : Nat) : Nat → Nat → Nat :=
  match fused with
  | 1 => fp32.add .rne
  | 2 => fun a b => (a + b) % 2^32
  | 3 => fp32.max
  | _ => fp32.min
/-- R231: the result of a reduce of no element. -/
def reduceEmpty (fused : Nat) : Nat :=
  match fused with
  | 1 => 0
  | 2 => 0
  | 3 => fp32.inf true
  | _ => fp32.inf false
/-- A value as a reduce begins with it: a NaN is canonical. -/
def reduceFirst (fused v : Nat) : Nat := if fused ≠ 2 ∧ (fp32.read v).isNan then fp32.nan else v

/-- R118 stage 1: an element joins the partial of its bank. -/
def Place.contribute (fused bank v : Nat) (x : Place) : Place :=
  { x with parts := x.parts.put bank (BitVec.ofNat 32
      (if Tab.has x.parts bank then reduceOp fused (x.parts.look 0 bank).toNat v else reduceFirst fused v)) }

/-- R118, R119, R231: the result of a reduce; with RELAX the partials combine in an open order. -/
def Place.reduced (fused seed : Nat) (relax : Bool) (x : Place) : Nat :=
  let l := x.parts.map (fun (p : Nat × BitVec 32) => (p.1, p.2.toNat))
  let r := if relax && fused == 1 then combineAny (reduceOp 1) seed l.length (l.map (·.2))
           else combineTree (reduceOp fused) 14 l
  r.getD (reduceEmpty fused)

/-- R231: the result token and `EOS`. -/
def State.emitReduced (e p port fused : Nat) (relax : Bool) (s : State) : State :=
  let x := s.place e p
  let v := x.reduced fused s.fresh relax
  let s1 : State := if relax then { s with fresh := s.fresh + 2 * x.parts.length } else s
  s1.updPlace e p (fun y => { (y.push port [.dat (packRow 32 [v]), .ctl .eos]) with phase := 1 })

/-- R118: the bank that a stream read contributes to; on-chip storage forms one partial. -/
def State.reduceBank (s : State) (e space : Nat) (a : Int) (size : Nat) (form : AccForm) : Nat :=
  match s.checkSpace e space a size form false with
  | .ok l => if l.virt then s.bankOf l.home else 0
  | .error _ => 0

-- loads -------------------------------------------------------------------------------------------

/-- R379: element `idx` joins the token that is open, which it counts with as that enters the fabric. -/
def Place.marked (idx : Nat) (x : Place) : Place :=
  if Tab.has x.vas idx then { x with packVas := x.packVas ++ [x.vas.look 0 idx] } else x

/-- The answer of element `idx` taken out of the place. -/
def Place.takeGot (idx : Nat) (x : Place) : Place := { x with got := x.got.del idx, vas := x.vas.del idx, full := x.full.del idx }

/-- R238: the address of the element that the chain stands at. -/
def Place.address (x : Place) (size : Nat) (s1 s2 : Int) : Int :=
  (x.cmd.addr.toNat : Int) + (x.j0 * size : Nat) + x.j1 * s1 + x.j2 * s2

/-- R231, R232, R235, R238: the element with index `next` of a load passes through its fused operator. -/
def Place.passElem (c : Cmd) (n0 v : Nat) (x : Place) : Place :=
  let f := c.fused.toNat
  let port := c.portLow
  let y : Place :=
    if isReduce f then
      { x.contribute f ((x.pairs.headD 0).toNat) v with pairs := x.pairs.drop 1 }
    else if f = 8 then
      if v = 0 then x
      else
        ({ x.marked x.next with runData := true } : Place).push port [.dat (pairRow (x.next % n0) v)]
    else (x.marked x.next).putElem port c.bytes (c.flag 2) (c.flag 1) (scaled f v)
  { y.takeGot x.next with next := x.next + 1 }

/-- R228, R238: the level of the stop that closes the open run; with depth 1 the flag S has no effect. -/
def Place.closeRun (d : Nat) (c : Cmd) (n1 runs : Nat) (x : Place) : Place :=
  let k := if 2 ≤ d ∧ x.runs % n1 + 1 = n1 then 2 else 1
  x.endRun c.portLow (c.flag 1 && !isReduce c.fused.toNat)
    (c.flag 0 && decide (2 ≤ d) && !isReduce c.fused.toNat) (x.runs + 1 == runs) k

/-- R238: one step of a load of depth d. -/
def State.loadStep (d e p : Nat) (x : Place) (s : State) : State :=
  let c := x.cmd
  let n0 := c.count.toNat
  let (n1, s1, n2, s2) := x.dims d
  let f := c.fused.toNat
  let runs := n1 * n2
  let form : AccForm := if c.flag 3 then .syncRead else .streamRead
  if x.phase = 1 then s.finish e p 0
  else if x.runs = runs then
    if isReduce f then s.emitReduced e p c.portLow f (c.flag 2)
    else s.updPlace e p (fun y => { (y.push c.portLow [.ctl .eos]) with phase := 1 })
  else if x.next = (x.runs + 1) * n0 then s.updPlace e p (Place.closeRun d c n1 runs)
  else if Tab.has x.got x.next then
    s.updPlace e p (Place.passElem c n0 (bitsAt (x.got.look 0 x.next).toNat 0 (8 * c.bytes)))
  else if x.j3 < runs * n0 then
    let a := x.address c.bytes s1 s2
    let b := s.reduceBank e c.space.toNat a c.bytes form
    s.readElem e p c.space.toNat a c.bytes x.j3 form
      (fun y => if isReduce f then { y.chain n0 n1 with pairs := y.pairs ++ [BitVec.ofNat 64 b] } else y.chain n0 n1)
  else s

/-- R236-R238 -/
def execSld1 (c : Cmd) (s : State) : Out := s.runCommand c 0x01 (fun _ => true) id (State.loadStep 1)
/-- R236-R238 -/
def execSld2 (c : Cmd) (s : State) : Out := s.runCommand c 0x02 (fun _ => true) id (State.loadStep 2)
/-- R236-R238 -/
def execSld3 (c : Cmd) (s : State) : Out := s.runCommand c 0x03 (fun _ => true) id (State.loadStep 3)

-- stores ------------------------------------------------------------------------------------------

/-- R239: nothing of the shape is left. -/
def Place.exhausted (n0 n1 n2 : Nat) (x : Place) : Bool := n0 == 0 || n1 == 0 || decide (n2 ≤ x.j2)

/-- R229: what a stop of level k does to a store of depth d with flag S. -/
def Place.stopRun (d n1 n2 k : Nat) (x : Place) : Place :=
  let k := Nat.min k d
  let y : Place :=
    if k = d then { x with j0 := 0, j1 := 0, j2 := Nat.max n2 x.j2 }
    else if k = 1 then
      if x.runFull then x
      else if x.j1 + 1 < n1 then { x with j0 := 0, j1 := x.j1 + 1 }
      else { x with j0 := 0, j1 := 0, j2 := x.j2 + 1 }
    else if x.runFull ∧ x.j1 = 0 then x
    else { x with j0 := 0, j1 := 0, j2 := x.j2 + 1 }
  { y with runFull := false, cur := [] }

/-- The elements of a row, each as a row of its own. -/
def rowParts (size : Nat) (r : Row) : List Row := (rowElems (8 * size) r).map (fun v => BitVec.ofNat 512 v)

/-- R229: the token at the head of an input taken by a store: rows wait in the place, control tokens act at once. -/
def State.takeInput (e p port : Nat) (onStop : Nat → Place → Place) (s : State) : State :=
  match s.inputHead e port with
  | none => s
  | some t =>
    let s1 := (s.consume e port).activity e
    match t.kind with
    | .data => s1.updPlace e p (fun y => { y with inq := t.dataRows })
    | .stop k => s1.updPlace e p (onStop k)
    | .eos => s1.updPlace e p (fun y => { y with eos := true })
    | _ => s1

/-- R239: one step of a store of depth d. -/
def State.storeStep (d e p : Nat) (x : Place) (s : State) : State :=
  let c := x.cmd
  let n0 := c.count.toNat
  let (n1, s1, n2, s2) := x.dims d
  let f := c.fused.toNat
  match x.cur with
  | v :: rest =>
    s.writeElem e p c.space.toNat (x.address c.bytes s1 s2) c.bytes (scaled f v.toNat) (writeKind f) true
      (fun y =>
        let z : Place := { (y.chain n0 n1) with written := y.written + 1 }
        if z.j0 = 0 then { z with cur := [], runFull := true } else { z with cur := rest, runFull := false })
  | [] =>
    match x.inq with
    | r :: rest =>
      if x.exhausted n0 n1 n2 then s.updPlace e p (fun y => { y with inq := rest, surplus := true })
      else s.updPlace e p (fun y => { y with inq := rest, cur := rowParts c.bytes r })
    | [] =>
      if x.eos then
        if s.writesDone e p then s.finish e p (x.written % 2^48 + (if x.surplus then 2^63 else 0)) else s
      else s.takeInput e p (c.portLow - 8) (fun k y => if c.flag 0 then y.stopRun d n1 n2 k else y)

/-- R236, R239 -/
def execSst1 (c : Cmd) (s : State) : Out := s.runCommand c 0x05 (fun _ => true) id (State.storeStep 1)
/-- R236, R239 -/
def execSst2 (c : Cmd) (s : State) : Out := s.runCommand c 0x06 (fun _ => true) id (State.storeStep 2)
/-- R236, R239 -/
def execSst3 (c : Cmd) (s : State) : Out := s.runCommand c 0x07 (fun _ => true) id (State.storeStep 3)

-- gather ------------------------------------------------------------------------------------------

/-- R240: the indices that a token of the input names: its 16 lanes, or the coordinate of a pair. -/
def gathIndices (pair : Bool) (r : Row) : List (BitVec 64) :=
  if pair then [BitVec.ofNat 64 (lane r 0)] else (List.range 16).map (fun j => BitVec.ofNat 64 (lane r j))

/-- R240: the tokens that the gathered elements of one index row form. -/
def gathTokens (size : Nat) (vs : List Nat) : List Token :=
  if size = 4 then [.dat (packRow 32 vs)]
  else if size = 8 then [.dat (packRow 64 (vs.take 8)), .dat (packRow 64 (vs.drop 8))]
  else vs.map (fun v => .dat (BitVec.ofNat 512 v))

/-- R240, R379: the tokens of an index row pushed, each with the pages of its own elements. -/
def Place.pushGathered (port : Nat) (ts : List Token) (n : Nat) (x : Place) : Place :=
  (List.range ts.length).foldl (fun (z : Place) k =>
    ((List.range (n / ts.length)).foldl (fun (y : Place) i => y.marked (n / ts.length * k + i)) z).push port [ts.getD k {}]) x

/-- R240, R231: the elements of the row in hand have all returned. Under a reduce-class operator an index 0xFFFFFFFF contributes nothing: R240 gives its
element zero bits and R118 does not say that they are reduced (log 121). -/
def Place.gathered (c : Cmd) (x : Place) : Place :=
  let f := c.fused.toNat
  let ids := x.pairs.map BitVec.toNat
  let val (k : Nat) : Nat := scaled f (bitsAt (x.got.look 0 k).toNat 0 (8 * c.bytes))
  let vs := (List.range ids.length).map (fun k => if ids.getD k 0 = 0xFFFFFFFF ∧ !(c.flag 0) then 0 else val k)
  let y : Place :=
    if isReduce f then
      (List.range ids.length).foldl (fun (z : Place) k =>
        if ids.getD k 0 = 0xFFFFFFFF then z
        else z.contribute f (x.vas.look 0 (1000 + k)) (bitsAt (x.got.look 0 k).toNat 0 32)) x
    else if c.flag 0 then x.pushGathered c.portLow [.dat (pairRow (ids.headD 0) (vs.headD 0))] 1
    else x.pushGathered c.portLow (gathTokens c.bytes vs) vs.length
  { y with pairs := [], got := [], vas := [], full := [], next := 0 }

/-- R240: one step of a gather, in which only the index row without P skips 0xFFFFFFFF: a row of indices at a time, its reads in order, its tokens when all have returned. -/
def State.gathStep (e p : Nat) (x : Place) (s : State) : State :=
  let c := x.cmd
  let f := c.fused.toNat
  let form : AccForm := if c.flag 3 && !isReduce f then .syncRead else .streamRead
  if x.phase = 1 then s.finish e p 0
  else if x.pairs.isEmpty then
    match x.inq with
    | r :: rest => s.updPlace e p (fun y => { y with inq := rest, pairs := gathIndices (c.flag 0 && !isReduce f) r })
    | [] =>
      match s.inputHead e c.portMid with
      | none => s
      | some t =>
        let s1 := (s.consume e c.portMid).activity e
        if t.kind = .eos then
          if isReduce f then s1.emitReduced e p c.portLow f (c.flag 2)
          else s1.updPlace e p (fun y => { (y.push c.portLow [.ctl .eos]) with phase := 1 })
        else if t.kind = .data then s1.updPlace e p (fun y => { y with inq := t.dataRows })
        else if isReduce f then s1
        else s1.updPlace e p (fun y => y.push c.portLow [t])
  else if x.next < x.pairs.length then
    let i := (x.pairs.getD x.next 0).toNat
    let skip (y : Place) : Place := { y with next := y.next + 1 }
    if i = 0xFFFFFFFF ∧ !(c.flag 0) then s.updPlace e p skip
    else
      let a : Int := (c.addr.toNat : Int) + (i * c.bytes : Nat)
      let b := s.reduceBank e c.space.toNat a c.bytes form
      let k := x.next
      s.readElem e p c.space.toNat a c.bytes k form
        (fun y => skip { y.count with vas := if isReduce f then y.vas.put (1000 + k) b else y.vas })
  else if (List.range x.pairs.length).all (fun k => (!(c.flag 0) && (x.pairs.getD k 0).toNat == 0xFFFFFFFF) || Tab.has x.got k) then
    s.updPlace e p (Place.gathered c)
  else s

/-- R240 -/
def execGath (c : Cmd) (s : State) : Out := s.runCommand c 0x10 (fun _ => true) id State.gathStep

-- scatters ----------------------------------------------------------------------------------------

/-- R241: one step of a scatter: each pair's value is written to, or combined into, the word at a + 4c. -/
def State.scatStep (e p : Nat) (x : Place) (s : State) : State :=
  let c := x.cmd
  let f := c.fused.toNat
  match x.inq with
  | r :: rest =>
    s.writeElem e p c.space.toNat ((c.addr.toNat : Int) + (4 * lane r 0 : Nat)) 4 (scaled f (lane r 1)) (writeKind f) true
      (fun y => { y.count with inq := rest, written := y.written + 1 })
  | [] =>
    if x.eos then (if s.writesDone e p then s.finish e p 0 else s)
    else s.takeInput e p (c.portLow - 8) (fun _ y => y)

/-- R241 -/
def execScat (c : Cmd) (s : State) : Out := s.runCommand c 0x11 (fun _ => true) id State.scatStep
/-- R241 -/
def execScad (c : Cmd) (s : State) : Out := s.runCommand c 0x12 (fun _ => true) id State.scatStep

-- AMOS --------------------------------------------------------------------------------------------

/-- R247: the atomic that the flags name. -/
def amosOp (c : Cmd) : AmoOp :=
  match c.flags.toNat with
  | 0 => .add32 | 1 => .swp32 | 2 => .max32 | 3 => .min32 | 4 => .maxu32 | 5 => .or32 | _ => .and32

/-- R247: the oldest pair whose old value has returned is emitted, or a stop that stands before it. -/
def Place.amosPass (port : Nat) (out : Bool) (x : Place) : Place :=
  let cw := (x.pairs.headD 0).toNat
  let y : Place := { (x.takeGot x.next) with pairs := x.pairs.drop 1, next := x.next + 1 }
  if out then y.push port [.dat (pairRow cw (bitsAt (x.got.look 0 x.next).toNat 0 32))] else y

/-- R247: one step of `AMOS`. A control token waits until the pairs before it have returned, so that the output keeps the order
of the input. -/
def State.amosStep (e p : Nat) (x : Place) (s : State) : State :=
  let c := x.cmd
  let port := c.portMid
  let out := c.portTop
  if x.phase = 1 then s.finish e p 0
  else if Tab.has x.got x.next then s.updPlace e p (Place.amosPass port out)
  else
    match x.inq with
    | r :: rest =>
      s.writeElem e p c.space.toNat ((c.addr.toNat : Int) + (4 * lane r 0 : Nat)) 4 (lane r 1) (fun _ => .amo (amosOp c)) false
        (fun y => { y.count with inq := rest, pairs := y.pairs ++ [BitVec.ofNat 64 (lane r 0)] })
    | [] =>
      if !x.pairs.isEmpty then s
      else if x.eos then
        if s.writesDone e p then
          s.updPlace e p (fun y => { (if out then y.push port [.ctl .eos] else y) with phase := 1 })
        else s
      else s.takeInput e p (c.portLow - 8) (fun k y => if out then y.push port [.ctl (.stop k)] else y)

/-- R247 -/
def execAmos (c : Cmd) (s : State) : Out := s.runCommand c 0x28 (fun _ => true) id State.amosStep

end Sys2Proof.Machine
end

