-- ==== Sys2Proof/Machine/Copies.lean ====
section
/-!
DEFINITION. BM128 streams, copies, templates, tiles and the drain of spill queues (R227, R242-R248, R273, R307-R309,
R338-R344).
-/

namespace Sys2Proof.Machine

-- BM128 -------------------------------------------------------------------------------------------

/-- The places in a chunk's answers of its offset and of its bitmap. -/
def bmEntry : Nat := 200
/-- The place of the first of the four parts of a chunk's bitmap. -/
def bmMap : Nat := 201

/-- R242: a chunk whose stored elements have all returned leaves: dense, or as pairs. -/
def Place.bmChunk (c : Cmd) (n : Nat) (x : Place) : Place :=
  let map := x.shape.toNat
  let stored (k : Nat) : Bool := bitsAt map k 1 == 1
  let rank (k : Nat) : Nat := ((List.range k).filter stored).length
  let val (k : Nat) : Nat := if stored k then bitsAt (x.got.look 0 (rank k)).toNat 0 (8 * c.bytes) else 0
  let y : Place := (List.range 128).foldl (fun (z : Place) k =>
    if c.flag 1 then
      if stored k then ({ z.marked (rank k) with runData := true } : Place).push c.portLow [.dat (pairRow (128 * z.runs + k) (val k))] else z
    else (if stored k then z.marked (rank k) else z).putElem c.portLow c.bytes false false (val k)) x
  { (y.endRun c.portLow false (c.flag 0) (x.runs + 1 == n) 1) with
    got := [], vas := [], full := [], phase := 0, walked := 0, result := 0, shape := 0 }

/-- R242, R273: one step of `BMLD`: a chunk's offset, its bitmap, its stored elements. An entry is a multiple of 4, so the bitmap is read in four
parts. R242 says that the offset must be a multiple of 16 and names no fault: class 5 is a DESIGN CHOICE (log 105). -/
def State.bmldStep (e p : Nat) (x : Place) (s : State) : State :=
  let c := x.cmd
  let n := c.count.toNat
  let sp := c.space.toNat
  let entry : Nat := c.addr.toNat + 4 * x.runs
  let total := ((List.range 128).filter (fun k => bitsAt x.shape.toNat k 1 == 1)).length
  if x.phase = 1 then s.finish e p 0
  else if x.phase = 0 then
    if x.runs = n then s.updPlace e p (fun y => { (y.push c.portLow [.ctl .eos]) with phase := 1 })
    else if Tab.has x.got bmEntry then
      s.updPlace e p (fun y => { (y.takeGot bmEntry) with
        result := entry + bitsAt (y.got.look 0 bmEntry).toNat 0 32, phase := 2, walked := 0 })
    else if x.walked = 0 then
      s.readElem e p sp (entry : Int) 4 bmEntry .streamRead (fun y => { y with walked := 1 })
    else s
  else if x.phase = 2 then
    if (x.result - entry) % 16 ≠ 0 then s.holdPlace e p 5 x.op x.j3 (faultAddr x.result) sp
    else if x.walked < 4 then
      s.readElem e p sp ((x.result + 4 * x.walked : Nat) : Int) 4 (bmMap + x.walked) .streamRead (fun y => { y with walked := y.walked + 1 })
    else if (List.range 4).all (fun k => Tab.has x.got (bmMap + k)) then
      s.updPlace e p (fun y => { y with
        got := [], vas := [], full := [], phase := 3, walked := 0
        shape := BitVec.ofNat 128 (packBits 32 ((List.range 4).map (fun k => (y.got.look 0 (bmMap + k)).toNat))) })
    else s
  else if x.walked < total then
    s.readElem e p sp ((x.result + 16 + x.walked * c.bytes : Nat) : Int) c.bytes x.walked .streamRead
      (fun y => { y.count with walked := y.walked + 1 })
  else if (List.range total).all (fun k => Tab.has x.got k) then
    s.updPlace e p (Place.bmChunk c n)
  else s

/-- R242 -/
def execBmld (c : Cmd) (s : State) : Out := s.runCommand c 0x13 (fun _ => true) id State.bmldStep

-- COPY --------------------------------------------------------------------------------------------

/-- R244: the number of granules of a `COPY`. -/
def copyLen (c : Cmd) : Nat := c.port.toNat * 16 + c.flags.toNat + 1
/-- R244: the signed distance in granules from destination to source. -/
def copyDist (c : Cmd) : Int := sint 27 c.count.toNat

/-- R219, R244: the home operation of a granule of a `COPY`, with the presence of its source words if those are SYNC. -/
def copyKind (full : Option (BitVec 8)) (l : Loc) : ReqKind :=
  if l.virt ∧ l.kind = 1 then (match full with | some m => .copySync m | none => .engine) else .write

/-- R244, R206: one step of a `COPY`: a misaligned destination fails the first check that it fails; every granule is read before the first is written. -/
def State.copyStep (e p : Nat) (x : Place) (s : State) : State :=
  let c := x.cmd
  let n := copyLen c
  let g := c.bytes
  let sp := c.space.toNat
  if x.phase = 0 then
    if c.addr.toNat % g ≠ 0 then
      match s.checkSpace e sp c.addr.toNat g (.streamWrite g) true with
      | .error k => s.holdPlace e p k x.op 0 c.addr.toNat sp
      | .ok _ => s
    else
    if x.j3 < n then
      s.readElem e p sp ((c.addr.toNat : Int) + copyDist c * g + (x.j3 * g : Nat)) g x.j3 .streamRead Place.count
    else if (List.range n).all (fun k => Tab.has x.got k) then
      s.updPlace e p (fun y => { y with phase := 2, j0 := 0, j3 := 0, next := 0, vas := [] })
    else s
  else if x.next < n then
    let full := if Tab.has x.full x.next then some (x.full.look 0 x.next) else none
    s.writeElem e p sp ((c.addr.toNat + x.next * g : Nat) : Int) g (x.got.look 0 x.next).toNat (copyKind full) true
      (fun y => { (y.takeGot y.next).count with next := y.next + 1, written := y.written + 1 })
  else if s.writesDone e p then s.finish e p 0
  else s

/-- R244 -/
def execCopy (c : Cmd) (s : State) : Out := s.runCommand c 0x20 (fun _ => true) id State.copyStep

/-- R245: `CPMS` reads as a load of depth 1 does. -/
def execCpms (c : Cmd) (s : State) : Out := s.runCommand c 0x21 (fun _ => true) id (State.loadStep 1)

/-- R245: one step of `CPSM`. -/
def State.cpsmStep (e p : Nat) (x : Place) (s : State) : State :=
  let c := x.cmd
  let n := c.count.toNat
  if x.eos || x.written == n then (if s.writesDone e p then s.finish e p (x.written * c.bytes) else s)
  else
    match x.cur with
    | v :: rest =>
      s.writeElem e p c.space.toNat ((c.addr.toNat + x.written * c.bytes : Nat) : Int) c.bytes v.toNat (writeKind c.fused.toNat)
        true (fun y => { y.count with cur := rest, written := y.written + 1 })
    | [] =>
      match x.inq with
      | r :: rest => s.updPlace e p (fun y => { y with inq := rest, cur := rowParts c.bytes r })
      | [] => s.takeInput e p (c.portLow - 8) (fun _ y => y)

/-- R245 -/
def execCpsm (c : Cmd) (s : State) : Out := s.runCommand c 0x22 (fun _ => true) id State.cpsmStep

/-- R245: one step of `CPSS`. The `EOS` that it adds after its n-th DATA token is none of the input's. -/
def State.cpssStep (e p : Nat) (x : Place) (s : State) : State :=
  let c := x.cmd
  let n := c.count.toNat
  if x.phase = 2 || x.eos then s.finish e p 0
  else if n ≠ 0 ∧ x.sent = n then s.updPlace e p (fun y => { (y.push c.portLow [.ctl .eos]) with phase := 2 })
  else
    match s.inputHead e c.portMid with
    | none => s
    | some t =>
      ((s.consume e c.portMid).activity e).updPlace e p (fun y => { (y.push c.portLow [t]) with eos := t.kind == .eos })

/-- R245 -/
def execCpss (c : Cmd) (s : State) : Out := s.runCommand c 0x23 (fun _ => true) id State.cpssStep

-- small reads -------------------------------------------------------------------------------------

/-- Whether requests of an AGE still stand before a read of its own small blocks (R252), or a bank row does (R286). -/
def State.pullWaits (s : State) (e : Nat) (a : Nat) (n : Nat) : Bool :=
  s.reqs.any (fun q => q.writes && q.agent.ageOf == some e) ||
  (s.elem e).age.spills.any (fun q => overlaps q.va.toNat q.size a n)

/-- R226: an aligned word of `size` bytes read at once; the class of the failure otherwise. -/
def State.pull (s : State) (e : Nat) (a size : Nat) (form : AccForm) : Except Nat Nat :=
  match s.checkSpace e 4 (a : Int) size form false with
  | .error c => .error c
  | .ok l => if s.isBad l.home size then .error 7 else .ok ((s.underKey l.key l.home size).seen (dieOf (panelOf e)) l.home size)

/-- Consecutive words read at once, or the first that fails, with its class. -/
def State.pullWords (s : State) (e a size : Nat) (form : AccForm) : Nat → Nat → Except (Nat × Nat) (List Nat)
  | 0, _ => .ok []
  | n + 1, i =>
    match s.pull e (a + size * i) size form with
    | .error c => .error (c, i)
    | .ok v =>
      match s.pullWords e a size form n (i + 1) with
      | .error x => .error x
      | .ok l => .ok (v :: l)

-- templates ---------------------------------------------------------------------------------------

/-- R342: the template that a signal-class command names. -/
def cmdTemplate (c : Cmd) : Nat := c.count.toNat % 256

/-- R342, R343: the owner check. -/
def State.owns (s : State) (t job : Nat) : Bool := (s.template t).owned && (s.template t).owner == job

/-- R342: whether a parameter block is one that `TARM` takes. -/
def blockOk (v : Nat) : Bool :=
  (match decodeCmd (v % 2^128) with
   | .ok _ => (let op := bitsAt v 120 8; decide (0x20 ≤ op) && decide (op ≤ 0x23)) && bitsAt v 91 5 == 0
   | .error _ => false) && bitsAt v 150 106 == 0

/-- R342: the trigger and done queues of a block suit the AGE. -/
def State.blockQueues (s : State) (t job panel v : Nat) : Bool :=
  let q := bitsAt v 128 10
  let d := bitsAt v 139 10
  (bitsAt v 138 1 == 0 || ((s.queue q).valid && (s.queue q).cls == 2 && s.queueReaches q job panel &&
    (match (s.queue q).bound with | some u => u == t | none => true))) &&
  (bitsAt v 149 1 == 0 || ((s.queue d).valid && (s.queue d).cls != 1 && s.queueReaches d job panel))

/-- R342: entry t takes its block, and its trigger queue is bound. -/
def State.arm (t e strand v : Nat) (s : State) : State :=
  let s1 := s.disarm t
  let q := bitsAt v 128 10
  let trig := bitsAt v 138 1 == 1
  let s2 := s1.updTemplate t (fun x => { x with
    snapshot := BitVec.ofNat 128 v, trigger := q, trigValid := trig, doneQ := bitsAt v 139 10, doneValid := bitsAt v 149 1 == 1
    age := e, offset := ((s.strand strand).offsetOf (panelOf e)).getD 0, strand, armed := true, dormant := false })
  if trig then s2.setQueue q { s2.queue q with bound := some t, template := t } else s2

/-- R342: one step of `TARM`: the four words of the block are read one after another and checked once, then it waits for a firing in progress, then
arms. -/
def State.tarmStep (e p : Nat) (x : Place) (s : State) : State :=
  let c := x.cmd
  let a := c.addr.toNat
  let t := cmdTemplate c
  let job := (s.strand x.strand).job
  if x.phase = 2 then
    (if (s.template t).firing then s
     else (s.arm t e x.strand (packBits 64 (x.pairs.map BitVec.toNat))).finish e p 0)
  else if s.pullWaits e a 32 then s
  else
    match s.checkSpace e 4 (a : Int) 32 .streamRead false with
    | .error k => s.holdPlace e p k x.op 0 a 4
    | .ok _ =>
      let v := packBits 64 (x.pairs.map BitVec.toNat)
      if x.pairs.length < 4 then
        match s.pull e (a + 8 * x.pairs.length) 8 .streamRead with
        | .error k => s.holdPlace e p k x.op 0 a 4
        | .ok w => s.updPlace e p (fun y => { y with pairs := y.pairs ++ [BitVec.ofNat 64 w] })
      else if !(s.owns t job) then s.holdPlace e p 3 x.op 0 a 4
      else if !(blockOk v) then s.holdPlace e p 1 x.op 0 a 4
      else if !(s.blockQueues t job (s.strand x.strand).lead v) then s.holdPlace e p 3 x.op 0 a 4
      else if (s.template t).firing then
        s.updPlace e p (fun y => { y with phase := 2 })
      else (s.arm t e x.strand v).finish e p 0

/-- R342 -/
def execTarm (c : Cmd) (s : State) : Out := s.runCommand c 0x24 (fun _ => true) id State.tarmStep

/-- R343: one step of `TDIS`. -/
def State.tdisStep (e p : Nat) (x : Place) (s : State) : State :=
  let t := cmdTemplate x.cmd
  if !(s.owns t (s.strand x.strand).job) then s.holdPlace e p 3 x.op 0 0 0
  else if (s.template t).firing then s
  else if (s.template t).armed then (s.disarm t).finish e p 0
  else s.finish e p 0

/-- R343 -/
def execTdis (c : Cmd) (s : State) : Out := s.runCommand c 0x25 (fun _ => true) id State.tdisStep

/-- R344: entry t's firing takes place p of its AGE; an invalid barrier of its snapshot is the AGE's fault (R363). -/
def State.fire (t p : Nat) (by_ : Option (Nat × Nat)) (s : State) : State :=
  let x := s.template t
  let e := x.age
  let c := cmdFields x.snapshot.toNat
  let op := bitsAt x.snapshot.toNat 120 8
  match barrierOf c.fused.toNat (dieOf (panelOf e)) with
  | some b =>
    if (s.barrier b).valid && (s.barrier b).job == (s.strand x.strand).job then begin_ e x by_ s
    else s.raisePort e 3 op 0 c.addr.toNat c.space.toNat
  | none => begin_ e x by_ s
where
  /-- The firing's place and the entry's mark. -/
  begin_ (e : Nat) (x : Template) (by_ : Option (Nat × Nat)) (s : State) : State :=
    (s.setPlace e p { active := true, strand := x.strand, raw := x.snapshot, template := some t }).updTemplate t
      (fun y => { y with firing := true, fired := by_ })

/-- R246: one step of `TFIR`: it fires, and completes with the copy that it fired. -/
def State.tfirStep (e p : Nat) (x : Place) (s : State) : State :=
  let t := cmdTemplate x.cmd
  if x.phase = 2 then (if (s.template t).fired = some (e, p) then s else s.finish e p 0)
  else if !(s.owns t (s.strand x.strand).job) then s.holdPlace e p 3 x.op 0 0 0
  else if !(s.template t).armed then s.finish e p 1
  else
    match s.mayFire t with
    | none => s
    | some q =>
      let s1 := s.fire t q (some (e, p))
      if (s1.template t).firing then s1.updPlace e p (fun y => { y with phase := 2 }) else s1

/-- R246 -/
def execTfir (c : Cmd) (s : State) : Out := s.runCommand c 0x26 (fun _ => true) id State.tfirStep

/-- R307, R344: a message at the head of the bound queue of an armed entry fires it and is consumed. -/
def execTemplateFiring (t : Nat) (s : State) : Out :=
  let x := s.template t
  let q := x.trigger
  let s1 := s.refill q
  if !x.trigValid || (s.queue q).bound != some t || (s1.queue q).count == 0 || (s.rowHeld && (s.queue q).spillCount != 0) then .next s
  else
    match s1.mayFire t with
    | none => .next s
    | some p =>
      let s2 := s1.fire t p none
      .next (if (s2.template t).firing then s2.popRing q else s2)

/-- R344: the done push of a completed firing, with the entry's number and no weight, once there is room. -/
def execTemplateDonePush (t : Nat) (s : State) : Out :=
  let x := s.template t
  let done : State → State := fun s => s.updTemplate t (fun y => { y with pushOwed := false, firing := false })
  let q := x.doneQ
  if !x.pushOwed then .next s
  else if !(s.queue q).valid then .next (done s)
  else if s.queueFull q then .next s
  else
    match s.append q t with
    | .error _ => .next s
    | .ok s1 => .next (done s1)

-- tiles -------------------------------------------------------------------------------------------

/-- R248: the space of the scratch tile of a tile command. -/
def tileSpace (c : Cmd) : Nat := c.port.toNat / 16

/-- R338: the state of the tile that a command names; a tile that does not exist reads as the state it waits for, so that its
access fails (R206). -/
def State.tileIs (s : State) (e : Nat) (c : Cmd) (want : Nat) : Bool :=
  match s.checkChip e (tileSpace c) c.count.toNat 64 with
  | .ok l => (match tileKey l.home with | some k => s.tiles.look 0 k == want | none => true)
  | .error _ => true

/-- R338: the state of the tile that a command names set. -/
def State.setTile (e : Nat) (c : Cmd) (v : Nat) (s : State) : State :=
  match s.checkChip e (tileSpace c) c.count.toNat 64 with
  | .ok l => (match tileKey l.home with | some k => { s with tiles := s.tiles.put k v } | none => s)
  | .error _ => s

/-- R248: a tile command starts when its tile stands as it asks, and the tile's entry becomes filling or draining as it does. -/
def State.startTile (op want moving : Nat) (c : Cmd) (s : State) : Out :=
  let e := s.site.elem
  match s.startCommand c op (fun s => s.tileIs e c want) id with
  | .next t => .next (if (t.elem e).age.started = (s.elem e).age.started then t else t.setTile e c moving)
  | o => o

/-- R248, R187: one step of a tile command: 16 rows from one side to the other, one after another. -/
def State.tileStep (after : Cmd → Nat) (toTile : Bool) (e p : Nat) (x : Place) (s : State) : State :=
  let c := x.cmd
  let mem (r : Nat) : Nat × Int := (c.space.toNat, ((c.addr.toNat + 64 * r : Nat) : Int))
  let tile (r : Nat) : Nat × Int := (tileSpace c, ((c.count.toNat + 64 * r : Nat) : Int))
  let src := if toTile then mem else tile
  let dst := if toTile then tile else mem
  if Tab.has x.got x.next then
    s.writeElem e p (dst x.next).1 (dst x.next).2 64 (x.got.look 0 x.next).toNat (writeKind c.fused.toNat) (!toTile)
      (fun y => { (y.takeGot y.next).count with next := y.next + 1, written := y.written + 1 })
  else if x.walked < 16 ∧ x.walked = x.next then
    s.readElem e p (src x.next).1 (src x.next).2 64 x.next .streamRead (fun y => { y with walked := y.walked + 1 })
  else if x.next = 16 ∧ s.writesDone e p then (s.setTile e c (after c)).finish e p 0
  else s

/-- R248: `TFIL` -/
def execTfil (c : Cmd) (s : State) : Out :=
  match s.site.place with
  | none => s.startTile 0x2C 0 1 c
  | some _ => s.advancePlace (State.tileStep (fun _ => 2) true)
/-- R248: `TDRN` -/
def execTdrn (c : Cmd) (s : State) : Out :=
  match s.site.place with
  | none => s.startTile 0x2D 2 3 c
  | some _ => s.advancePlace (State.tileStep (fun c => if c.flag 0 then 2 else 0) false)

-- the drain of a spill queue ------------------------------------------------------------------------

/-- R309, R227: the oldest spilled write leaves the queue; with the last one the spilled bit clears, and the commands that diverted go on. -/
def Age.spillOut (cyc : BitVec 64) (a : Age) : Age :=
  let rest := a.spills.drop 1
  { a with
    spills := rest, drainAt := cyc + 1, port := if rest.isEmpty then a.port &&& ~~~0x10 else a.port
    places := if rest.isEmpty then a.places.map (fun (p : Nat × Place) => (p.1, { p.2 with spilled := false })) else a.places }

/-- The home operation of a spilled write. -/
def Spill.kind (x : Spill) (l : Loc) : ReqKind := if x.op = 0x20 then copyKind x.full l else writeKind x.fused l

/-- R309, R227, R315 move 12: an attempt on the oldest spilled write of an AGE. It is issued as it leaves the queue, behind the spilled writes before
it (R252), or with `prompt` performed at once (log 2). -/
def execSpillDrainAttempt (s : State) : Out :=
  let age := s.site.elem
  let a := (s.elem age).age
  match a.spills with
  | [] => .next s
  | x :: _ =>
    let va := x.va.toNat
    if a.spillHeld || s.cyc.ult a.drainAt || s.walkWaits (.age age) (dieOf (panelOf age)) (s.strand (s.place age x.place).strand).job va then .next s
    else
      let form : AccForm := if isCombine x.fused then .combine else .streamWrite x.size
      let fail (cls addr : Nat) : State :=
        (s.updAge age (fun a => { a with spillHeld := true })).raisePort age cls x.op x.index addr 4
      let later : State := s.updAge age (fun a => { a with drainAt := s.cyc + 256 })
      match s.checkSpace age 4 (va : Int) x.size form true with
      | .error c => .next (if c = 2 then later else fail c va)
      | .ok l =>
        let r : Req := { s.placeReq age x.place x.index l va x.size (x.kind l) x.data.toNat with agent := .spill age x.place, bar := x.bar }
        if form == .combine && s.isBad l.home x.size then .next (fail 7 va)
        else if s.prompt then
          match s.performNow r with
          | (s1, .value _) => .next (s1.updAge age (Age.spillOut s1.cyc))
          | (_, .refused w) => .next (fail 6 (va + (w - l.home)))
          | (_, .wait) => .next s
        else
          match (if r.kind.fills then (wordsOf l.home x.size).find? s.isFull else none) with
          | some w => .next (fail 6 (va + (w - l.home)))
          | none => .next ((s.issue r).updAge age (Age.spillOut s.cyc))

end Sys2Proof.Machine
end

