-- ==== Sys2Proof/Machine/Residency.lean ====
section
/-!
DEFINITION. Residency and translation commands and fret loads (R213, R249-R251, R336, R337, R346).
-/

namespace Sys2Proof.Machine

/-- R213: the quota and the locked count of a job on a die. -/
def State.quota (s : State) (die job : Nat) : Nat × Nat := s.quotas.look (0, 0) (die * 64 + job)

/-- R213: the locked count of a job on a die changed. -/
def State.countLocked (die job n : Nat) (s : State) : State :=
  { s with quotas := s.quotas.put (die * 64 + job) ((s.quota die job).1, n) }

/-- R213: locked ways of a line's set. -/
def State.lockedWays (s : State) (die line : Nat) : Nat :=
  (s.dieLines.filter (fun d => d.die == die && d.lock.isSome && l2Set d.line == l2Set line)).length

/-- R213: whether a line can be locked for a job; a BANKLINEAR line is never in an L2 (R279). -/
def State.lockable (s : State) (die job line kind : Nat) : Bool :=
  match (s.dieLine die line).bind (fun d => d.lock) with
  | some j => j == job
  | none => kind != 3 && decide (s.lockedWays die line ≤ 14) && decide ((s.quota die job).2 < (s.quota die job).1)

/-- R213: a line locked: filled where it is absent, a way freed for it, with its lock and holder. -/
def State.lockLine (die job line key : Nat) (s : State) : State :=
  match (s.dieLine die line).bind (fun d => d.lock) with
  | some _ => s
  | none =>
    let s1 := s.makeRoom die line
    let d : DieLine := (s1.dieLine die line).getD { die, line, key }
    (s1.putLine 0 { d with data := (s1.underKey key (128 * line) 128).lineSeen die line, present := 3, lock := some job }).countLocked die job
      ((s1.quota die job).2 + 1)

/-- R213: a line that the job has locked is released. -/
def State.unlockLine (die job line : Nat) (s : State) : State :=
  match s.dieLine die line with
  | some d =>
    if d.lock = some job then (s.putLine 0 { d with lock := none }).countLocked die job ((s.quota die job).2 - 1) else s
  | none => s

/-- R226, R250: the line at an address of a residency command. -/
def State.lineAt (s : State) (e : Nat) (a : Nat) : Except Nat Loc :=
  match s.checkSpace e 4 (a : Int) 128 .streamRead false with
  | .ok l => .ok l
  | .error c => .error c

/-- R211, R225: the write-backs that stand in home queues since a request number, by which a `LOCK` has made room. -/
def State.sentSince (s : State) (id : Nat) : List (BitVec 64) :=
  (s.reqs.filter (fun r => r.isSector && decide (id ≤ r.id))).map (fun r => BitVec.ofNat 64 r.id)

/-- R250, R225: one step of `LOCK`: the next line; at the end it waits until the write-backs that it caused are performed. -/
def State.lockStep (e p : Nat) (x : Place) (s : State) : State :=
  let c := x.cmd
  let die := dieOf (panelOf e)
  let job := (s.strand x.strand).job
  if x.j3 = c.count.toNat then
    if s.reqs.any (fun r => r.isSector && x.pairs.contains (BitVec.ofNat 64 r.id)) then s
    else s.finish e p (x.written % 2^32 + (x.walked % 2^32) * 2^32)
  else
    let a := c.addr.toNat + 128 * x.j3
    match s.lineAt e a with
    | .error k => s.holdPlace e p k x.op x.j3 (faultAddr a) 4
    | .ok l =>
      let line := l.home / 128
      if s.lockable die job line l.kind then
        let s1 := s.lockLine die job line l.key
        s1.updPlace e p (fun y => { y.count with written := y.written + 1, pairs := y.pairs ++ s1.sentSince s.fresh })
      else s.updPlace e p (fun y => { y.count with walked := y.walked + 1 })

/-- R250 -/
def execLock (c : Cmd) (s : State) : Out := s.runCommand c 0x31 (fun _ => true) id State.lockStep

/-- R250: one step of `UNLK`. -/
def State.unlkStep (e p : Nat) (x : Place) (s : State) : State :=
  let c := x.cmd
  let die := dieOf (panelOf e)
  let job := (s.strand x.strand).job
  if x.j3 = c.count.toNat then s.finish e p (x.written % 2^32)
  else
    let a := c.addr.toNat + 128 * x.j3
    match s.lineAt e a with
    | .error k => s.holdPlace e p k x.op x.j3 (faultAddr a) 4
    | .ok l =>
      let line := l.home / 128
      let mine := (s.dieLine die line).bind (fun d => d.lock) == some job
      (s.unlockLine die job line).updPlace e p (fun y => { y.count with written := y.written + (if mine then 1 else 0) })

/-- R250 -/
def execUnlk (c : Cmd) (s : State) : Out := s.runCommand c 0x32 (fun _ => true) id State.unlkStep

/-- R249: a fill of a line requested, both its sectors, and with `stream` of the panel's stream buffer too; a line that cannot be filled is dropped.
Neither cache holds a BANKLINEAR line (R279). -/
def State.prefetch (e : Nat) (a : Nat) (stream : Bool) (s : State) : State :=
  match s.lineAt e a with
  | .error _ => s
  | .ok l =>
    if l.kind ≠ 0 ∨ s.isBad l.home 128 then s
    else
      let die := dieOf (panelOf e)
      let job := (s.strand (s.strandOf e)).job
      let s1 := s.fillDie { home := l.home, size := 128, die, policy := l.policy, key := l.key }
      if !stream then s1
      else if (s.streamHit (panelOf e) job a).isSome then s1.touchStream (panelOf e) job a false
      else
        { s1 with streamLines := putStream { panel := panelOf e, job, line := a / 128
                                             data := (s.underKey l.key l.home 128).lineSeen die (l.home / 128) } s1.streamLines }

/-- R249: one step of `PREF`. -/
def State.prefStep (e p : Nat) (x : Place) (s : State) : State :=
  let c := x.cmd
  if x.j3 = c.count.toNat then s.finish e p 0
  else (s.prefetch e (c.addr.toNat / 128 * 128 + 128 * x.j3) (c.flag 0)).updPlace e p Place.count

/-- R249 -/
def execPref (c : Cmd) (s : State) : Out := s.runCommand c 0x30 (fun _ => true) id State.prefStep

/-- R251: a line flushed: its dirty sectors go home, behind those sent there before; with INV an unlocked line goes. -/
def State.flushLine (die line : Nat) (inv : Bool) (s0 : State) : State :=
  let s := s0.serveQueued (s0.bankOf (128 * line))
  match s.dieLine die line with
  | none => s
  | some d =>
    let s1 := if d.changed = 0 then s else s.gather line
    if inv then { s1 with dieLines := s1.dieLines.filter (fun x => !(x.die == die && x.line == line && x.lock.isNone)) } else s1

/-- R251: one step of `FLSH`; a line whose translation fails is skipped. -/
def State.flshStep (e p : Nat) (x : Place) (s : State) : State :=
  let c := x.cmd
  if x.j3 = c.count.toNat then s.finish e p 0
  else
    let s1 := match s.lineAt e (c.addr.toNat + 128 * x.j3) with
      | .error _ => s
      | .ok l => s.flushLine (dieOf (panelOf e)) (l.home / 128) (c.flag 0)
    s1.updPlace e p Place.count

/-- R251 -/
def execFlsh (c : Cmd) (s : State) : Out := s.runCommand c 0x33 (fun _ => true) id State.flshStep

-- translation -------------------------------------------------------------------------------------

/-- R336: whether an address lies in the range of an `XINV`; ALL takes every address. -/
def xinvCovers (c : Cmd) (va : Nat) : Bool :=
  c.flag 0 || (decide (c.addr.toNat ≤ va) && decide (va < c.addr.toNat + 65536 * c.count.toNat))

/-- R336: whether a cached leaf belongs to the range, any page of a 128 MiB leaf counting, or a walk-cache entry leads to it. -/
def Tlb.touches (c : Cmd) (t : Tlb) : Bool :=
  c.flag 0 ||
  (let n := if t.level ≠ 0 then 2^(44 - 11 * t.level) else if t.big then 2048 else 1
   overlaps (t.page / n * n) n (c.addr.toNat / 65536) c.count.toNat)

/-- R336 steps 1 and 2: translations and stream-buffer lines of a range purged everywhere. -/
def State.purge (job : Nat) (c : Cmd) (s : State) : State :=
  { s with
    tlbs := s.tlbs.filter (fun t => !(t.job == job && t.touches c))
    streamLines := s.streamLines.filter (fun l => !(l.job == job && xinvCovers c (128 * l.line))) }

/-- R336 step 3: an access made under a purged translation is still to be performed, a write that rests at a die point included. `limit` bounds the
requests that are older than the purge. -/
def State.purgeWaits (s : State) (job limit : Nat) (c : Cmd) : Bool :=
  let meets (l : List (Nat × Nat)) : Bool := l.any (fun g => g.1 == job && xinvCovers c (65536 * g.2))
  s.reqs.any (fun q => if q.isSector then meets q.pages
    else q.virt && q.stage != .deferred && q.stage != .returned && decide (q.id < limit) && q.job == job && xinvCovers c q.va) ||
  s.dieLines.any (fun d => d.changed != 0 && meets d.pages) ||
  s.banks.any (fun b =>
    let meets (r : BankRun) : Bool := r.job == job && (c.flag 0 || overlaps r.va r.bytes c.addr.toNat (65536 * c.count.toNat))
    b.2.waiting.any meets || (match b.2.running with | some r => meets r | none => false)) ||
  s.stitches.any (fun u => u.2.queue.any (fun o => o.job == job) || !u.2.writes.isEmpty)

/-- R336: one step of `XINV`. At its end the stream buffers are purged once more, of lines that reads under the old mapping have left there. -/
def State.xinvStep (e p : Nat) (x : Place) (s : State) : State :=
  let c := x.cmd
  let job := (s.strand x.strand).job
  if x.phase = 0 then
    (s.purge job c).updPlace e p (fun y => { y with phase := 2, result := s.fresh })
  else if s.purgeWaits job x.result c then s
  else (s.purge job c).finish e p 0

/-- R336 -/
def execXinv (c : Cmd) (s : State) : Out := s.runCommand c 0x38 (fun _ => true) id State.xinvStep

/-- R337: a page walked, and its leaf installed in the AGE's cache and its die's. -/
def State.installPage (e job va : Nat) (s : State) : Option State :=
  if 2^60 ≤ va then none
  else
    match s.walkOn (dieOf (panelOf e)) job va with
    | none => none
    | some (v, big) =>
      let mk (o : TlbOwner) : Tlb := { owner := o, job, page := va / 65536, big, pte := BitVec.ofNat 64 v }
      some { s with tlbs := mk (.age e) :: mk (.die (dieOf (panelOf e))) :: s.tlbs }

/-- R337: one step of `XPRE`. -/
def State.xpreStep (e p : Nat) (x : Place) (s : State) : State :=
  let c := x.cmd
  let job := (s.strand x.strand).job
  if x.j3 = c.count.toNat then s.finish e p (x.written % 2^32 + (x.walked % 2^32) * 2^32)
  else
    match s.installPage e job (c.addr.toNat + 65536 * x.j3) with
    | some s1 => s1.updPlace e p (fun y => { y.count with written := y.written + 1 })
    | none => s.updPlace e p (fun y => { y.count with walked := y.walked + 1 })

/-- R337 -/
def execXpre (c : Cmd) (s : State) : Out := s.runCommand c 0x39 (fun _ => true) id State.xpreStep

-- fret banks --------------------------------------------------------------------------------------

/-- R346: one bit of the CRC-32 of IEEE 802.3, reflected. -/
def crcBit (c : Nat) : Nat := if c % 2 = 1 then (c / 2) ^^^ 0xEDB88320 else c / 2
/-- R346: one byte taken into a CRC-32. -/
def crcByte (c : Nat) (b : Byte) : Nat := crcBit (crcBit (crcBit (crcBit (crcBit (crcBit (crcBit (crcBit (c ^^^ b.toNat))))))))
/-- R346: the CRC-32 of bytes in address order. -/
def crc32 (l : List Byte) : Nat := (l.foldl crcByte 0xFFFFFFFF) ^^^ 0xFFFFFFFF

/-- R346: the fret bank loaded with words, and its record. -/
def fretOf (src : Nat) (ws : List Nat) : Fret :=
  let ks := List.range ws.length
  { vals := ks.map (fun k => (k, BitVec.ofNat 64 (ws.getD k 0))), valid := ks.map (fun k => (k, true))
    source := BitVec.ofNat 60 src, countM1 := BitVec.ofNat 8 (ws.length - 1), loaded := true
    checksum := BitVec.ofNat 32 (crc32 (ws.flatMap (toBytes 8))) }

/-- R346: one step of `CBLD`: the words are read, then it waits until its bank is inactive, fills it and sends the swap token; the record
of the load changes as it completes (R345, R347). -/
def State.cbldStep (e p : Nat) (x : Place) (s : State) : State :=
  let c := x.cmd
  let v := c.count.toNat
  let n := v % 256 + 1
  let t := s.strand x.strand
  let k := bitsAt v 14 7
  let elemNo := bitsAt v 8 6
  let target := t.panelAt k * 64 + elemNo
  let b := if c.flag 0 then 1 else 0
  let a := c.addr.toNat
  let f := fretOf a (x.pairs.map BitVec.toNat)
  if x.phase = 1 then (s.updElem target (fun y => { y with frets := y.frets.put b f })).finish e p f.checksum.toNat
  else if t.width * t.height ≤ k ∨ kindAt elemNo = .se ∨ kindAt elemNo = .age then s.holdPlace e p 2 x.op 0 a 4
  else if x.pairs.length < n then
    let i := x.pairs.length
    if s.pullWaits e (a + 8 * i) 8 then s
    else
      match s.pull e (a + 8 * i) 8 .fetch with
      | .error cls => s.holdPlace e p cls x.op i (faultAddr (a + 8 * i)) 4
      | .ok w => s.updPlace e p (fun y => { y with pairs := y.pairs ++ [BitVec.ofNat 64 w], j3 := i + 1 })
  else if (s.elem target).active = c.flag 0 then s
  else
    (s.updElem target (fun y => { y with frets := y.frets.put b { y.fret b with vals := f.vals, valid := f.valid } })).updPlace e p (fun y =>
      let z : Place := { y with phase := 1 }
      if c.portTop then z.push c.portLow [.beat .swap (BitVec.ofNat 512 b)] else z)

/-- R346 -/
def execCbld (c : Cmd) (s : State) : Out := s.runCommand c 0x58 (fun _ => true) id State.cbldStep

end Sys2Proof.Machine
end

