-- ==== Sys2Proof/Machine/Fibres.lean ====
section
/-!
DEFINITION. Fibres (R253-R271, R326): heads, pools and chunks, what a stitch unit does, and registration.
-/

namespace Sys2Proof.Machine

/-- R255, R256: no chunk. -/
def noChunk : Nat := 0xFFFFFFFF

/-- R256: a fibre head. -/
structure FHead where
  chunk : Nat := noChunk
  count : Nat := 0
  version : Nat := 0
  pool : Nat := 0
  type : Nat := 0
  op : Nat := 0
  valid : Bool := false
  dflt : Nat := 0
  deriving DecidableEq, Repr, Inhabited

/-- R256: the fields of a head record. -/
def headOf (v : Nat) : FHead :=
  { chunk := bitsAt v 0 32, count := bitsAt v 32 32, version := bitsAt v 64 16, pool := bitsAt v 80 8, type := bitsAt v 88 2
    op := bitsAt v 90 3, valid := bitsAt v 95 1 == 1, dflt := bitsAt v 96 32 }
/-- R256: the record of a head. -/
def FHead.bits (h : FHead) : Nat :=
  h.chunk + h.count * 2^32 + h.version % 2^16 * 2^64 + h.pool * 2^80 + h.type * 2^88 + h.op * 2^90 +
  (if h.valid then 2^95 else 0) + h.dflt * 2^96

/-- R253: a pool descriptor, with its home address. -/
structure FPool where
  at_ : Nat := 0
  base : Nat := 0
  cap : Nat := 0
  bump : Nat := 0
  free : Nat := noChunk
  freeCount : Nat := 0
  valid : Bool := false
  deriving DecidableEq, Repr, Inhabited

/-- R253: the fields of a pool descriptor. -/
def poolOf (a v : Nat) : FPool :=
  { at_ := a, base := bitsAt v 0 60, cap := bitsAt v 64 32, bump := bitsAt v 96 32, free := bitsAt v 128 32
    freeCount := bitsAt v 160 32, valid := bitsAt v 192 1 == 1 }

/-- R255: a chunk as a walk or a merge holds it; `fresh` numbers a chunk that the merge makes. -/
structure FChunk where
  idx : Nat := 0
  pa : Nat := 0
  next : Nat := noChunk
  version : Nat := 0
  pairs : List (Nat × Nat) := []
  fresh : Option Nat := none
  dirty : Bool := false
  deriving DecidableEq, Repr, Inhabited

/-- R255: the count field of a chunk. -/
def chunkCount (v : Nat) : Nat := bitsAt v 32 3
/-- R255: the fields of a chunk. -/
def chunkOf (idx pa v : Nat) : FChunk :=
  { idx, pa, next := bitsAt v 0 32, version := bitsAt v 48 16
    pairs := (List.range (chunkCount v)).map (fun j => (bitsAt v (128 + 64 * j) 32, bitsAt v (160 + 64 * j) 32)) }
/-- R255: the bits of a chunk. -/
def chunkBits (next version : Nat) (ps : List (Nat × Nat)) : Nat :=
  next + ps.length * 2^32 + version % 2^16 * 2^48 + (ps.headD (0, 0)).1 * 2^64 + (ps.getLastD (0, 0)).1 * 2^96 +
  packBits 64 (ps.map (fun q => q.1 + q.2 * 2^32)) * 2^128

/-- R260: costs added. -/
def Cost.add (a b : Cost) : Cost :=
  { read := a.read + b.read, written := a.written + b.written, splits := a.splits + b.splits, allocs := a.allocs + b.allocs
    combined := a.combined + b.combined }
/-- R260: the cost word, whose fields saturate. -/
def Cost.word (c : Cost) : Nat :=
  Nat.min c.read 255 + Nat.min c.written 255 * 2^8 + Nat.min c.splits 15 * 2^16 + Nat.min c.allocs 15 * 2^20 +
  Nat.min c.combined 255 * 2^24
/-- R260: the reply of a fibre command. -/
def fibReply (c : Cost) (result : Nat) : Nat := c.word + result % 2^32 * 2^32

-- combining ---------------------------------------------------------------------------------------

/-- R258: whether a value type accepts an operator. -/
def fibAccepts (type op : Nat) : Bool :=
  match type with
  | 0 => op == 0 || op == 2 || op == 3 || op == 4 || op == 5 || op == 6
  | 1 => op == 1 || op == 4 || op == 5 || op == 6
  | 2 => op == 0 || op == 2 || op == 3 || op == 4 || op == 5 || op == 6 || op == 7
  | _ => false

/-- R258: an operator on one floating-point value. -/
def fibFloat (f : FFmt) (op x v : Nat) : Nat := if op = 0 then f.add .rne x v else if op = 2 then f.max x v else f.min x v

/-- R258: Combine(x, v). -/
def fibCombine (type op x v : Nat) : Nat :=
  if op = 4 then v
  else if op = 5 then x
  else if op = 6 then x ||| v
  else if op = 7 then (if x / 65536 ≤ v / 65536 then v else x)
  else if type = 1 then (x + v) % 2^32
  else if type = 0 then fibFloat fp32 op x v
  else fibFloat bf16 op (x % 65536) (v % 65536) + fibFloat bf16 op (x / 65536) (v / 65536) * 65536

/-- R259: the default value that a code of `FNEW` gives. -/
def fibDefault (type code : Nat) : Nat :=
  let both (h : Nat) : Nat := h * 65537
  match code with
  | 0 => 0
  | 1 => (match type with | 0 => fp32.inf false | 1 => 0x7FFFFFFF | _ => both (bf16.inf false))
  | 2 => (match type with | 0 => fp32.inf true | 1 => 0x80000000 | _ => both (bf16.inf true))
  | _ => (match type with | 0 => fp32.nan | 1 => 0xFFFFFFFF | _ => both bf16.nan)

-- access ------------------------------------------------------------------------------------------

/-- R226, R217: a fibre command's access to a FIBRE page: its tagged address, or the class of the failure. -/
def State.fibAt (s : State) (e job va size : Nat) (write : Bool) : Except Nat Nat :=
  match s.checkVirt (.age e) (dieOf (panelOf e)) job va size (if write then .fibreWrite else .fibre) write with
  | .error x => .error x.portClass
  | .ok l => if s.isBad l.pa size then .error 7 else .ok l.tag

/-- R226, R263: where a fibre's head stands, as a reader registers by it before it reads it; or the class of the failure. -/
def State.fibSite (s : State) (e job f : Nat) : Except Nat Nat :=
  match s.checkVirt (.age e) (dieOf (panelOf e)) job f 8 .fibre false with
  | .error x => .error x.portClass
  | .ok l => .ok l.tag

/-- R256, R261: the head of a fibre with its home address; the class and address of a failure. -/
def State.fibHead (s : State) (e job f : Nat) (write : Bool) : Except (Nat × Nat) (Nat × FHead) :=
  match s.fibAt e job f 8 write with
  | .error c => .error (c, f)
  | .ok pa => if f % 16 ≠ 0 then .error (9, f) else if s.isBad (pa % 2^64) 16 then .error (7, f) else .ok (pa, headOf (s.peekTag pa 16))

/-- R253, R261: the pool of a fibre. -/
def State.fibPool (s : State) (e job f n : Nat) (write : Bool) : Except (Nat × Nat) FPool :=
  let va := (s.job job).poolTab.toNat + 32 * n
  match s.fibAt e job va 32 write with
  | .error c => .error (c, va)
  | .ok pa =>
    let q := poolOf pa (s.peekTag pa 32)
    if q.valid then .ok q else .error (9, f)

/-- R257: the stitch unit that serves a head. -/
def State.unitOf (s : State) (pa : Nat) : Nat :=
  let b := s.bankOf (pa % 2^64)
  if b < 6144 then b / 8 else 768 + (b - 6144)

/-- R255, R261: a chunk of a pool. -/
def State.fibChunk (s : State) (e job f : Nat) (q : FPool) (i : Nat) (write : Bool) : Except (Nat × Nat) FChunk :=
  if q.cap ≤ i then .error (9, f)
  else
    let va := q.base + 64 * i
    match s.fibAt e job va 64 write with
    | .error c => .error (c, va)
    | .ok pa =>
      let v := s.peekTag pa 64
      let x := chunkOf i pa v
      if chunkCount v = 0 ∨ 6 < chunkCount v ∨ (x.next ≠ noChunk ∧ q.cap ≤ x.next) then .error (9, f) else .ok x

/-- R261, R262: the chunks from one on, up to the first whose low coordinate exceeds `stop`; `fuel` is the pool's capacity less
the chunks walked. -/
def State.fibList (s : State) (e job f : Nat) (q : FPool) (stop : Option Nat) : Nat → Nat → Except (Nat × Nat) (List FChunk)
  | fuel, i =>
    if i = noChunk then .ok []
    else
      match fuel with
      | 0 => .error (9, f)
      | k + 1 =>
        match s.fibChunk e job f q i false with
        | .error x => .error x
        | .ok x =>
          if (match stop with | some c => decide (c < (x.pairs.headD (0, 0)).1) | none => false) then .ok [x]
          else
            match s.fibList e job f q stop k x.next with
            | .error y => .error y
            | .ok l => .ok (x :: l)

/-- R226, R261: chunks that are to be written stand in writable pages, or the class and address of the first that does not. -/
def State.fibWritable (s : State) (e job : Nat) (q : FPool) : List FChunk → Except (Nat × Nat) Unit
  | [] => .ok ()
  | x :: r =>
    match s.fibAt e job (q.base + 64 * x.idx) 64 true with
    | .error c => .error (c, q.base + 64 * x.idx)
    | .ok _ => s.fibWritable e job q r

-- merging -----------------------------------------------------------------------------------------

/-- R262: a pair put in order among pairs that do not hold its coordinate. -/
def putPair (c v : Nat) : List (Nat × Nat) → List (Nat × Nat)
  | [] => [(c, v)]
  | q :: r => if c < q.1 then (c, v) :: q :: r else q :: putPair c v r

/-- R262: a pair merged into the chunk that takes it; a full chunk splits into the lower 4 and the upper 3 of the 7 pairs. -/
def FChunk.take (type op c v made : Nat) (x : FChunk) : List FChunk × Cost :=
  if x.pairs.any (fun q => q.1 == c) then
    ([{ x with dirty := true, pairs := x.pairs.map (fun q => if q.1 = c then (c, fibCombine type op q.2 v) else q) }],
     { combined := 1 })
  else
    let l := putPair c v x.pairs
    if l.length ≤ 6 then ([{ x with dirty := true, pairs := l }], {})
    else ([{ x with dirty := true, pairs := l.take 4 }, { pairs := l.drop 4, fresh := some made }], { splits := 1, allocs := 1 })

/-- R262: a pair merged into a list of chunks: the last whose low coordinate is not above it takes it, else the first. -/
def mergePair (type op c v made : Nat) : List FChunk → List FChunk × Cost
  | [] => ([{ pairs := [(c, v)], fresh := some made }], { allocs := 1 })
  | [x] => x.take type op c v made
  | x :: y :: r =>
    if (y.pairs.headD (0, 0)).1 ≤ c then
      let q := mergePair type op c v made (y :: r)
      (x :: q.1, q.2)
    else
      let q := x.take type op c v made
      (q.1 ++ y :: r, q.2)

/-- R262: a run merged pair by pair. -/
def mergeRun (type op : Nat) : List (Nat × Nat) → List FChunk × Cost → List FChunk × Cost
  | [], m => m
  | (c, v) :: r, m =>
    let q := mergePair type op c v m.2.allocs m.1
    mergeRun type op r (q.1, m.2.add q.2)

/-- R262: the first pair of a run that is out of order, or whose coordinate no fibre holds. -/
def runBad : List (Nat × Nat) → Nat → Nat → Option Nat
  | [], _, _ => none
  | (c, _) :: r, last, i => if c = noChunk ∨ c < last then some i else runBad r c (i + 1)

/-- R254: `n` chunks taken from a pool: the free list first, then the bump index; each with its home address. -/
def State.takeChunks (s : State) (e job : Nat) : Nat → FPool → Except (Nat × Nat) (List (Nat × Nat) × FPool)
  | 0, q => .ok ([], q)
  | n + 1, q =>
    let i := if q.freeCount = 0 then q.bump else q.free
    match s.fibAt e job (q.base + 64 * i) 64 true with
    | .error c => .error (c, q.base + 64 * i)
    | .ok pa =>
      let q1 := if q.freeCount = 0 then { q with bump := q.bump + 1 }
                else { q with freeCount := q.freeCount - 1, free := s.peekTag pa 4 }
      match s.takeChunks e job n q1 with
      | .error x => .error x
      | .ok (l, q2) => .ok ((i, pa) :: l, q2)

/-- R253, R254: the changing fields of a pool descriptor stored. -/
def State.storePool (q : FPool) (s : State) : State :=
  s.pokeTag (q.at_ + 12) 12 (q.bump + (if q.freeCount = 0 then noChunk else q.free) * 2^32 + q.freeCount * 2^64)

/-- R254: chunks handed out, their link words set to zero. -/
def State.unlink : List (Nat × Nat) → State → State
  | [], s => s
  | (_, pa) :: r, s => State.unlink r (s.pokeTag pa 4 0)

/-- R254, R271: chunks zeroed and pushed on a pool's free list in list order. -/
def State.pushChunks (desc : Nat) : List (Nat × Nat) → State → State
  | [], s => s
  | (i, pa) :: r, s =>
    let q := poolOf desc (s.peekTag desc 32)
    let link := if q.freeCount = 0 then noChunk else q.free
    State.pushChunks desc r ((s.pokeTag pa 64 link).storePool { q with free := i, freeCount := q.freeCount + 1 })

/-- R271: whether every registration that a release waits for has ended. -/
def Stitch.released (u : Stitch) (r : Release) : Bool := !(u.readers.any (fun q => r.waits.contains q.id))

/-- R271: the releases of a stitch unit that wait no longer are performed; `only` names one pool. -/
def State.release (unit : Nat) (only : Option Nat) (s : State) : State :=
  let u := s.stitch unit
  let now (r : Release) : Bool := u.released r && (match only with | some d => r.desc == d | none => true)
  (u.releases.filter now).foldl (fun s r => s.pushChunks r.desc r.chunks)
    (s.updStitch unit (fun u => { u with releases := u.releases.filter (fun r => !now r) }))

/-- R271: before an allocation, the releases owed to its pool are performed. -/
def State.releaseFor (desc : Nat) (s : State) : State :=
  (s.stitches.map (·.1)).foldl (fun s u => s.release u (some desc)) s

/-- The links of merged chunks in list order; the last keeps the link that the walk ended at. -/
def linkChunks (last : Nat) : List FChunk → List FChunk
  | [] => []
  | [x] => [{ x with next := last }]
  | x :: y :: r => { x with next := y.idx } :: linkChunks last (y :: r)

/-- What an operation at a stitch unit leaves: the state with its allocation made, the writes it owes in order, its cost. -/
structure FibDone where
  state : State
  writes : List (Nat × Nat × Row) := []
  cost : Cost := {}
  /-- the chunks of an emptied fibre, with the pool they go back to (R271) -/
  owes : Option Release := none

/-- R256: the write of a head. -/
def headWrite (pa : Nat) (h : FHead) : Nat × Nat × Row := (pa, 16, BitVec.ofNat 512 h.bits)

/-- R262, R261: one run merged: checks, allocation, and the writes: new chunks, changed chunks, the head. Only what it writes need be writable. -/
def State.fibMerge (e job f base : Nat) (run : List (Nat × Nat)) (s : State) : Except (Nat × Nat × Nat) FibDone :=
  let at0 {α : Type} (r : Except (Nat × Nat) α) : Except (Nat × Nat × Nat) α := match r with
    | .error (c, a) => .error (c, a, 0)
    | .ok v => .ok v
  match runBad run 0 0 with
  | some i => .error (9, f, base + i)
  | none =>
    match at0 (s.fibHead e job f true) with
    | .error x => .error x
    | .ok (pa, h) =>
      if !h.valid || !(fibAccepts h.type h.op) then .error (9, f, 0)
      else
        match at0 (s.fibPool e job f h.pool false) with
        | .error x => .error x
        | .ok q0 =>
          let s1 := s.releaseFor q0.at_
          let q := poolOf q0.at_ (s1.peekTag q0.at_ 32)
          match at0 (s1.fibList e job f q (some (run.getLastD (0, 0)).1) q.cap h.chunk) with
          | .error x => .error x
          | .ok old =>
            let m := mergeRun h.type h.op run (old, {})
            let n := m.2.allocs
            if q.freeCount + (q.cap - q.bump) < n then .error (8, f, 0)
            else
              match at0 (s1.fibWritable e job q (m.1.filter (fun x => x.fresh.isNone && x.dirty))),
                  at0 (if n = 0 then .ok q else s1.fibPool e job f h.pool true), at0 (s1.takeChunks e job n q) with
              | .error x, _, _ => .error x
              | _, .error x, _ => .error x
              | _, _, .error x => .error x
              | .ok _, .ok _, .ok (got, q1) =>
                let named := m.1.map (fun x => match x.fresh with
                  | some k => { x with idx := (got.getD k (0, 0)).1, pa := (got.getD k (0, 0)).2 }
                  | none => x)
                let l := linkChunks ((old.getLastD {}).next) named
                let w (x : FChunk) : Nat × Nat × Row :=
                  (x.pa, 64, BitVec.ofNat 512 (chunkBits x.next (if x.fresh.isSome then 1 else x.version + 1) x.pairs))
                let news := l.filter (fun x => x.fresh.isSome)
                let others := l.filter (fun x => x.fresh.isNone && x.dirty)
                let h1 : FHead := { h with
                  chunk := (l.headD {}).idx, version := h.version + 1
                  count := Nat.min noChunk (h.count + (run.length - m.2.combined)) }
                .ok { state := (if n = 0 then s1 else (s1.storePool q1).unlink got).countPerf (dieOf (panelOf e)) 7 job run.length
                      writes := news.map w ++ others.map w ++ [headWrite pa h1]
                      cost := { m.2 with read := old.length, written := news.length + others.length } }

/-- R262: `FNEW`. -/
def State.fibNew (e job f v : Nat) (s : State) : Except (Nat × Nat × Nat) FibDone :=
  match s.fibHead e job f true with
  | .error (c, a) => .error (c, a, 0)
  | .ok (pa, h) =>
    let pool := bitsAt v 0 8
    let type := bitsAt v 8 2
    let op := bitsAt v 10 3
    match s.fibPool e job f pool false with
    | .error (c, a) => .error (c, a, 0)
    | .ok _ =>
      if h.valid || !(fibAccepts type op) then .error (9, f, 0)
      else .ok { state := s
                 writes := [headWrite pa { pool, type, op, valid := true, dflt := fibDefault type (bitsAt v 13 2) }] }

/-- R269-R271: `FCLR`, and `FFRE` which clears the valid bit too; the old chunks are owed to the pool once the head has been written. Their release
writes them and the pool; a fibre without chunks writes its head alone. -/
def State.fibClear (e job f : Nat) (free : Bool) (s : State) : Except (Nat × Nat × Nat) FibDone :=
  match s.fibHead e job f true with
  | .error (c, a) => .error (c, a, 0)
  | .ok (pa, h) =>
    if !h.valid then .error (9, f, 0)
    else
      match s.fibPool e job f h.pool false with
      | .error (c, a) => .error (c, a, 0)
      | .ok q =>
        match s.fibList e job f q none q.cap h.chunk with
        | .error (c, a) => .error (c, a, 0)
        | .ok l =>
          match s.fibWritable e job q l, (if l.isEmpty then .ok q else s.fibPool e job f h.pool true) with
          | .error (c, a), _ => .error (c, a, 0)
          | _, .error (c, a) => .error (c, a, 0)
          | .ok _, .ok _ =>
          .ok { state := s
                owes := if l.isEmpty then none else some { desc := q.at_, chunks := l.map (fun x => (x.idx, x.pa)) }
                writes := [headWrite pa { h with chunk := noChunk, count := 0, version := h.version + 1
                                                 valid := !free }]
                cost := { read := l.length } }

/-- R257: an operation performed at its stitch unit; a failure is the class, address and element index of the port fault. -/
def State.fibPerform (o : FibOp) (s : State) : Except (Nat × Nat × Nat) FibDone :=
  match o.kind with
  | .fnew => s.fibNew o.age o.job o.head o.params
  | .merge => s.fibMerge o.age o.job o.head o.params
      (o.pairs.map (fun w => (bitsAt w.toNat 0 32, bitsAt w.toNat 32 32)))
  | .fclr => s.fibClear o.age o.job o.head false
  | .ffre => s.fibClear o.age o.job o.head true

/-- Writes of a stitch unit performed in order. -/
def State.fibWrites : List (Nat × Nat × Row) → State → State
  | [], s => s
  | (a, n, v) :: r, s => State.fibWrites r (s.pokeTag a n v.toNat)

/-- The place that an operation belongs to takes its cost. -/
def State.fibCost (o : FibOp) (c : Cost) (s : State) : State :=
  s.updPlace o.age o.place (fun y => if y.active && y.phase == 2 then { y with cost := y.cost.add c } else y)
/-- The place of a performed operation goes on. -/
def State.fibEnd (o : FibOp) (s : State) : State :=
  s.updPlace o.age o.place (fun y => if y.active && y.phase == 2 then { y with phase := 3 } else y)

/-- R260, R271: an operation whose last write has been performed, that of the head: what an emptied fibre owes its pool waits for the readers of
it that stand registered. -/
def State.fibOver (unit head : Nat) (r : Option Release) (s : State) : State :=
  match r with
  | none => s
  | some r => s.updStitch unit (fun u => { u with
      releases := u.releases ++ [{ r with waits := (u.readers.filter (fun g => g.head == head)).map (·.id) }], owes := none })

/-- R326 move 11: a stitch unit performs the operation at the head of its queue: its checks, then its writes one at a time. -/
def execMerge (unit : Nat) (s : State) : Out :=
  let u := s.stitch unit
  s.unheld <| match u.queue with
  | [] => .next s
  | o :: rest =>
    match u.writes with
    | (a, n, v) :: more =>
      let s1 := (s.pokeTag a n v.toNat).updStitch unit (fun u => { u with writes := more })
      .next (if more.isEmpty then ((s1.updStitch unit (fun u => { u with queue := rest })).fibOver unit a u.owes).fibEnd o else s1)
    | [] =>
      match s.fibPerform o with
      | .ok d =>
        .next ((d.state.updStitch unit (fun u => { u with writes := d.writes, owes := d.owes })).fibCost o d.cost)
      | .error (c, a, i) =>
        let s1 := s.updStitch unit (fun u => { u with queue := rest })
        let x := s1.place o.age o.place
        .next (if x.active && x.phase == 2 then
            (s1.updPlace o.age o.place (fun y => { y with phase := 0 })).holdPlace o.age o.place c x.op i (faultAddr a) 4
          else s1)

/-- R271: a stitch unit releases the chunks that no earlier registration holds. -/
def execChunkRelease (unit : Nat) (s : State) : Out := s.unheld (.next (s.release unit none))

-- an operation from a place ------------------------------------------------------------------------

/-- R257: a place sends an operation to its stitch unit and goes on by `after` once it has been performed. Under `prompt` an idle
unit performs it at once (log 2). -/
def State.fibSend (e p f : Nat) (kind : FibKind) (pairs : List (BitVec 64)) (params : Nat) (after : Place → Place)
    (s : State) : State :=
  let x := s.place e p
  if x.phase = 3 then s.updPlace e p (fun y => after { y with phase := 0 })
  else if x.phase = 2 then s
  else
    let job := (s.strand x.strand).job
    match s.fibHead e job f false with
    | .error (c, a) => s.holdPlace e p c x.op 0 (faultAddr a) 4
    | .ok (pa, _) =>
      let unit := s.unitOf pa
      let o : FibOp := { kind, age := e, place := p, job, head := f, pairs, params }
      if s.prompt && (s.stitch unit).queue.isEmpty then
        match s.fibPerform o with
        | .error (c, a, i) => s.holdPlace e p c x.op i (faultAddr a) 4
        | .ok d =>
          ((State.fibWrites d.writes d.state).fibOver unit pa d.owes).updPlace e p (fun y => after { y with cost := y.cost.add d.cost })
      else
        (s.updStitch unit (fun u => { u with queue := u.queue ++ [o] })).updPlace e p (fun y => { y with phase := 2 })

/-- R261, R268, R270: a command reads its fibre's head once the operations that its AGE has sent to that fibre have been performed; a head that no
such command may stand at faults. -/
def State.readHead (e p f : Nat) (next : FHead → State → State) (s : State) : State :=
  let x := s.place e p
  let job := (s.strand x.strand).job
  match s.fibHead e job f false with
  | .error (c, a) => s.holdPlace e p c x.op 0 (faultAddr a) 4
  | .ok (pa, h) =>
    if (s.stitch (s.unitOf pa)).queue.any (fun o => o.age == e && o.head == f) then s
    else if !h.valid then s.holdPlace e p 9 x.op 0 f 4
    else
      match s.fibPool e job f h.pool false with
      | .error (c, a) => s.holdPlace e p c x.op 0 (faultAddr a) 4
      | .ok q => if h.chunk ≠ noChunk ∧ q.cap ≤ h.chunk then s.holdPlace e p 9 x.op 0 f 4 else next h s

-- readers -----------------------------------------------------------------------------------------

/-- R263: a reader registers with the fibre's stitch unit, if it has a registration free. -/
def State.register (e p pa : Nat) (s : State) : State :=
  let unit := s.unitOf pa
  if Config.registrations ≤ (s.stitch unit).readers.length then s
  else
    let r : Registration := { id := s.fresh, head := pa, age := e, place := p }
    let s1 := s.updStitch unit (fun u => { u with readers := u.readers ++ [r] })
    ({ s1 with fresh := s1.fresh + 1 } : State).updPlace e p (fun y => { y with registered := some s.fresh })

/-- R263: a registration ends. -/
def State.unregister (e p : Nat) (s : State) : State :=
  match (s.place e p).registered with
  | none => s
  | some id =>
    let s1 : State := { s with stitches := s.stitches.map (fun (u : Nat × Stitch) =>
      (u.1, { u.2 with readers := u.2.readers.filter (fun r => r.id != id) })) }
    s1.updPlace e p (fun y => { y with registered := none })

/-- R263: a reader goes on by `next` once it is registered with the stitch unit of fibre f; it registers before it reads the head. -/
def State.enrolled (e p f : Nat) (next : State → State) (s : State) : State :=
  if (s.place e p).registered.isSome then next s
  else
    match s.fibSite e (s.strand (s.place e p).strand).job f with
    | .error c => s.holdPlace e p c (s.place e p).op 0 (faultAddr f) 4
    | .ok pa => s.register e p pa

/-- R263, R265: a reader stands before the head of fibre f: it registers, then reads the head and begins its walk, keeping the head
record in `shape`. `bad` is the command's own check of the head. -/
def State.openFibre (e p f : Nat) (bad : FHead → Bool) (next : Place → Place) (s : State) : State :=
  s.enrolled e p f (fun s =>
    let x := s.place e p
    let job := (s.strand x.strand).job
    match s.fibHead e job f false with
    | .error (c, a) => s.holdPlace e p c x.op 0 (faultAddr a) 4
    | .ok (_, h) =>
      if !h.valid || bad h then s.holdPlace e p 9 x.op 0 f 4
      else
        match s.fibPool e job f h.pool false with
        | .error (c, a) => s.holdPlace e p c x.op 0 (faultAddr a) 4
        | .ok q =>
          if h.chunk ≠ noChunk ∧ q.cap ≤ h.chunk then s.holdPlace e p 9 x.op 0 f 4
          else
            s.updPlace e p (fun y => next { y with
              shape := BitVec.ofNat 128 h.bits, chunk := if h.chunk = noChunk then none else some h.chunk, walked := 0, stand := none }))

/-- R265, R266, R326: a scan step: the chunk that the walk stands at is read whole. -/
def State.readChunk (e p f : Nat) (next : FChunk → State → State) (s : State) : State :=
  let x := s.place e p
  let job := (s.strand x.strand).job
  let h := headOf x.shape.toNat
  match x.chunk with
  | none => s
  | some i =>
    match s.fibPool e job f h.pool false with
    | .error (c, a) => s.holdPlace e p c x.op 0 (faultAddr a) 4
    | .ok q =>
      if q.cap ≤ x.walked then s.holdPlace e p 9 x.op 0 f 4
      else
        match s.fibChunk e job f q i false with
        | .error (c, a) => s.holdPlace e p c x.op 0 (faultAddr a) 4
        | .ok k =>
          next k ((s.updPlace e p (fun y => { y with walked := y.walked + 1, cost := { y.cost with read := y.cost.read + 1 } })).activity e)

end Sys2Proof.Machine
end

