-- ==== Sys2Proof/Machine/FibreCmds.lean ====
section
/-!
DEFINITION. The fibre commands, `BLKX` and the scan step (R243, R259-R276, R326).
-/

namespace Sys2Proof.Machine

/-- R262, R269: a command that is one operation at the stitch unit. -/
def State.fibOnce (kind : FibKind) (e p : Nat) (x : Place) (s : State) : State :=
  if x.phase = 1 then s.finish e p (fibReply x.cost 0)
  else s.fibSend e p x.cmd.addr.toNat kind [] x.cmd.count.toNat (fun y => { y with phase := 1 })

/-- R262 -/
def execFnew (c : Cmd) (s : State) : Out := s.runCommand c 0x40 (fun _ => true) id (State.fibOnce .fnew)
/-- R269 -/
def execFclr (c : Cmd) (s : State) : Out := s.runCommand c 0x46 (fun _ => true) id (State.fibOnce .fclr)
/-- R269 -/
def execFfre (c : Cmd) (s : State) : Out := s.runCommand c 0x47 (fun _ => true) id (State.fibOnce .ffre)

/-- R268: one step of `FCNT`. -/
def State.fcntStep (e p : Nat) (x : Place) (s : State) : State :=
  s.readHead e p x.cmd.addr.toNat (fun h s => s.finish e p (fibReply {} h.count))

/-- R268 -/
def execFcnt (c : Cmd) (s : State) : Out := s.runCommand c 0x45 (fun _ => true) id State.fcntStep

-- merges ------------------------------------------------------------------------------------------

/-- R262: one step of `FMRG` from memory: its n pairs are read, then merged as one run. -/
def State.fmrgStep (e p : Nat) (x : Place) (s : State) : State :=
  let c := x.cmd
  let n := c.port.toNat + 1
  let f := c.addr.toNat
  if x.phase = 1 then s.finish e p (fibReply x.cost 0)
  else if x.j3 < n then
    s.readElem e p 4 ((f : Int) + 8 * sint 27 c.count.toNat + (8 * x.j3 : Nat)) 8 x.j3 .streamRead Place.count
  else if (List.range n).all (fun k => Tab.has x.got k) then
    s.fibSend e p f .merge ((List.range n).map (fun k => BitVec.ofNat 64 (x.got.look 0 k).toNat)) 0
      (fun y => { y with phase := 1, got := [], vas := [], full := [] })
  else s

/-- R262 -/
def execFmrg (c : Cmd) (s : State) : Out := s.runCommand c 0x41 (fun _ => true) id State.fmrgStep

/-- R270: a command that may come to its end without a pair reads its fibre's head before it takes its first token; `runs` says that it has. -/
def State.firstHead (e p f : Nat) (s : State) : State := s.readHead e p f (fun _ s => s.updPlace e p (fun y => { y with runs := 1 }))

/-- R262: one step of `FMRG` from a port: each level-1 run of pair tokens, cut after every 256th pair. -/
def State.fmrgPortStep (e p : Nat) (x : Place) (s : State) : State :=
  let c := x.cmd
  let port := c.portLow - 8
  if x.runs = 0 then s.firstHead e p c.addr.toNat
  else if x.runFull || x.pairs.length == 256 then
    s.fibSend e p c.addr.toNat .merge x.pairs x.written
      (fun y => { y with pairs := [], runFull := false, written := y.written + y.pairs.length })
  else if x.eos then s.finish e p (fibReply x.cost 0)
  else
    match s.inputHead e port with
    | none => s
    | some t =>
      let s1 := (s.consume e port).activity e
      match t.kind with
      | .data => if t.tile then s1
                 else s1.updPlace e p (fun y => { y.count with pairs := y.pairs ++ [BitVec.ofNat 64 (bitsAt t.row.toNat 0 64)] })
      | .stop _ => s1.updPlace e p (fun y => { y with runFull := !y.pairs.isEmpty })
      | .eos => s1.updPlace e p (fun y => { y with runFull := !y.pairs.isEmpty, eos := true })
      | _ => s1

/-- R262 -/
def execFmrgPort (c : Cmd) (s : State) : Out := s.runCommand c 0x41 (fun _ => true) id State.fmrgPortStep

-- scans -------------------------------------------------------------------------------------------

/-- R265: the pairs of a chunk that a scan emits. -/
def Place.scanPairs (x : Place) (k : FChunk) : List (Nat × Nat) :=
  k.pairs.filter (fun q => match x.lastC with | some l => decide (l < q.1) | none => true)

/-- R265: the walk goes on from a chunk just read. -/
def Place.walkOn (k : FChunk) (x : Place) : Place :=
  { x with
    lastC := match (x.scanPairs k).getLast? with | some q => some q.1 | none => x.lastC
    chunk := if k.next = noChunk then none else some k.next
    phase := if k.next = noChunk then 6 else 5 }

/-- R265: a walk begins at an open fibre. -/
def Place.walkFrom (x : Place) : Place := { x with lastC := none, runData := false, phase := if x.chunk.isNone then 6 else 5 }

/-- R263, R265: a scan step; the registration ends with the last chunk. -/
def State.scanOn (e p f : Nat) (emit : List (Nat × Nat) → Place → Place) (s : State) : State :=
  s.readChunk e p f (fun k s =>
    let s1 := s.updPlace e p (fun y => (emit (y.scanPairs k) y).walkOn k)
    if k.next = noChunk then s1.unregister e p else s1)

/-- R264: pairs emitted, one token each. -/
def Place.putPairs (port : Nat) (l : List (Nat × Nat)) (x : Place) : Place :=
  { (x.push port (l.map (fun q => .dat (pairRow q.1 q.2)))) with runData := x.runData || !l.isEmpty }

/-- R243, R265: one step of a scan of n fibres; `stops` is its stop flag. -/
def State.fscnStep (stops : Cmd → Bool) (e p : Nat) (x : Place) (s : State) : State :=
  let c := x.cmd
  let n := c.count.toNat
  let f := c.addr.toNat + 16 * x.runs
  if x.phase = 1 then s.finish e p (fibReply x.cost 0)
  else if x.phase = 5 then (if s.prompt then s.scanOn e p f (Place.putPairs c.portLow) else s)
  else if x.phase = 6 then
    (s.unregister e p).updPlace e p (fun y =>
      { (y.endRun c.portLow false (stops c) (y.runs + 1 == n) 1).count with phase := 0 })
  else if x.runs = n then s.updPlace e p (fun y => { (y.push c.portLow [.ctl .eos]) with phase := 1 })
  else s.openFibre e p f (fun _ => false) Place.walkFrom

/-- R265 -/
def execFscn (c : Cmd) (s : State) : Out := s.runCommand c 0x42 (fun _ => true) id (State.fscnStep (fun c => c.flag 0))
/-- R243: `BLKX` always emits stops. -/
def execBlkx (c : Cmd) (s : State) : Out := s.runCommand c 0x14 (fun _ => true) id (State.fscnStep (fun _ => true))

-- FTOP --------------------------------------------------------------------------------------------

/-- R267: the order of values: FP32 by value with −0 equal to +0, INT32 signed. -/
def topKey (int : Bool) (v : Nat) : Int :=
  if int then sint 32 v else if 2^31 ≤ v then -((v % 2^31 : Nat) : Int) else (v : Int)

/-- R267: a candidate put behind every one that is greater, or equal with a lower coordinate. -/
def topPut (int : Bool) (q : Nat × Nat) : List (Nat × Nat) → List (Nat × Nat)
  | [] => [q]
  | r :: l =>
    if topKey int r.2 < topKey int q.2 ∨ (topKey int r.2 = topKey int q.2 ∧ q.1 < r.1) then q :: r :: l
    else r :: topPut int q l

/-- R267: the pairs that `FTOP` takes as candidates. -/
def topKeeps (int exclz : Bool) (v : Nat) : Bool :=
  (int || !(fp32.read v).isNan) && !(exclz && topKey int v == 0)

/-- R267: the pairs chosen, the padding and the end. -/
def Place.topOut (c : Cmd) (x : Place) : Place :=
  let int := (headOf x.shape.toNat).type == 1
  let k := c.count.toNat % 65536
  let all := x.pairs.map (fun w => (bitsAt w.toNat 0 32, bitsAt w.toNat 32 32))
  let best := ((all.filter (fun q => topKeeps int (c.flag 0) q.2)).foldl (fun l q => topPut int q l) []).take k
  let pad := if c.flag 1 then List.replicate (k - best.length) (noChunk, if int then 0x80000000 else 0xFF800000) else []
  { (x.push c.portLow ((best ++ pad).map (fun q => .dat (pairRow q.1 q.2)) ++ [.ctl (.stop 1), .ctl .eos])) with
    phase := 1, pairs := [], result := best.length }

/-- R267: one step of `FTOP`. -/
def State.ftopStep (e p : Nat) (x : Place) (s : State) : State :=
  let c := x.cmd
  let f := c.addr.toNat
  let keep (l : List (Nat × Nat)) (y : Place) : Place :=
    { y with pairs := y.pairs ++ l.map (fun q => BitVec.ofNat 64 (q.1 + q.2 * 2^32)) }
  if x.phase = 1 then s.finish e p (fibReply x.cost x.result)
  else if x.phase = 5 then (if s.prompt then s.scanOn e p f keep else s)
  else if x.phase = 6 then (s.unregister e p).updPlace e p (Place.topOut c)
  else s.openFibre e p f (fun h => h.type == 2) Place.walkFrom

/-- R267 -/
def execFtop (c : Cmd) (s : State) : Out := s.runCommand c 0x44 (fun _ => true) id State.ftopStep

-- probes ------------------------------------------------------------------------------------------

/-- R266: a probe of coordinate c begins: it goes on from the chunk where the last one ended if c exceeds that one's coordinate,
else it starts at the head. Where that chunk begins beyond c, a pair may have come before it since, and the probe, which finds every pair present throughout
it, goes on from the chunk before (log 120). -/
def Place.beginProbe (c : Nat) (x : Place) : Place :=
  match x.lastC, x.chunk with
  | some l, some _ =>
    if l < c then
      if x.endLow ≤ c then { x with next := c, phase := 5, walked := x.walked - 1 }
      else
        match x.stand with
        | some (i, w) => { x with next := c, phase := 5, chunk := some i, walked := w }
        | none => { x with next := c, phase := 4 }
    else { x with next := c, phase := 4 }
  | _, _ => { x with next := c, phase := 4 }

/-- R266: one step of a probe in hand: the head is read (phase 4) or a chunk (phase 5). `answer` takes whether the coordinate is
there, and its value. -/
def State.probeOn (e p f : Nat) (answer : Bool → Nat → Place → Place) (s : State) : State :=
  let x := s.place e p
  let c := x.next
  let done (hit : Bool) (v : Nat) (y : Place) : Place := answer hit v { y with lastC := some c, phase := 0 }
  if x.phase = 4 then
    s.openFibre e p f (fun _ => false) (fun y =>
      if y.chunk.isNone || c == noChunk then done false (headOf y.shape.toNat).dflt y else { y with phase := 5 })
  else if s.prompt then
    s.readChunk e p f (fun k s =>
      s.updPlace e p (fun z =>
        let low := (k.pairs.headD (0, 0)).1
        let y : Place := { z with endLow := low, stand := if low ≤ c then some (k.idx, z.walked - 1) else z.stand }
        match k.pairs.find? (fun q => q.1 == c) with
        | some q => done true q.2 y
        | none =>
          if c < (k.pairs.getLastD (0, 0)).1 ∨ k.next = noChunk then done false (headOf y.shape.toNat).dflt y
          else { y with chunk := some k.next }))
  else s

/-- R266: the answer of `FPRB` to the coordinate in hand. -/
def Place.probeAnswer (c : Cmd) (hit : Bool) (v : Nat) (x : Place) : Place :=
  let y : Place := { x with inq := x.inq.drop 1 }
  if c.flag 0 && !hit then y else y.push c.portLow [.dat (packRow 32 [x.next, v, if hit then 0 else 1])]

/-- R266: one step of `FPRB`. -/
def State.fprbStep (e p : Nat) (x : Place) (s : State) : State :=
  let c := x.cmd
  if x.phase = 1 then s.finish e p (fibReply x.cost 0)
  else if x.runs = 0 then s.enrolled e p c.addr.toNat (State.firstHead e p c.addr.toNat)
  else if x.phase = 4 ∨ x.phase = 5 then s.probeOn e p c.addr.toNat (Place.probeAnswer c)
  else
    match x.inq with
    | r :: _ => s.updPlace e p (fun y => y.count.beginProbe (lane r 0))
    | [] =>
      match s.inputHead e c.portMid with
      | none => s
      | some t =>
        let s1 := (s.consume e c.portMid).activity e
        match t.kind with
        | .data => s1.updPlace e p (fun y => { y with inq := t.dataRows })
        | .eos => (s1.unregister e p).updPlace e p (fun y => { (y.push c.portLow [.ctl .eos]) with phase := 1 })
        | _ => s1.updPlace e p (fun y => y.push c.portLow [t])

/-- R266 -/
def execFprb (c : Cmd) (s : State) : Out := s.runCommand c 0x43 (fun _ => true) id State.fprbStep

-- point clouds ------------------------------------------------------------------------------------

/-- R275: floor of an FP32 value; none for a NaN or an infinity. -/
def floorF (v : Nat) : Option Int :=
  match fp32.read v with
  | .fin neg m e =>
    let n : Int := if neg then -(m : Int) else m
    some (if 0 ≤ e then n * (2^e.toNat : Nat) else n / ((2^(-e).toNat : Nat) : Int))
  | _ => none

/-- R275: the key of cell indices. -/
def voxKey (x y z : Int) : Option Nat :=
  if 0 ≤ x ∧ x < 2048 ∧ 0 ≤ y ∧ y < 2048 ∧ 0 ≤ z ∧ z < 512 then some (x.toNat + 2048 * y.toNat + 4194304 * z.toNat) else none

/-- R275: the cell of a point under a sweep header, each operation rounded once; none where the point is dropped. -/
def voxCell (h r : Row) : Option Nat :=
  let mul := fp32.mul .rne
  let sub := fp32.sub .rne
  let add := fp32.add .rne
  let px := lane r 0
  let py := lane r 1
  let pz := lane r 2
  let d := sub (lane r 3) (lane h 6)
  let cx := sub (mul (lane h 4) pz) (mul (lane h 5) py)
  let cy := sub (mul (lane h 5) px) (mul (lane h 3) pz)
  let cz := sub (mul (lane h 3) py) (mul (lane h 4) px)
  let moved (v c q : Nat) : Nat := fp32.fma .rne d (add v c) q
  let idx (q o : Nat) : Option Int := floorF (mul (sub q o) (lane h 7))
  match idx (moved (lane h 0) cx px) (lane h 8), idx (moved (lane h 1) cy py) (lane h 9), idx (moved (lane h 2) cz pz) (lane h 10) with
  | some x, some y, some z => voxKey x y z
  | _, _, _ => none

/-- R275: the value merged for a point, by the fibre's type and operator. -/
def voxValue (type op : Nat) (h r : Row) : Option Nat :=
  let a := lane r 4
  let half := convert (.flt fp32) (.flt bf16) .rne false a
  if type = 2 ∧ op = 7 then some (half + lane h 11 % 65536 * 65536)
  else if type = 2 ∧ op = 0 then some (0x3F80 + half * 65536)
  else if type = 0 ∧ (op = 0 ∨ op = 2 ∨ op = 3 ∨ op = 4 ∨ op = 5) then some a
  else none

/-- R276: the neighbour of a key at offset o. -/
def voxNeighbour (key o : Nat) : Option Nat :=
  voxKey ((key % 2048 : Nat) + (o % 3 : Nat) - 1) ((key / 2048 % 2048 : Nat) + (o / 3 % 3 : Nat) - 1)
    ((key / 4194304 : Nat) + (o / 9 : Nat) - 1)

/-- R276: the next neighbour, or the next input pair after the 27th. -/
def Place.nextOffset (x : Place) : Place :=
  if x.packN = 26 then { x.count with packN := 0, inq := x.inq.drop 1 } else { x with packN := x.packN + 1 }

/-- R276: a rule token, when an output is named. -/
def Place.rule (c : Cmd) (key nb o : Nat) (x : Place) : Place :=
  if c.portTop then x.push c.portMid [.dat (packRow 32 [key, nb, o])] else x

/-- R275: one token row of `VOXL` in mode 0: a sweep header, or a point merged at its cell. -/
def State.voxPoint (e p : Nat) (r : Row) (s : State) : State :=
  let x := s.place e p
  let f := x.cmd.addr.toNat
  let drop (y : Place) : Place := { y with inq := y.inq.drop 1 }
  if lane r 15 % 2^31 ≠ 0 then s.updPlace e p (fun y => drop { y with sweep := some r })
  else
    match x.sweep with
    | none => s.holdPlace e p 9 x.op x.j3 f 4
    | some h =>
      match s.fibHead e (s.strand x.strand).job f false with
      | .error (c, a) => s.holdPlace e p c x.op 0 (faultAddr a) 4
      | .ok (_, hd) =>
        if !hd.valid then s.holdPlace e p 9 x.op 0 f 4
        else
        match voxValue hd.type hd.op h r with
        | none => s.holdPlace e p 9 x.op 0 f 4
        | some v =>
          match voxCell h r with
          | none => s.updPlace e p (fun y => drop { y.count with result := y.result + 1 })
          | some key =>
            s.fibSend e p f .merge [BitVec.ofNat 64 (key + v * 2^32)] x.j3 (fun y => drop y.count)

/-- R275, R276: one step of `VOXL`. -/
def State.voxlStep (e p : Nat) (x : Place) (s : State) : State :=
  let c := x.cmd
  let f := c.addr.toNat
  let mode := c.flags.toNat % 4
  let port := c.portLow - 8
  if x.phase = 1 then s.finish e p (fibReply x.cost x.result)
  else if x.runs = 0 then (if mode = 2 then s.enrolled e p f (State.firstHead e p f) else s.firstHead e p f)
  else
    match x.inq with
    | r :: _ =>
      let key := lane r 0
      if mode = 0 then s.voxPoint e p r
      else
        match voxNeighbour key x.packN with
        | none => s.updPlace e p Place.nextOffset
        | some nb =>
          if mode = 1 then
            s.fibSend e p f .merge [BitVec.ofNat 64 (nb + lane r 1 * 2^32)] x.j3
              (fun y => (y.rule c key nb y.packN).nextOffset)
          else if x.phase = 4 ∨ x.phase = 5 then
            s.probeOn e p f (fun hit _ y => (if hit then y.rule c key nb y.packN else y).nextOffset)
          else s.updPlace e p (Place.beginProbe nb)
    | [] =>
      match s.inputHead e port with
      | none => s
      | some t =>
        let s1 := (s.consume e port).activity e
        let out := c.portTop && mode != 0
        match t.kind with
        | .data => s1.updPlace e p (fun y => { y with inq := t.dataRows })
        | .stop k => if out then s1.updPlace e p (fun y => y.push c.portMid [.ctl (.stop k)]) else s1
        | .eos => (s1.unregister e p).updPlace e p (fun y =>
            { (if out then y.push c.portMid [.ctl .eos] else y) with phase := 1 })
        | _ => s1

/-- R275, R276 -/
def execVoxl (c : Cmd) (s : State) : Out := s.runCommand c 0x48 (fun _ => true) id State.voxlStep

-- the scan step -----------------------------------------------------------------------------------

/-- The step of a command that reads fibres, by its op. -/
def readerStep (op : Nat) : Option (Nat → Nat → Place → State → State) :=
  match op with
  | 0x14 => some (State.fscnStep (fun _ => true))
  | 0x42 => some (State.fscnStep (fun c => c.flag 0))
  | 0x43 => some State.fprbStep
  | 0x44 => some State.ftopStep
  | 0x48 => some State.voxlStep
  | _ => none

/-- R326: a scan or probe that stands before a chunk reads it. -/
def execScanStep (s : State) : Out :=
  let age := s.site.elem
  let place := s.site.place.getD Config.places
  let x := s.place age place
  if x.active && !x.held && x.phase == 5 && x.outq.isEmpty && !s.rowHeld then
    match readerStep x.op with
    | none => .next s
    | some f =>
      let s1 := f age place x { s with prompt := true }
      .next { s1 with prompt := s.prompt }
  else .next s

end Sys2Proof.Machine
end

