-- ==== Sys2Proof/Machine/Banks.lean ====
section
/-!
DEFINITION. Bank array units (R277-R287): loading and running a program, the bank words, bank faults and their retry.
-/

namespace Sys2Proof.Machine

-- loading -----------------------------------------------------------------------------------------

/-- R61: the status of one word; 0 when it is well formed. -/
def bankStatus (v : Nat) : Nat :=
  match decodeBank v with
  | .ok _ => 0
  | .error .unassignedOp => 1
  | .error .badShift => 3
  | .error _ => 2

/-- R61: the status of a program whose words have been read. -/
def programStatus (ws : List Nat) : Nat :=
  match ((List.range ws.length).zip ws).find? (fun x => bankStatus x.2 != 0) with
  | some (i, v) => bankStatus v + 256 * i
  | none => if ws.any (fun v => v == 0x8000000000000000) then 0 else 4

/-- Whether an opcode runs the program of the bank array units. -/
def runsBanks (op : Nat) : Bool := op == 0x51 || op == 0x52

/-- R281, R296: the bank runs that stand in an AGE, in a place or in its queue, by their number among the commands it was given. -/
def Age.bankRuns (a : Age) : List Nat :=
  let waiting := a.queue.filter (fun q => !q.shape)
  a.places.filterMap (fun p => if p.2.active && runsBanks p.2.op then some p.2.seq else none) ++
  ((List.range waiting.length).zip waiting).filterMap (fun q =>
    if runsBanks (bitsAt q.2.raw.toNat 120 8) then some (a.started + q.1) else none)

/-- R281: the AGEs that hold bank runs of a job, each with the number of commands that it was given. -/
def State.bankRuns (s : State) (job : Nat) : Tab Nat :=
  s.elems.filterMap (fun x =>
    let a := x.2.age
    if (s.strand (s.strandOf x.1)).job = job ∧ !a.bankRuns.isEmpty then some (x.1, a.started + (a.queue.filter (fun q => !q.shape)).length)
    else none)

/-- R281: a bank run that the job had issued before the `BKLD` in a place has not completed. -/
def State.bankBusy (s : State) (job : Nat) (x : Place) : Bool :=
  x.behind.any (fun b => (s.strand (s.strandOf b.1)).job == job && (s.elem b.1).age.bankRuns.any (fun n => decide (n < b.2)))

/-- R281: one step of `BKLD`: the words are read; then the runs that the job has issued are noted and waited for, and the words checked. -/
def State.bkldStep (e p : Nat) (x : Place) (s : State) : State :=
  let c := x.cmd
  let n := c.count.toNat
  let a := c.addr.toNat
  let job := (s.strand x.strand).job
  if n = 0 ∨ 256 < n then s.finish e p 5
  else if x.pairs.length < n then
    let i := x.pairs.length
    if s.pullWaits e (a + 8 * i) 8 then s
    else
      match s.pull e (a + 8 * i) 8 .fetch with
      | .error cls => s.holdPlace e p cls x.op i (faultAddr (a + 8 * i)) 4
      | .ok w => s.updPlace e p (fun y => { y with pairs := y.pairs ++ [BitVec.ofNat 64 w] })
  else if x.phase = 0 then s.updPlace e p (fun y => { y with phase := 1, behind := s.bankRuns job })
  else if s.bankBusy job x then s
  else
    let st := programStatus (x.pairs.map BitVec.toNat)
    if st = 0 then ({ s with programs := s.programs.put job x.pairs } : State).finish e p 0 else s.finish e p st

/-- R281 -/
def execBkld (c : Cmd) (s : State) : Out := s.runCommand c 0x50 (fun _ => true) id State.bkldStep

-- running -----------------------------------------------------------------------------------------

/-- R282: the number of stripes of a bank command. -/
def bankStripes (c : Cmd) : Nat := c.count.toNat % 131072
/-- R282: its hold limit. -/
def bankLimit (c : Cmd) : Nat := c.count.toNat / 131072 % 256 + 1

/-- R226, R280: a stripe: its first bank and its DRAM row, or the class of the failure with its address. -/
def State.stripe (s : State) (e va : Nat) : Except (Nat × Nat) (Nat × Nat) :=
  match s.checkSpace e 4 (va : Int) 65536 .bankRange true with
  | .error c => .error (c, va)
  | .ok l =>
    match s.checkSpace e 4 ((va + 65536 : Nat) : Int) 65536 .bankRange true with
    | .error c => .error (c, va + 65536)
    | .ok h =>
      if l.home % 131072 ≠ 0 ∨ h.home ≠ l.home + 65536 then .error (4, va)
      else .ok (s.bankOf l.home, s.rowOf l.home)

/-- A stripe as a place keeps it. -/
def stripeWord (q : Nat × Nat) : BitVec 64 := BitVec.ofNat 64 (q.1 + q.2 * 2^16)
/-- The first banks of a command's stripes, each once, ascending. -/
def Place.bankGroups (x : Place) : List Nat := x.pairs.foldl (fun l w => insertUp (bitsAt w.toNat 0 16) l) []
/-- R283: the banks that hold rows of the range, ascending. -/
def Place.bankList (x : Place) : List Nat := x.bankGroups.flatMap (fun b => (List.range 64).map (fun k => b + k))
/-- R280: the rows of the range that a bank holds, in ascending virtual address. -/
def Place.bankRows (x : Place) (b : Nat) : List Nat :=
  (x.pairs.filter (fun w => bitsAt w.toNat 0 16 == b / 64 * 64)).map (fun w => bitsAt w.toNat 16 15)

/-- R283: run u is sent to every bank of the range. -/
def State.startRun (e p u base : Nat) (s : State) : State :=
  let x := s.place e p
  let c := x.cmd
  let run (b : Nat) : BankRun :=
    { age := e, place := p, job := (s.strand x.strand).job, run := u, base, lim := bankLimit c, rows := x.bankRows b
      va := c.addr.toNat, bytes := 131072 * bankStripes c }
  x.bankList.foldl (fun s b => s.updBank b (fun k => { k with waiting := k.waiting ++ [run b] })) s

/-- R283: the results of run u that have arrived, in ascending bank index. -/
def State.runResults (s : State) (e p u : Nat) (banks : List Nat) : List (Nat × Nat) :=
  banks.filterMap (fun b =>
    (s.bankResults.find? (fun r => r.age == e && r.place == p && r.run == u && r.bank == b)).map (fun r => (b, r.result.toNat)))

/-- R283: a run whose banks have all ended is emitted; for `BKRL` a stop stands between runs. -/
def State.endBankRun (e p : Nat) (rs : List (Nat × Nat)) (s : State) : State :=
  let c := (s.place e p).cmd
  let s1 : State := { s with bankResults := s.bankResults.filter (fun r =>
    !(r.age == e && r.place == p && r.run == (s.place e p).runs)) }
  s1.updPlace e p (fun y =>
    let z : Place := { y.count with runs := y.runs + 1, result := (y.result + (rs.map (·.2)).sum) % 2^32 }
    if c.portTop then
      z.push c.portLow ((if y.runs = 0 then [] else [.ctl (.stop 1)]) ++ rs.map (fun r => .dat (pairRow r.1 r.2)))
    else z)

/-- R283: one step of `BKRN` and, with `loop`, of `BKRL`: the stripes are checked, then runs are sent out and their results
taken in order. -/
def State.bankStep (loop : Bool) (e p : Nat) (x : Place) (s : State) : State :=
  let c := x.cmd
  let n := bankStripes c
  let job := (s.strand x.strand).job
  let eos (y : Place) : Place := if c.portTop then y.push c.portLow [.ctl .eos] else y
  if x.phase = 1 then s.finish e p (x.result + x.walked * 2^32)
  else if x.phase = 0 then
    if x.pairs.length < n then
      match s.stripe e (c.addr.toNat + 131072 * x.pairs.length) with
      | .error (cls, a) => s.holdPlace e p cls x.op x.pairs.length (faultAddr a) 4
      | .ok q => s.updPlace e p (fun y => { y with pairs := y.pairs ++ [stripeWord q] })
    else if (s.programs.look [] job).isEmpty then
      s.updPlace e p (fun y => { (eos y) with phase := 3 })
    else s.updPlace e p (fun y => { y with phase := 2, walked := y.bankList.length })
  else if x.phase = 3 then s.finish e p (2^48)
  else
    let banks := x.bankList
    let rs := s.runResults e p x.runs banks
    if x.runs < x.written ∧ rs.length = banks.length then s.endBankRun e p rs
    else if !loop then
      if x.written = 0 then (s.startRun e p 0 0).updPlace e p (fun y => { y with written := 1 })
      else if x.runs = 1 then s.updPlace e p (fun y => { (eos y) with phase := 1 })
      else s
    else
      match x.inq with
      | r :: rest =>
        (s.startRun e p x.written (lane r 0)).updPlace e p (fun y => { y with written := y.written + 1, inq := rest })
      | [] =>
        if x.eos then (if x.runs = x.written then s.updPlace e p (fun y => { (eos y) with phase := 1 }) else s)
        else s.takeInput e p c.portMid (fun _ y => y)

/-- R282, R283 -/
def execBkrn (c : Cmd) (s : State) : Out := s.runCommand c 0x51 (fun _ => true) id (State.bankStep false)
/-- R282, R283 -/
def execBkrl (c : Cmd) (s : State) : Out := s.runCommand c 0x52 (fun _ => true) id (State.bankStep true)

-- a bank ------------------------------------------------------------------------------------------

/-- R286: accesses that have arrived at a bank and are not yet performed. -/
def State.bankPending (s : State) (b : Nat) : Bool := !(s.queuedAt b).isEmpty

/-- R283, R277: a bank that is idle begins the oldest run that has reached it, with the values shown there; a run whose command stopped with its
strand waits until that is back (R199). -/
def Bank.begin_ (x : Bank) : Bank :=
  match x.running, x.waiting.find? (fun r => !parked r.age) with
  | none, some r =>
    if x.cause = 0 then
      { k := 0, m := 0xFFFFFFFF, t := 0, result := 0, row := 0, running := some r, waiting := x.waiting.erase r }
    else x
  | _, _ => x

/-- R285: the port of a bank's command records the lowest of the banks that have faulted. -/
def State.recordBank (e p : Nat) (s : State) : State :=
  match (s.banks.filter (fun b => b.2.cause != 0 && (match b.2.running with | some r => r.age == e && r.place == p | none => false))).head? with
  | none => s
  | some (b, k) =>
    let x := s.place e p
    s.holdPlace e p 10 x.op (b % 2^16 + k.word % 256 * 2^16 + k.cause * 2^24) x.cmd.addr.toNat 4

/-- R285: a bank fault: the row is released, the state kept, and the command's port holds. -/
def State.bankFault (b cause : Nat) (s : State) : State :=
  match (s.bankAt b).running with
  | none => s
  | some r =>
    (s.updBank b (fun x => { x with cause, reopen := x.held, held := false })).recordBank r.age r.place

/-- R284, R285: a word of the running program of a bank: the checks of a row pass and of the hold limit, then its effect. A bank
that retry resumed reopens its row first. -/
def State.bankWord (rowPass : Bool) (f : Nat → Bank → State → State) (s : State) : Out :=
  let b := s.site.bank
  let x := s.bankAt b
  match x.running with
  | none => .next s
  | some r =>
    if x.cause ≠ 0 then .next s
    else if x.reopen then
      if s.bankPending b then .next s
      else .next (s.updBank b (fun y => { y with held := true, pass := 0, reopen := false }))
    else if rowPass && !x.held then .next (s.bankFault b 2)
    else if x.held && decide (r.lim < x.pass + 1) then .next (s.bankFault b 3)
    else if rowPass && s.isBad (s.rowAddr b x.row.toNat 0) 2048 then .next (s.bankFault b 4)
    else
      let y := { x with word := x.word + 1, pass := if x.held then x.pass + 1 else x.pass }
      .next (f b y s)

/-- R284: a word that changes only the unit's registers. -/
def State.bankReg (f : Bank → Bank) (s : State) : Out := s.bankWord false (fun b x s => s.updBank b (fun _ => f x))

/-- R284, R217: column j of the open row, whose pages have key index 0. -/
def State.column (s : State) (b : Nat) (x : Bank) (j : Nat) : BitVec 32 :=
  BitVec.ofNat 32 (s.peekKey 0 (s.rowAddr b x.row.toNat (4 * j)) 4)

/-- R284: the columns of the open row that match the key under the mask, as a tag vector. -/
def State.matchTags (s : State) (b : Nat) (x : Bank) : BitVec 512 :=
  BitVec.ofNat 512 (packBits 1 ((List.range 512).map (fun j =>
    if (s.column b x j &&& x.m) = (x.k &&& x.m) then 1 else 0)))

/-- R284: every tagged column of the open row changed. -/
def State.writeTagged (b : Nat) (x : Bank) (g : BitVec 32 → BitVec 32) (s : State) : State :=
  (List.range 512).foldl (fun s j =>
    if x.t.getLsbD j then s.pokeKey 0 (s.rowAddr b x.row.toNat (4 * j)) 4 (g (s.column b x j)).toNat else s) s

/-- R284: `BROW`: it releases a held row, waits for the pending queue, and opens its row. -/
def execBrow (row : BitVec 15) (s : State) : Out :=
  let b := s.site.bank
  let x := s.bankAt b
  match x.running with
  | none => .next s
  | some r =>
    if x.cause ≠ 0 then .next s
    else if x.reopen then
      if s.bankPending b then .next s
      else .next (s.updBank b (fun y => { y with held := true, pass := 0, reopen := false }))
    else if r.rows.length ≤ r.base + row.toNat then .next (s.bankFault b 1)
    else if s.bankPending b then .next (s.updBank b (fun y => { y with held := false }))
    else
      .next (s.updBank b (fun y => { y with
        row := BitVec.ofNat 15 (r.rows.getD (r.base + row.toNat) 0), held := true, pass := 0, word := y.word + 1 }))

/-- Whether the word of a bank must wait: nothing runs, a fault stands, or a row is to be reopened. -/
def Bank.stopped (x : Bank) : Bool := x.running.isNone || x.cause != 0 || x.reopen

/-- R284: `BREL`; a bank that is to reopen its row does so first. -/
def execBrel (s : State) : Out :=
  let b := s.site.bank
  let x := s.bankAt b
  if x.reopen && x.cause == 0 && x.running.isSome then s.bankReg id
  else if x.stopped then .next s
  else .next (s.updBank b (fun y => { y with held := false, word := y.word + 1 }))

/-- R284 -/
def execBldk (v : BitVec 32) (s : State) : Out := s.bankReg (fun x => { x with k := v })
/-- R284 -/
def execBldm (v : BitVec 32) (s : State) : Out := s.bankReg (fun x => { x with m := v })
/-- R284 -/
def execBcmp (s : State) : Out :=
  s.bankWord true (fun b x s => s.updBank b (fun _ => { x with t := s.matchTags b x }))
/-- R284 -/
def execBcmpa (s : State) : Out :=
  s.bankWord true (fun b x s => s.updBank b (fun _ => { x with t := x.t &&& s.matchTags b x }))
/-- R284 -/
def execBcmpo (s : State) : Out :=
  s.bankWord true (fun b x s => s.updBank b (fun _ => { x with t := x.t ||| s.matchTags b x }))
/-- R284 -/
def execBwr (s : State) : Out :=
  s.bankWord true (fun b x s =>
    (s.writeTagged b x (fun w => (w &&& ~~~x.m) ||| (x.k &&& x.m))).updBank b (fun _ => x))

/-- R284: `BTT` on one column. -/
def truthTable (a b c out : BitVec 5) (table : BitVec 8) (w : BitVec 32) : BitVec 32 :=
  let bit (p : BitVec 5) : Nat := if w.getLsbD p.toNat then 1 else 0
  let one : BitVec 32 := BitVec.ofNat 32 (2^out.toNat)
  if table.getLsbD (4 * bit a + 2 * bit b + bit c) then w ||| one else w &&& ~~~one

/-- R284 -/
def execBtt (a b c out : BitVec 5) (table : BitVec 8) (s : State) : Out :=
  s.bankWord true (fun k x s => (s.writeTagged k x (truthTable a b c out table)).updBank k (fun _ => x))
/-- R284 -/
def execBtset (s : State) : Out := s.bankReg (fun x => { x with t := BitVec.allOnes 512 })
/-- R284 -/
def execBtclr (s : State) : Out := s.bankReg (fun x => { x with t := 0 })
/-- R284 -/
def execBtnot (s : State) : Out := s.bankReg (fun x => { x with t := ~~~x.t })
/-- R284: T shifted by the signed n. -/
def execBshf (n : BitVec 10) (s : State) : Out :=
  s.bankReg (fun x => { x with
    t := if 0 ≤ n.toInt then x.t <<< n.toInt.toNat else x.t >>> (-n.toInt).toNat })
/-- R284 -/
def execBcnt (s : State) : Out := s.bankReg (fun x => { x with result := BitVec.ofNat 16 x.t.cpop.toNat })
/-- R284 -/
def execBfst (s : State) : Out :=
  s.bankReg (fun x => { x with result := if x.t = 0 then 0xFFFF else BitVec.ofNat 16 (lowBit x.t.toNat 512 0) })

/-- R284, R283: `BEND` releases a held row and ends the run. -/
def execBend (s : State) : Out :=
  let b := s.site.bank
  let x := s.bankAt b
  match x.running with
  | none => .next s
  | some r =>
    if x.reopen && x.cause == 0 then s.bankReg id
    else if x.cause ≠ 0 then .next s
    else
      let s1 := s.updBank b (fun y => { y with held := false, running := none, word := y.word + 1 })
      .next { s1 with bankResults := s1.bankResults ++
        [{ age := r.age, place := r.place, run := r.run, bank := b, result := x.result }] }

/-- R287: a refresh takes place between passes and changes nothing that a program can see. -/
def execRefresh (s : State) : Out := .next s

end Sys2Proof.Machine
end

