-- ==== Sys2Proof/Machine/Convert.lean ====
section
/-!
DEFINITION. Conversion, quantising, butterflies, in-token reductions and prefix sums of a CE (R142-R147).
-/

namespace Sys2Proof.Machine

/-- R134: the tokens at the head of an input that a form of r tokens per firing takes: the data tokens before the first
control token, and that control token if it stands within the first r. -/
def takeData : Nat → List InTok → List Token × Option Token
  | 0, _ => ([], none)
  | _, [] => ([], none)
  | r + 1, t :: ts =>
    if t.tok.kind.isControl then ([], some t.tok)
    else
      let (d, c) := takeData r ts
      (t.tok :: d, c)

/-- Rows cut into elements of b bits, in order. -/
def rowsElems (b : Nat) (rs : List Row) : List Nat := rs.flatMap (rowElems b)

/-- A list cut into pieces of n. -/
def chunksOf (n : Nat) : Nat → List Nat → List (List Nat)
  | 0, _ => []
  | k + 1, l => l.take n :: chunksOf n k (l.drop n)

/-- The rows expanded under XI, read in elements of b bits. -/
def Elem.expandIf (el : Elem) (xi : Bool) (b : Nat) (rs : List Row) : Except Nat (List Row) :=
  if xi then el.expandRows b rs else .ok rs

/-- R134: the shared form of `CVT` and `QNT4`: r tokens in, the output rows computed from them, and a control token that
stands among them handled in the same firing. An `XCHG` or swap token behind data stays for the element (R135, log 18). -/
def State.gatherForm (s : State) (code : Nat) (sl : Slot) (b r : Nat) (f : List Row → List Row) : Fire :=
  let e := s.site.elem
  let n := s.site.slot
  let el := s.elem e
  let p := sl.in0.toNat
  let (d, c) := takeData r (el.chan p)
  match d, c with
  | [], none => .wait
  | [], some t => controlFire n el sl (slotChannels code sl) t
  | d, c =>
    if d.length < r ∧ c.isNone then .wait
    else if d.any (·.tile) then .fault [] 4 (some p) 0
    else
      match el.expandIf (slotXi sl) b (d.map Token.row) with
      | .error i =>
        -- R133, R164: the room that the firing would need
        let kept := match c with | some t => t.kind.taken && el.computes | none => true
        .fault ((f (d.map Token.row)).flatMap (fun _ => toPorts sl.outmask {}) ++ (if kept then [] else toPorts sl.outmask {})) 3 (some p) i
      | .ok rows =>
        let outs := (f rows).flatMap (fun x => toPorts sl.outmask (.dat x))
        let last := (f rows).getD 0 0
        match c with
        | some t =>
          if t.kind.taken && el.computes then
            .go { eat := d.map (fun _ => p), out := outs, elem := (el.tileWrite n sl last).tick n }
          else
            .go { eat := p :: d.map (fun _ => p), out := outs ++ toPorts sl.outmask t,
                  elem := ((el.tileWrite n sl last).tick n).ctlSlot n }
        | none => .go { eat := d.map (fun _ => p), out := outs, elem := (el.tileWrite n sl last).tick n }

/-- R142: `CVT`. -/
def execCvt (sl : Slot) (s : State) : Out :=
  let el := s.elem s.site.elem
  match numOf (sl.imm.toNat % 256), numOf el.fmt with
  | some src, some dst =>
    let ns := 512 / src.bits
    let nd := 512 / dst.bits
    let g := Nat.gcd ns nd
    s.fireSlot 0x30 sl false (s.gatherForm 0x30 sl src.bits (nd / g) (fun rows =>
      let vs := rowsElems src.bits (rows ++ List.replicate (nd / g - rows.length) 0)
      (chunksOf nd (ns / g) (vs.map (convert src dst (slotMode sl) (slotSat sl)))).map (packRow dst.bits)))
  | _, _ => .next s

/-- R53: the block length of a Block-4 format code. -/
def blkLen (fmt : Nat) : Nat := if 0x30 ≤ fmt then 32 else 16
/-- R53: whether a format code is Block-4. -/
def isBlk (fmt : Nat) : Bool := (decide (0x20 ≤ fmt) && decide (fmt ≤ 0x24)) || (decide (0x30 ≤ fmt) && decide (fmt ≤ 0x34))

/-- R112, R143: the group of 96 quantised inputs of which the first `have` were supplied; blocks with none get zeros. -/
def quantGroup (fmt : Nat) (mode : RMode) (vs : List Nat) (have_ : Nat) : Row :=
  let len := blkLen fmt
  let bs := (chunksOf len (96 / len) vs).zipIdx.map (fun x =>
    if x.2 * len < have_ then quantBlock (fmt % 8) mode x.1 else (0, List.replicate len 0))
  BitVec.ofNat 512 (packBits 4 (bs.flatMap (·.2)) + 2^384 * packBits 8 (bs.map (·.1)))

/-- R143: `QNT4`. -/
def execQnt4 (sl : Slot) (s : State) : Out :=
  let fmt := (s.elem s.site.elem).fmt
  if isBlk fmt then
    s.fireSlot 0x31 sl false (s.gatherForm 0x31 sl 32 6 (fun rows =>
      [quantGroup fmt (slotMode sl) (rowsElems 32 (rows ++ List.replicate (6 - rows.length) 0)) (16 * rows.length)]))
  else .next s

/-- R113: the 96 values of a group. -/
def groupVals (fmt : Nat) (r : Nat) : List FVal :=
  (List.range 96).map (fun j => blkVal (bitsAt r (384 + 8 * (j / blkLen fmt)) 8) (bitsAt r (4 * j) 4))

/-- R144: `DQN4`. -/
def execDqn4 (sl : Slot) (s : State) : Out :=
  let e := s.site.elem
  let n := s.site.slot
  let el := s.elem e
  let out : FFmt := match sl.imm.toNat % 4 with | 0 => fp32 | 1 => fp16 | _ => bf16
  let ports := slotChannels 0x32 sl
  if isBlk el.fmt then
    s.fireSlot 0x32 sl false (match el.heads ports with
      | .wait => .wait
      | .mismatch c => .fault [] 1 (some c) 0
      | .control t => controlFire n el sl ports t
      | .data =>
        match el.wrongShape ports true with
        | some c => .fault [] 4 (some c) 0
        | none =>
          let vs := (groupVals el.fmt ((el.head sl.in0.toNat).getD {}).row.toNat).map (out.ofVal (slotMode sl) false)
          let per := 512 / out.bits
          .go { eat := ports,
                out := (chunksOf per (96 / per) vs).flatMap (fun l => toPorts sl.outmask (.dat (packRow out.bits l))),
                elem := el.tick n })
  else .next s

/-- R145: one stage within a token at stride 2^k. -/
def butterfly (f : FFmt) (mode : RMode) (k : Nat) (x : List Nat) : List Nat :=
  (List.range x.length).map (fun j =>
    let i := if j / 2^k % 2 = 0 then j else j - 2^k
    if j / 2^k % 2 = 0 then f.add mode (x.getD i 0) (x.getD (i + 2^k) 0) else f.sub mode (x.getD i 0) (x.getD (i + 2^k) 0))

/-- R145: one stage across two tokens: the sum on the lower output, the difference on the higher. -/
def State.bflyAcross (s : State) (sl : Slot) (f : FFmt) : Fire :=
  let e := s.site.elem
  let n := s.site.slot
  let el := s.elem e
  let ports := slotChannels 0x33 sl
  match el.heads ports with
  | .wait => .wait
  | .mismatch c => .fault [] 1 (some c) 0
  | .control t => controlFire n el sl ports t
  | .data =>
    match el.wrongShape ports true with
    | some c => .fault [] 4 (some c) 0
    | none =>
      match s.operandRows e n sl f.bits false [sl.in0, sl.in1] with
      | .error (c, i) => .fault (toPorts sl.outmask {}) 3 (some c) i
      | .ok rows =>
        let x := rowElems f.bits (rows.getD 0 0)
        let z := rowElems f.bits (rows.getD 1 0)
        let m := slotMode sl
        let ps := maskPorts sl.outmask
        .go { eat := ports,
              out := [(ps.getD 0 0, .dat (packRow f.bits ((x.zip z).map (fun p => f.add m p.1 p.2)))),
                      (ps.getD 1 0, .dat (packRow f.bits ((x.zip z).map (fun p => f.sub m p.1 p.2))))],
              elem := el.tick n }

/-- R145: `BFLY`. -/
def execBfly (sl : Slot) (s : State) : Out :=
  match numOf (s.elem s.site.elem).fmt with
  | some (.flt f) =>
    let k := sl.imm.toNat % 8
    if 2^k = 512 / f.bits then s.fireSlot 0x33 sl false (s.bflyAcross sl f)
    else s.fireSlot 0x33 sl false (s.rowForm 0x33 sl f.bits (fun el rows =>
      (packRow f.bits (butterfly f (slotMode sl) k (rowElems f.bits (rows.getD 0 0))), el)))
  | _ => .next s

-- reductions ------------------------------------------------------------------------------------

/-- R116, R120, R146: what a reduction does with two elements: code 0x38 sum, 0x39 maximum, 0x3A minimum. -/
def reduceTwo (t : Num) (code : Nat) (mode : RMode) (a b : Nat) : Nat :=
  match t with
  | .flt f => if code = 0x38 then f.add mode a b else if code = 0x39 then f.max a b else f.min a b
  | .int i =>
    if code = 0x38 then i.reduce false (i.val a + i.val b)
    else if code = 0x39 then (if i.val a ≤ i.val b then b else a)
    else (if i.val a ≤ i.val b then a else b)

/-- R146: the identity of an empty fibre in segment mode. -/
def reduceIdentity (t : Num) (code : Nat) : Nat :=
  match t with
  | .flt f =>
    if code = 0x38 then f.zero false
    else if f.e4m3 then f.largest (code == 0x39) else f.inf (code == 0x39)
  | .int i => if code = 0x38 then 0 else wrapN i.n (if code = 0x39 then i.min else i.max)

/-- R116, R146: the elements of a token reduced by the fixed tree. -/
def reduceRow (t : Num) (code : Nat) (mode : RMode) (r : Row) : Nat :=
  treeSum (reduceTwo t code mode) (512 / t.bits).log2 (rowElems t.bits r)

/-- R146: segment mode: a data firing folds into the carry and emits nothing; a control token that closes a level-1 fibre
first emits the carry. -/
def State.segmentForm (s : State) (code : Nat) (sl : Slot) (t : Num) : Fire :=
  let e := s.site.elem
  let n := s.site.slot
  let el := s.elem e
  let ports := slotChannels code sl
  match el.heads ports with
  | .wait => .wait
  | .mismatch c => .fault [] 1 (some c) 0
  | .control k =>
    let carry := (el.slot n).carry
    let closes := match k.kind with | .stop _ => true | .eos => carry.isSome | _ => false
    let v := match carry with | some c => c.toNat | none => reduceIdentity t code
    let out := if closes then toPorts sl.outmask (.dat (packRow t.bits [v])) else []
    .go { eat := ports, out := out ++ toPorts sl.outmask k, elem := el.ctlSlot n, data := false }
  | .data =>
    match el.wrongShape ports true with
    | some c => .fault [] 4 (some c) 0
    | none =>
      match s.operandRows e n sl t.bits false [sl.in0] with
      | .error (c, i) => .fault [] 3 (some c) i
      | .ok rows =>
        let r := reduceRow t code (slotMode sl) (rows.getD 0 0)
        let v := match (el.slot n).carry with | some c => reduceTwo t code (slotMode sl) c.toNat r | none => r
        .go { eat := ports, out := [], elem := (el.updSlot n (fun x => { x with carry := some (BitVec.ofNat 64 v) })).tick n }

/-- R146: a reduction of one token, or of a level-1 fibre in segment mode. -/
def State.reduceForm (s : State) (code : Nat) (sl : Slot) : Out :=
  match numOf (s.elem s.site.elem).fmt with
  | some t =>
    if sl.imm.toNat % 2 = 1 then s.fireSlot code sl false (s.segmentForm code sl t)
    else s.fireSlot code sl false (s.rowForm code sl t.bits (fun el rows =>
      (packRow t.bits [reduceRow t code (slotMode sl) (rows.getD 0 0)], el)))
  | none => .next s

/-- R146 -/
def execRsum (sl : Slot) (s : State) : Out := s.reduceForm 0x38 sl
/-- R146 -/
def execRmax (sl : Slot) (s : State) : Out := s.reduceForm 0x39 sl
/-- R146 -/
def execRmin (sl : Slot) (s : State) : Out := s.reduceForm 0x3A sl

/-- R103: an element passed on as the result of a form of a format. -/
def Num.canon (t : Num) (v : Nat) : Nat := match t with | .flt f => f.canon v | .int _ => v

/-- R147: the inclusive prefix of a list from a carry; `g` makes a result of the first element (R103). -/
def prefixFrom (f : Nat → Nat → Nat) (g : Nat → Nat) : Option Nat → List Nat → List Nat × Option Nat
  | c, [] => ([], c)
  | c, e :: r =>
    let v := match c with | some x => f x e | none => g e
    let p := prefixFrom f g (some v) r
    (v :: p.1, p.2)

/-- R147: `SCAN`. -/
def execScan (sl : Slot) (s : State) : Out :=
  let n := s.site.slot
  match numOf (s.elem s.site.elem).fmt with
  | some t =>
    s.fireSlot 0x3B sl false (s.rowForm 0x3B sl t.bits (fun el rows =>
      let p := prefixFrom (reduceTwo t 0x38 (slotMode sl)) t.canon ((el.slot n).carry.map BitVec.toNat) (rowElems t.bits (rows.getD 0 0))
      (packRow t.bits p.1, el.updSlot n (fun x => { x with carry := p.2.map (BitVec.ofNat 64) }))))
  | none => .next s

end Sys2Proof.Machine
end

