-- ==== Sys2Proof/Machine/FloatForms.lean ====
section
/-!
DEFINITION. The floating-point forms of a CE (R136-R140): one result per element, rounded once.
-/

namespace Sys2Proof.Machine

/-- R131, R140: the forms that take FP32 only. -/
def State.fp32Form (s : State) (code : Nat) (sl : Slot) (f : Nat → Nat) : Out :=
  s.fpForm code sl (fun t a _ _ => if t = fp32 then f a else t.nan)

/-- R136, R137: Round(a + b, mode). -/
def execFadd (sl : Slot) (s : State) : Out := s.fpForm 0x10 sl (fun t a b _ => t.add (slotMode sl) a b)

/-- R136, R137: Round(a − b, mode). -/
def execFsub (sl : Slot) (s : State) : Out := s.fpForm 0x11 sl (fun t a b _ => t.sub (slotMode sl) a b)

/-- R136, R137: Round(a × b, mode). -/
def execFmul (sl : Slot) (s : State) : Out := s.fpForm 0x12 sl (fun t a b _ => t.mul (slotMode sl) a b)

/-- R136, R137: Round(a × b + c, mode), rounded once. -/
def execFfma (sl : Slot) (s : State) : Out := s.fpForm 0x13 sl (fun t a b c => t.fma (slotMode sl) a b c)

/-- R136, R120 -/
def execFmin (sl : Slot) (s : State) : Out := s.fpForm 0x14 sl (fun t a b _ => t.min a b)

/-- R136, R120 -/
def execFmax (sl : Slot) (s : State) : Out := s.fpForm 0x15 sl (fun t a b _ => t.max a b)

/-- R138: all ones where the predicate of imm16[2:0] holds. -/
def execFcmp (sl : Slot) (s : State) : Out := s.fpForm 0x16 sl (fun t a b _ => maskOf t.bits (fcmpHolds t sl.imm.toNat a b))

/-- R139 -/
def execFrnd (sl : Slot) (s : State) : Out := s.fpForm 0x17 sl (fun t a _ _ => t.rnd (slotMode sl) a)

/-- R139 -/
def execFexpx (sl : Slot) (s : State) : Out := s.fpForm 0x18 sl (fun t a _ _ => t.expx (s.elem s.site.elem).fmt a)

/-- R139 -/
def execFexpi (sl : Slot) (s : State) : Out := s.fpForm 0x19 sl (fun t a b _ => t.expi (slotMode sl) a b)

/-- R138 -/
def execFclas (sl : Slot) (s : State) : Out := s.fpForm 0x1D sl (fun t a _ _ => fclass t a)

/-- R140 -/
def execFexp2f (sl : Slot) (s : State) : Out := s.fp32Form 0x1A sl fexp2

/-- R140 -/
def execFrcp (sl : Slot) (s : State) : Out := s.fp32Form 0x1B sl frcp

/-- R140 -/
def execFrsq (sl : Slot) (s : State) : Out := s.fp32Form 0x1C sl frsq

end Sys2Proof.Machine
end

