-- ==== Sys2Proof/Machine/IntForms.lean ====
section
/-!
DEFINITION. The integer forms of a CE (R141): each element computed exactly and reduced by R100.
-/

namespace Sys2Proof.Machine

/-- R141: a shift count is b read unsigned; a × 2^s, 0 without SAT when s reaches the width. A count beyond the width with
SAT clamps as every greater one does. -/
def shiftLeft (i : IFmt) (sat : Bool) (a b : Nat) : Nat :=
  let c := b % 2^i.n
  if i.n ≤ c ∧ !sat then 0 else i.reduce sat (i.val a * ((2^(Nat.min c i.n) : Nat) : Int))

/-- R141: the bits shifted logically right. -/
def shiftRight (i : IFmt) (a b : Nat) : Nat :=
  let c := b % 2^i.n
  if i.n ≤ c then 0 else a % 2^i.n / 2^c

/-- R141: the arithmetic shift in signed formats; every bit the sign when the count reaches the width. -/
def shiftArith (i : IFmt) (a b : Nat) : Nat :=
  if i.signed then wrapN i.n (i.val a / ((2^(Nat.min (b % 2^i.n) i.n) : Nat) : Int)) else shiftRight i a b

/-- R141: leading zeros within n bits. -/
def leadingZeros (n a : Nat) : Nat := if a % 2^n = 0 then n else n - 1 - (a % 2^n).log2

/-- R141: set bits among n. -/
def setBits (n a : Nat) : Nat := ((List.range n).filter (fun k => a / 2^k % 2 = 1)).length

/-- R141 -/
def execIadd (sl : Slot) (s : State) : Out := s.intForm 0x20 sl (fun i a b _ => i.reduce (slotSat sl) (i.val a + i.val b))

/-- R141 -/
def execIsub (sl : Slot) (s : State) : Out := s.intForm 0x21 sl (fun i a b _ => i.reduce (slotSat sl) (i.val a - i.val b))

/-- R141 -/
def execImul (sl : Slot) (s : State) : Out := s.intForm 0x22 sl (fun i a b _ => i.reduce (slotSat sl) (i.val a * i.val b))

/-- R141 -/
def execImad (sl : Slot) (s : State) : Out := s.intForm 0x23 sl (fun i a b c => i.reduce (slotSat sl) (i.val a * i.val b + i.val c))

/-- R141 -/
def execImin (sl : Slot) (s : State) : Out := s.intForm 0x24 sl (fun i a b _ => if i.val a ≤ i.val b then a else b)

/-- R141 -/
def execImax (sl : Slot) (s : State) : Out := s.intForm 0x25 sl (fun i a b _ => if i.val a ≤ i.val b then b else a)

/-- R141 -/
def execIshl (sl : Slot) (s : State) : Out := s.intForm 0x29 sl (fun i a b _ => shiftLeft i (slotSat sl) a b)

/-- R141 -/
def execIshr (sl : Slot) (s : State) : Out := s.intForm 0x2A sl (fun i a b _ => shiftRight i a b)

/-- R141 -/
def execIsar (sl : Slot) (s : State) : Out := s.intForm 0x2B sl (fun i a b _ => shiftArith i a b)

/-- R141 -/
def execIcmp (sl : Slot) (s : State) : Out := s.intForm 0x2C sl (fun i a b _ => maskOf i.n (icmpHolds i sl.imm.toNat a b))

/-- R141 -/
def execIclz (sl : Slot) (s : State) : Out := s.intForm 0x2D sl (fun i a _ _ => leadingZeros i.n a)

/-- R141 -/
def execIpopc (sl : Slot) (s : State) : Out := s.intForm 0x2E sl (fun i a _ _ => setBits i.n a)

/-- R141: on bit patterns, in floating formats too. -/
def execIand (sl : Slot) (s : State) : Out := s.bitForm 0x26 sl (fun a b _ => a &&& b)

/-- R141: on bit patterns, in floating formats too. -/
def execIor (sl : Slot) (s : State) : Out := s.bitForm 0x27 sl (fun a b _ => a ||| b)

/-- R141: on bit patterns, in floating formats too. -/
def execIxor (sl : Slot) (s : State) : Out := s.bitForm 0x28 sl (fun a b _ => a ^^^ b)

/-- R141: on bit patterns, in floating formats too. -/
def execIsel (sl : Slot) (s : State) : Out := s.bitForm 0x2F sl (fun a b c => if c ≠ 0 then a else b)

end Sys2Proof.Machine
end

