-- ==== Sys2Proof/Machine/Tile.lean ====
section
/-!
DEFINITION. Tile forms, constants, iteration, sinks and `XLT` (R159-R163, R335), and the events of an element and its channels
(R135, R290).
-/

namespace Sys2Proof.Machine

/-- Whether no row of `tl` is valid. -/
def Elem.tlClear (e : Elem) : Bool := !(e.tlValid.any (fun x => x.2))
/-- R135: whether all 16 rows of `tl` are valid. -/
def Elem.tlFull (e : Elem) : Bool := (List.range 16).all (fun r => e.tlValid.look false r)
/-- The table of 16 rows. -/
def rowTable (rs : List Row) : Tab Row := rs.zipIdx.foldl (fun t x => t.put x.2 x.1) []
/-- Every valid bit set. -/
def allValid : Tab Bool := (List.range 16).map (fun r => (r, true))

/-- R159: `TLDI`. -/
def execTldi (sl : Slot) (s : State) : Out :=
  let n := s.site.slot
  let p := sl.in0.toNat
  let i := sl.imm.toNat
  s.fireSlot 0x50 sl false (s.streamForm 0x50 sl [] (fun el t =>
    if i / 16 % 2 = 0 then
      if !t.tile then .fault [] 4 (some p) 0
      else if !el.tlClear then .wait
      else .go { eat := [p], elem := ({ el with tl := rowTable t.rows, tlValid := allValid } : Elem).tick n }
    else
      if t.tile then .fault [] 4 (some p) 0
      else if el.tlValid.look false (i % 16) then .wait
      else .go { eat := [p],
                 elem := ({ el with tl := el.tl.put (i % 16) t.row, tlValid := el.tlValid.put (i % 16) true } : Elem).tick n }))

/-- The 16 rows of `ta`. -/
def Elem.taRows (e : Elem) : List Row := (List.range 16).map (fun r => e.ta.look 0 r)

/-- R190: the first row among those given that holds an uncorrectable error. -/
def State.badTile (s : State) (e : Nat) (rs : List Nat) : Option Nat := rs.find? (fun r => s.isBad (taKey e r) 1)

/-- R160: `TRD`. -/
def execTrd (sl : Slot) (s : State) : Out :=
  let e := s.site.elem
  let n := s.site.slot
  let p := sl.in0.toNat
  let i := sl.imm.toNat
  let one := i / 16 % 2 = 1
  s.fireSlot 0x51 sl false (s.streamForm 0x51 sl [] (fun el _ =>
    let t := if one then Token.dat (el.ta.look 0 (i % 16)) else Token.tileOf el.taRows
    let out := toPorts sl.outmask t ++ (if i / 64 % 2 = 1 then toPorts sl.outmask (.ctl .xchg) else [])
    match s.badTile e (if one then [i % 16] else List.range 16) with
    | some r => .fault out 8 none r
    | none => .go { eat := [p], out, elem := el.tick n }))

/-- R161: the rows of `ta` with rows and lanes exchanged. -/
def transposed (rs : List Row) : List Row :=
  (List.range 16).map (fun r => packRow 32 ((List.range 16).map (fun j => lane (rs.getD j 0) r)))

/-- R161: `TTR`. -/
def State.ttrForm (s : State) (sl : Slot) : Fire :=
  let e := s.site.elem
  let el := s.elem e
  let p := sl.in0.toNat
  match el.head p with
  | none => .wait
  | some t =>
    if !el.tlClear then .wait
    else if t.kind = .data then
      match s.badTile e (List.range 16) with
      | some r => .fault [] 8 none r
      | none => .go { eat := [p], elem := { el with tl := rowTable (transposed el.taRows), tlValid := allValid } }
    else .go { eat := [p], elem := el }

/-- R161 -/
def execTtr (sl : Slot) (s : State) : Out := s.fireSlot 0x52 sl false (s.ttrForm sl)

/-- R162: `XPND`: the expansion of R127 without a modifier. -/
def execXpnd (sl : Slot) (s : State) : Out :=
  let b := fmtBits (s.elem s.site.elem).fmt
  s.fireSlot 0x53 sl false (s.rowForm 0x53 { sl with mod := 8 } b (fun el rows => (rows.getD 0 0, el)))

/-- R163: whether a format code is Block-4, for which no element value is stated (log 20). -/
def openFormat (fmt : Nat) : Bool := decide (0x20 ≤ fmt)

/-- R163: `CONST`. -/
def execConst (sl : Slot) (s : State) : Out :=
  let n := s.site.slot
  let p := sl.in0.toNat
  s.fireSlot 0x70 sl false (s.streamForm 0x70 sl [] (fun el _ =>
    let r := if openFormat el.fmt then Config.blkOpenRow el.fmt sl.imm.toNat else splat el.fmt (immElem el.fmt sl.imm)
    .go { eat := [p], out := toPorts sl.outmask (.dat r), elem := el.tick n }))

/-- R163: token k of `ITER`. -/
def iterRow (fmt k : Nat) : Row :=
  if openFormat fmt then Config.blkOpenToken fmt k
  else
    let b := fmtBits fmt
    packRow b ((List.range (512 / b)).map (fun j => countElem fmt (k * (512 / b) + j)))

/-- R163: `ITER`, a source. -/
def State.iterForm (s : State) (sl : Slot) : Fire :=
  let n := s.site.slot
  let el := s.elem s.site.elem
  let st := el.slot n
  if st.ended then .wait
  else if st.emitted ≤ sl.imm.toNat then
    .go { out := toPorts sl.outmask (.dat (iterRow el.fmt st.emitted)),
          elem := el.updSlot n (fun x => { x with emitted := x.emitted + 1 }) }
  else .go { out := toPorts sl.outmask (.ctl .eos), elem := el.updSlot n (fun x => { x with ended := true }) }

/-- R163 -/
def execIter (sl : Slot) (s : State) : Out := s.fireSlot 0x71 sl true (s.iterForm sl)

/-- R163: `SINK`. -/
def State.sinkForm (s : State) (sl : Slot) : Fire :=
  let el := s.elem s.site.elem
  let p := sl.in0.toNat
  match el.head p with
  | none => .wait
  | some _ => .go { eat := [p], elem := el }

/-- R163 -/
def execSink (sl : Slot) (s : State) : Out := s.fireSlot 0x72 sl false (s.sinkForm sl)

/-- R335: the result of one address. -/
def State.xltOne (s : State) (own : TlbOwner) (die job : Nat) (write : Bool) (va : Nat) : Nat :=
  let code (n : Nat) := 2^63 + n
  if 2^60 ≤ va then code 1
  else
    match (match s.cached own die job va with | some x => some x | none => s.walkOn die job va) with
    | none => code 2
    | some (e, big) =>
      let l := leafOf e big va
      if !s.populated l.pa then code 3
      else if write && !l.writable then code 4
      else (if bitsAt (s.roots64.look 0 job).toNat 37 1 = 1 then l.pa else 0) + l.kind * 2^52 +
        (if l.writable then 2^54 else 0) + (if l.egress then 2^55 else 0) + l.policy * 2^56

/-- R286, R327: an address at the head of an input would be walked while a row is held. -/
def State.xltWaits (s : State) (own : TlbOwner) (die job : Nat) (a : Option Token) : Bool :=
  match a with
  | some t => t.kind == .data && (rowElems 64 t.row).any (fun va => decide (va < 2^60) && s.walkWaits own die job va)
  | none => false

/-- R335: `XLT`, which never faults; where one of its addresses is to be walked while a row is held, it waits (R327). -/
def execXlt (sl : Slot) (s : State) : Out :=
  let e := s.site.elem
  let n := s.site.slot
  let p := sl.in0.toNat
  let t := s.strand (s.strandOf e)
  if s.xltWaits (.age e) (dieOf (panelOf e)) t.job ((s.elem e).head p) then .next s
  else
  s.fireSlot 0x80 sl false (s.streamForm 0x80 sl [p] (fun el a =>
    .go { eat := [p],
          out := toPorts sl.outmask (.dat (packRow 64 ((rowElems 64 a.row).map
            (s.xltOne (.age e) (dieOf (panelOf e)) t.job (sl.imm.toNat % 2 == 1))))),
          elem := el.tick n }))

/-- R135: the element takes the `XCHG` at its lowest-numbered input that holds one: `ta` and `tl` change places and the valid
bits clear. Between steps no firing is in flight. -/
def execTileExchange (s : State) : Out :=
  let elem := s.site.elem
  let el := s.elem elem
  match (List.range 8).find? (fun p => el.headIs p .xchg) with
  | some p =>
    if el.computes && el.tlFull then
      .next ((s.setElem elem { el with ta := el.tl, tl := el.ta, tlValid := [] }).consume elem p)
    else .next s
  | none => .next s

/-- R135, R345: the element takes a swap token; its bit [0] names the bank made active. -/
def execFretSwap (s : State) : Out :=
  let elem := s.site.elem
  let el := s.elem elem
  match (List.range 8).find? (fun p => el.headIs p .swap) with
  | some p =>
    if el.computes then
      let b := ((el.head p).getD {}).row.toNat % 2 == 1
      .next ((s.setElem elem { el with active := b }).consume elem p)
    else .next s
  | none => .next s

/-- R290, R310: the oldest token of a route arrives at its input; one of a link virtual channel passes the ingress of the link. -/
def execChannelDelivery (elem entry : Nat) (s : State) : Out :=
  let r : Route := (s.elem elem).routes.look {} entry
  match r.link with
  | none => .next (s.deliver elem entry)
  | some c => .next (s.admitLink elem entry c r)

end Sys2Proof.Machine
end

