-- ==== Sys2Proof/Machine/Slots.lean ====
section
/-!
DEFINITION. Whether a slot of an element is ready (R28): its firing would change the element.
-/

namespace Sys2Proof.Machine

/-- The firing that a slot's instruction makes; every other instruction leaves the state. -/
def slotExec (i : Instr) (s : State) : Out :=
  match i with
  | .fadd sl => execFadd sl s
  | .fsub sl => execFsub sl s
  | .fmul sl => execFmul sl s
  | .ffma sl => execFfma sl s
  | .fmin sl => execFmin sl s
  | .fmax sl => execFmax sl s
  | .fcmp sl => execFcmp sl s
  | .frnd sl => execFrnd sl s
  | .fexpx sl => execFexpx sl s
  | .fexpi sl => execFexpi sl s
  | .fexp2f sl => execFexp2f sl s
  | .frcp sl => execFrcp sl s
  | .frsq sl => execFrsq sl s
  | .fclas sl => execFclas sl s
  | .iadd sl => execIadd sl s
  | .isub sl => execIsub sl s
  | .imul sl => execImul sl s
  | .imad sl => execImad sl s
  | .imin sl => execImin sl s
  | .imax sl => execImax sl s
  | .iand sl => execIand sl s
  | .ior sl => execIor sl s
  | .ixor sl => execIxor sl s
  | .ishl sl => execIshl sl s
  | .ishr sl => execIshr sl s
  | .isar sl => execIsar sl s
  | .icmp sl => execIcmp sl s
  | .iclz sl => execIclz sl s
  | .ipopc sl => execIpopc sl s
  | .isel sl => execIsel sl s
  | .cvt sl => execCvt sl s
  | .qnt4 sl => execQnt4 sl s
  | .dqn4 sl => execDqn4 sl s
  | .bfly sl => execBfly sl s
  | .rsum sl => execRsum sl s
  | .rmax sl => execRmax sl s
  | .rmin sl => execRmin sl s
  | .scan sl => execScan sl s
  | .intsc sl => execIntsc sl s
  | .union sl => execUnion sl s
  | .filt sl => execFilt sl s
  | .stopg sl => execStopg sl s
  | .stopx sl => execStopx sl s
  | .cnt sl => execCnt sl s
  | .route sl => execRoute sl s
  | .mux sl => execMux sl s
  | .dup sl => execDup sl s
  | .hold sl => execHold sl s
  | .accu sl => execAccu sl s
  | .drn sl => execDrn sl s
  | .tldi sl => execTldi sl s
  | .trd sl => execTrd sl s
  | .ttr sl => execTtr sl s
  | .xpnd sl => execXpnd sl s
  | .mma sl => execMma sl s
  | .mmas sl => execMmas sl s
  | .mmz sl => execMmz sl s
  | .mrd sl => execMrd sl s
  | .mscl sl => execMscl sl s
  | .const sl => execConst sl s
  | .iter sl => execIter sl s
  | .sink sl => execSink sl s
  | .xlt sl => execXlt sl s
  | _ => .next s

/-- The state with an element's slot as the acting site. -/
def State.atSlot (e n : Nat) (s : State) : State := { s with site := { s.site with elem := e, slot := n } }

/-- R28: whether slot n of element e is ready: a firing of it, begun or refused by a fault, would change the element. -/
def State.slotReady (s : State) (e n : Nat) : Bool :=
  let el := s.elem e
  el.configured && el.slotMask / 2^n % 2 == 1 &&
  (match decodeSlot (el.slots.look 0 n).toNat with
   | .error _ => false
   | .ok i =>
     match slotExec i (s.atSlot e n) with
     | .next s1 => s1.elem e != el
     | _ => false)

/-- R135: an exchange or a fret swap of an element would change it. -/
def State.swapReady (s : State) (e : Nat) : Bool :=
  (match execTileExchange (s.atSlot e 0) with | .next s1 => s1.elem e != s.elem e | _ => false) ||
  (match execFretSwap (s.atSlot e 0) with | .next s1 => s1.elem e != s.elem e | _ => false)

/-- R189 step 5: no slot of a strand's set is ready, and no exchange stands to be made. -/
def State.still (s : State) (k : Nat) : Bool :=
  (s.strand k).elems.all (fun e =>
    !(s.elem e).configured || (!(List.range 4).any (fun n => s.slotReady e n) && !s.swapReady e))

end Sys2Proof.Machine
end

