-- ==== Sys2Proof/Machine/Region.lean ====
section
/-!
DEFINITION. Regions: the region commands, the freeze's end, the stall watch with its occupancy map, and the event ring
(R18, R188-R197, R387).
-/

namespace Sys2Proof.Machine

/-- R188: the region register of a strand changed. -/
def State.updRegion (k : Nat) (f : Region → Region) (s : State) : State := s.updStrand k (fun t => { t with region := f t.region })

/-- R188: the region status register. -/
def Region.bits (r : Region) : Nat :=
  (match r.state with | .running => 0 | .freezing => 1 | .frozen => 2 | .halted => 3) + (if r.fault then 2^2 else 0) +
  (if r.hang then 2^3 else 0) + (if r.trap then 2^4 else 0) + r.firstPanel % 2^7 * 2^16 + r.firstElem % 2^6 * 2^23 + r.firstSource % 4 * 2^29

/-- R191: the command register's read-back. -/
def State.regionStatus (k : Nat) (refused : Bool) (s : State) : State := s.updRegion k (fun r => { r with cmdStatus := refused })

/-- R191, R192: the fault registers of an element and its port cleared, and what they held released. The whole port register clears, its
spilled bit among it, though entries stay in the spill queue: R191 has retry clear every fault register, while R187 and R309
name the drain alone for that bit (DESIGN CHOICE, log 102). -/
def Elem.resume (cyc : BitVec 64) (e : Elem) : Elem :=
  { e with fault := 0, age := { e.age with
      port := 0, spillHeld := false, drainAt := if e.age.spillHeld then cyc else e.age.drainAt
      places := e.age.places.map (fun (p : Nat × Place) => (p.1, { p.2 with held := false })) } }

/-- R192, R227: a write of a place that its home refused is issued again from its port, translated afresh (R336). One that finds no translation
now is diverted; at a write that the spill queue had issued the entry goes back to the head of that queue. Another check that it fails is the port's
fault. -/
def State.reissueAt (r : Req) (e p i : Nat) (s : State) : State :=
  let x := s.place e p
  match s.checkSpace e 4 r.va r.size (.streamWrite r.size) true with
  | .ok l => s.setReq { r with
      stage := .issued, home := l.home, key := l.key, policy := l.policy, regionKind := l.kind, kind := if l.kind = 1 then r.kind else .write }
  | .error c =>
    if c = 2 ∧ (s.elem e).age.spills.length < Config.spillEntries then
      (s.retire r).spillIn e { va := BitVec.ofNat 60 r.va, size := r.size, op := x.op, fused := x.cmd.fused.toNat, mask := BitVec.ofNat 64 (2^r.size - 1)
                               data := r.data, place := p, bar := r.bar, index := i
                               full := match r.kind with | .copySync m => some m | _ => none } r.agent.spillOf.isSome id
    else s.holdPlace e p c x.op i (faultAddr r.va) 4

/-- R192: a write that its home refused is issued again. -/
def State.reissue (r : Req) (s : State) : State :=
  match r.agent, r.dest with
  | .place e p, .elem _ _ i => s.reissueAt r e p i
  | .spill e p, .elem _ _ i => s.reissueAt r e p i
  | _, _ => s

/-- R191, R192, R285: `retry` of a frozen region: nothing that was performed happens again. -/
def execRetry (s : State) : Out :=
  let strand := s.site.strand
  let t := s.strand strand
  if !t.onFabric || t.region.state != .frozen then .next (s.regionStatus strand true)
  else
    let es := t.elems
    let s1 := es.foldl (fun s e => if s.elems.has e then s.updElem e (Elem.resume s.cyc) else s) s
    let s2 : State := { s1 with banks := s1.banks.map (fun (b : Nat × Bank) =>
      (b.1, match b.2.running with
        | some r => if es.contains r.age then { b.2 with cause := 0 } else b.2
        | none => b.2)) }
    let s3 := s2.updStrand strand (fun t => { t with
      fault := 0, waiting := false, quiet := 0
      region := { t.region with state := .running, fault := false, hang := false, cmdStatus := false } })
    .next ((s3.reqs.filter (fun r => r.stage == .returned && (match r.agent.ageOf with | some e => es.contains e | none => false))).foldl
      (fun s r => s.reissue r) s3)

/-- R191, R197: `resume` clears the trap stop. -/
def execResume (s : State) : Out :=
  let strand := s.site.strand
  let t := s.strand strand
  if t.onFabric && t.region.trap then
    .next (s.updRegion strand (fun r => { r with trap := false, cmdStatus := false }))
  else .next (s.regionStatus strand true)

/-- R191, R189: `freeze` starts the freeze with no fault recorded. -/
def execFreeze (s : State) : Out :=
  let strand := s.site.strand
  let t := s.strand strand
  if t.onFabric && t.region.state == .running then
    .next ((s.beginFreeze strand).updRegion strand (fun r => { r with cmdStatus := false }))
  else .next (s.regionStatus strand true)

/-- R191, R18: `cancel` of a strand, in any state. -/
def execCancel (s : State) : Out :=
  let strand := s.site.strand
  if (s.strand strand).onFabric then .next (s.cancelReplica strand) else .next (s.regionStatus strand true)

/-- R189: the region is frozen once no firing is in flight and no slot is ready. A pre-emption that stops at once has its own end. -/
def execRegionFrozen (s : State) : Out :=
  let strand := s.site.strand
  let t := s.strand strand
  if t.onFabric && t.region.state == .freezing && !(s.job t.job).preempting && s.still strand then
    .next (s.updRegion strand (fun r => { r with state := .frozen }))
  else .next s

-- the stall watch ---------------------------------------------------------------------------------

/-- R193: a channel, elastic buffer, command queue or spill queue of an element holds a token. -/
def Elem.holdsToken (x : Elem) : Bool :=
  x.chans.any (fun c => !c.2.isEmpty) || x.routes.any (fun r => !r.2.flight.isEmpty) || !x.age.queue.isEmpty || !x.age.spills.isEmpty

/-- R193: some channel, elastic buffer, command queue or spill queue of the region holds a token. -/
def State.holdsToken (s : State) (k : Nat) : Bool :=
  let ps := (s.strand k).panels
  s.elems.any (fun e => e.2.holdsToken && ps.contains (panelOf e.1))

/-- R195: the map's record of one element. -/
def State.mapElem (s : State) (e : Nat) : Nat :=
  let x := s.elem e
  let count (n : Nat) : Nat := Nat.min 64 (x.chan n).length
  let kind (n : Nat) : Nat := match x.head n with | some t => t.kind.code | none => 0
  let slots := (List.range 4).filterMap (fun n =>
    match slotDecodedAt x n with
    | some (code, sl) => some (n, (slotChannels code sl).all (fun p => (x.head p).isSome), (maskPorts sl.outmask).all (fun p => x.room p 1))
    | none => none)
  let bits (f : Nat × Bool × Bool → Bool) : Nat := ((slots.filter f).map (fun q => 2^q.1)).sum
  packBits 7 ((List.range 8).map count) + packBits 3 ((List.range 8).map kind) * 2^56 +
  bits (fun q => q.2.1 && !q.2.2) * 2^80 + bits (fun q => !q.2.1) * 2^84 +
  (if x.computes && x.awaitsExchange then 2^88 else 0) + (if x.fault ≠ 0 then 2^89 else 0)
where
  /-- The code and fields of a configured slot. -/
  slotDecodedAt (x : Elem) (n : Nat) : Option (Nat × Slot) :=
    if x.configured ∧ x.slotMask / 2^n % 2 = 1 then
      match decodeSlot (x.slots.look 0 n).toNat with
      | .ok i => i.slotCode
      | .error _ => none
    else none

/-- R195: the occupancy map, 16 bytes a number: the header, then one record for each element. -/
def State.mapWords (s : State) (k : Nat) : List Nat :=
  let t := s.strand k
  let queues := (List.range 8).map (fun r => (s.elem (t.ageAt 0 r)).age.queue.length)
  let head := s.cyc.toNat + t.cpc.toNat * 2^64 + t.spt.toNat * 2^128 + t.kpend.toNat * 2^192 +
    ((t.width - 1) + (t.height - 1) * 16) * 2^200 + packBits 8 queues * 2^256
  (List.range 4).map (fun j => bitsAt head (128 * j) 128) ++ t.elems.map s.mapElem

/-- Consecutive 16-byte numbers written at a virtual address; the first that fails ends it. -/
def State.writeWords (job : Nat) : Nat → List Nat → State → State × Bool
  | _, [], s => (s, true)
  | va, v :: r, s =>
    match s.homeWrite job va 16 v with
    | none => (s, false)
    | some s1 => State.writeWords job (va + 16) r s1

/-- R193-R196: a hang: the region freezes, its map is written and an event posted. -/
def execHangDeclaration (s : State) : Out :=
  let strand := s.site.strand
  let t := s.strand strand
  let interval := bitsAt t.stallCtl.toNat 0 16
  if t.onFabric && t.region.state == .running && interval != 0 && decide (interval * 1024 ≤ t.quiet.toNat) && s.holdsToken strand && !s.rowHeld then
    let r := State.writeWords t.job t.mapAddr.toNat (s.mapWords strand) s
    .next (((r.1.beginFreeze strand).updStrand strand (fun t => { t with
      mapStatus := if r.2 then 1 else 2
      region := { t.region with hang := true } })).postEvent strand 3 t.mapAddr.toNat)
  else .next s

-- events ------------------------------------------------------------------------------------------

/-- R188, R196: an event of a freeze of the present cycle waits for the cycle to pass, in which an item may still fault that comes before the one it
names. -/
def State.eventOpen (s : State) (ev : BitVec 256) : Bool :=
  bitsAt ev.toNat 0 8 == 2 &&
  s.strands.any (fun t => t.2.lead == bitsAt ev.toNat 16 16 && t.2.region.fault && t.2.region.state != .running && t.2.region.firstAt == s.cyc)

/-- R387: the oldest event of a job is written to its ring once there is room, the tail advances, the pending bit is set and vector 0
of the VF is signalled. -/
def execEventRecordPost (job : Nat) (s : State) : Out :=
  let j := s.job job
  s.unheld <| match j.events with
  | [] => .next s
  | ev :: rest =>
    let c := j.vf * 16 + j.box
    let r := s.rings.look {} c
    let n := 2^j.ringLog
    if s.eventOpen ev then .next s
    else if (r.tail.toNat + 1) % n = r.head.toNat % n then .next s
    else
      let a := j.ringPhys + 32 * (r.tail.toNat % n)
      let s1 := (s.claim a).pokeKey 0 a 32 ev.toNat
      let s2 : State := { s1 with
        rings := s1.rings.put c { r with tail := BitVec.ofNat 16 ((r.tail.toNat + 1) % n), pending := true }
        msix := s1.msix ++ [j.vf] }
      .next (s2.updJob job (fun j => { j with events := rest }))

/-- R390: the package answers at its registers: it has booted and is not in recovery. -/
def State.answers (s : State) : Bool := s.boot.running && !s.boot.recovery

/-- R387, R390: the supervisor writes a ring control: the head, and a 1 that clears the pending bit. -/
def execEventRingControlWrite (vf box : Nat) (v : Word) (s : State) : Out :=
  let c := vf * 16 + box
  let r := s.rings.look {} c
  if !s.answers then .next s
  else .next { s with rings := s.rings.put c { r with
    head := BitVec.ofNat 16 (bitsAt v.toNat 16 16), pending := r.pending && bitsAt v.toNat 32 1 == 0 } }

end Sys2Proof.Machine
end

