-- ==== Sys2Proof/Machine/Placement.lean ====
section
/-!
DEFINITION. The job scheduler, the allocator and the hardware loader (R22-R27, R31, R32, R35-R37, R351, R352, R373).
-/

namespace Sys2Proof.Machine

-- graph status ------------------------------------------------------------------------------------

/-- R351: the graph status register. -/
def Job.graphStatus (j : Job) : Nat :=
  j.gstate % 8 + j.gnode % 4096 * 2^3 + j.passes.toNat * 2^15 + j.gcause % 16 * 2^47

/-- R351, R196: the graph engine stops at a fault and posts a kind-7 event with the address of the record at fault. -/
def State.graphFault (j cause addr : Nat) (s : State) : State :=
  s.updJob j (fun x =>
    let y : Job := { x with gstate := 4, gcause := cause }
    { y with events := y.events ++ [eventRecord 7 j 0 y.graphStatus x.graphHdr.toNat addr] })

/-- A 32-byte record of a job's graph, as the engine reads it at the home. -/
def State.graphRecord (s : State) (j a : Nat) : Option Nat :=
  match s.readVirtNat (.die (j % 4)) (j % 4) j a 32 with
  | .ok v => some v
  | .error _ => none

/-- R348: the header's fields. -/
def hdrNodes (h : Nat) : Nat := bitsAt h 0 12 + 1
/-- R348: start node. -/
def hdrStart (h : Nat) : Nat := bitsAt h 12 12
/-- R348: node array. -/
def hdrNodeArray (h : Nat) : Nat := bitsAt h 64 60
/-- R348: edge array. -/
def hdrEdgeArray (h : Nat) : Nat := bitsAt h 128 60
/-- R348: edge count. -/
def hdrEdges (h : Nat) : Nat := bitsAt h 188 12
/-- R348: the address of a node record. -/
def nodeAddr (h n : Nat) : Nat := hdrNodeArray h + 32 * n
/-- R349: the address of an edge record. -/
def edgeAddr (h k : Nat) : Nat := hdrEdgeArray h + 32 * k

-- launches ----------------------------------------------------------------------------------------

/-- A launch entry of a job. -/
def State.launch (s : State) (j n : Nat) : Launch := (s.job j).launches.look {} n

/-- A launch entry changed by f. -/
def State.updLaunch (j n : Nat) (f : Launch → Launch) (s : State) : State :=
  s.updJob j (fun x => { x with launches := x.launches.put n (f (x.launches.look {} n)) })

/-- R22: the page set that a configuration record declares, width and height. -/
def State.recordShape (s : State) (j : Nat) (record : Nat) : Option (Nat × Nat) :=
  (s.graphRecord j record).map (fun v => ((recordOf v).width, (recordOf v).height))

/-- R209: the die that a `CHIP` edge buffer held for a node binds it to. -/
def Job.chipDie (j : Job) (n : Nat) : Option Nat :=
  (j.edges.find? (fun e => e.2.space == 3 && (e.2.producer == n || e.2.consumer == n))).map (fun e => e.2.die)

/-- R385, R395: the dies that a job may use. -/
def State.jobDies (s : State) (j : Nat) : List Nat :=
  (List.range Config.dies).filter (fun d => (s.job j).dieMask / 2^d % 2 == 1 && decide (0 < s.cap.panels.look 0 d))

/-- R209, R349, R400: the dies that a launch may use. A clause of panel, cluster or die scope, or a `CHIP` edge buffer, binds it
to one die. -/
def State.launchDies (s : State) (j n : Nat) : List Nat :=
  let q := s.queues.find? (fun q => q.2.valid && q.2.job == j && q.2.owner == some n && decide (q.2.scope < 3))
  let l := match q with
    | some x => (s.jobDies j).filter (fun d => d == x.1 / 256)
    | none => s.jobDies j
  match (s.job j).chipDie n with
  | some d => l.filter (fun x => x == d)
  | none => l

-- the allocator -----------------------------------------------------------------------------------

/-- R352: an allocator entry. -/
def State.panel (s : State) (p : Nat) : Panel := s.panels.look {} p

/-- The panels of a rectangle at a lead panel, by their package numbers. -/
def rectPanels (die lead w h : Nat) : List Nat :=
  (List.range (w * h)).map (fun k => die * 128 + lead + k / w * 16 + k % w)

/-- R22: a rectangle stands whole within one die. -/
def rectFits (lead w h : Nat) : Bool := decide (lead % 16 + w ≤ 16) && decide (lead / 16 + h ≤ 8)

/-- R25: the lead panel of the lowest rectangle of panels of a die for which `free` holds. -/
def lowestRect (free : Nat → Bool) (die w h : Nat) : Option Nat :=
  (List.range Config.panelsPerDie).find? (fun lead => rectFits lead w h && (rectPanels die lead w h).all free)


/-- Whether rectangles for a number of page sets of one shape can be found together on dies, panels listed in `taken` apart. -/
def roomFor (free : Nat → Bool) (dies : List Nat) (w h : Nat) : Nat → List Nat → Bool
  | 0, _ => true
  | n + 1, taken =>
    match dies.findSome? (fun d => (lowestRect (fun p => free p && !taken.contains p) d w h).map (fun l => (d, l))) with
    | some (d, l) => roomFor free dies w h n (rectPanels d l w h ++ taken)
    | none => false

/-- Whether a launch's next placement can be made over the panels for which `free` holds (R31, R32). -/
def State.launchRoom (s : State) (free : Nat → Bool) (j n : Nat) : Bool :=
  let l := s.launch j n
  match s.recordShape j l.record.toNat with
  | none => true
  | some (w, h) => roomFor free (s.launchDies j n) w h (if l.gang then l.replicas - l.nextReplica else 1) []

/-- R37: the dies of a saved strand: its own for a die-bound job. -/
def State.savedDies (s : State) (j : Nat) (v : Saved) : List Nat :=
  if (s.job j).dieBound then [v.die] else s.launchDies j v.strand.node

/-- R27, R31, R33: the saved strands of a job that come back together with one of them, by their places in the job's list: those of its gang
launch, those of its cut graph, or it alone. -/
def State.together (s : State) (j : Nat) (v : Saved) : List (Nat × Saved) :=
  let x := s.job j
  let gang := (x.launches.look {} v.strand.node).gang
  let group := (s.partOf v.strand).map (·.group)
  ((List.range x.saved.length).zip x.saved).filter (fun u =>
    u.2.key == v.key || (gang && u.2.strand.node == v.strand.node) ||
    (group.isSome && (s.partOf u.2.strand).map (·.group) == group))

/-- Whether rectangles for page sets can be found together, one after another: the dies and the shape of each. -/
def roomForAll (free : Nat → Bool) : List (List Nat × Nat × Nat) → List Nat → Bool
  | [], _ => true
  | (dies, w, h) :: r, taken =>
    match dies.findSome? (fun d => (lowestRect (fun p => free p && !taken.contains p) d w h).map (fun l => (d, l))) with
    | some (d, l) => roomForAll free r (rectPanels d l w h ++ taken)
    | none => false

/-- Whether the rectangles of a saved strand, and of those that come back with it, can be found. -/
def State.savedRoom (s : State) (free : Nat → Bool) (j : Nat) (v : Saved) : Bool :=
  roomForAll free ((s.together j v).map (fun u => (s.savedDies j u.2, u.2.strand.width, u.2.strand.height))) []

/-- The launch node at which an engine stands at a boundary, when it is one that needs panels to begin (R410). -/
def State.boundaryLaunch (s : State) (j : Nat) : Option (Nat × Launch) :=
  let x := s.job j
  match s.graphRecord j x.graphHdr.toNat with
  | none => none
  | some h =>
    match s.graphRecord j (nodeAddr h x.gnode) with
    | none => none
    | some v =>
      let old : Launch := x.launches.look {} x.gnode
      if bitsAt v 0 3 = 1 ∧ !(bitsAt v 30 1 == 1 && (decide (old.replicas ≤ old.halted && old.halted ≠ 0) ||
          s.strands.any (fun t => t.2.job == j && t.2.node == x.gnode && t.2.run == .yielded))) then
        some (x.gnode, { replicas := bitsAt v 32 16 + 1, gang := bitsAt v 29 1 == 1, record := BitVec.ofNat 60 (bitsAt v 64 60) })
      else none

/-- R410: whether a job stopped at a boundary has the panels that its selection needs: those of the launch that its engine chose, whose saved strands are
back; none where it chose another node. -/
def State.boundaryRoom (s : State) (free : Nat → Bool) (j : Nat) : Bool :=
  let x := s.job j
  x.stopped && x.gstate == 2 && !(x.saved.any (fun v => v.strand.node == x.gnode)) &&
  (match s.boundaryLaunch j with
   | none => true
   | some (n, l) =>
     match s.recordShape j l.record.toNat with
     | none => true
     | some (w, h) => roomFor free (s.launchDies j n) w h (if l.gang then l.replicas else 1) [])

/-- R352: a panel is free. -/
def State.isFree (s : State) (p : Nat) : Bool := (s.panel p).state == 0

/-- R24: the distance of a job from the one selected last, in the order in which jobs became resident. -/
def State.turn (s : State) (j : Nat) : Nat :=
  let o := (s.job j).order
  if s.lastPick < o then o - s.lastPick else o + 2^64 - s.lastPick

/-- Whether what a waiting job waits for can be placed over the panels for which `free` holds. -/
def State.canPlace (s : State) (free : Nat → Bool) (j : Nat) : Bool :=
  let x := s.job j
  s.boundaryRoom free j || x.saved.any (fun v => !v.failed && s.savedRoom free j v) ||
  (!x.stopped && x.waitingNodes.any (s.launchRoom free j))

/-- R24: whether a job comes before another in the scheduler's order: by effective priority, and among equals round-robin. -/
def State.precedes (s : State) (a b : Nat) : Bool :=
  decide ((s.job b).effective < (s.job a).effective) ||
  ((s.job a).effective == (s.job b).effective && decide (s.turn a < s.turn b))

/-- R35: no waiting job comes before this one, which waits. -/
def State.foremost (s : State) (j : Nat) : Bool := s.waits j && !(s.jobs.any (fun y => y.1 != j && s.waits y.1 && s.precedes y.1 j))

/-- R35: whether a job may take a panel: it is free, and one that a pre-emption freed goes to the foremost waiting job. -/
def State.usable (s : State) (j p : Nat) : Bool := s.isFree p && (!s.freed.contains p || s.foremost j)

/-- R35, R222: whether a job may take a panel now or once it is zeroed. -/
def State.soonUsable (s : State) (j p : Nat) : Bool := decide ((s.panel p).state ≤ 1) && (!s.freed.contains p || s.foremost j)

/-- R25, R35, R352: the lowest rectangle of a die that a job may take. -/
def State.freeRect (s : State) (j die w h : Nat) : Option Nat := lowestRect (s.usable j) die w h

/-- R24, R410: the scheduler selects a job: it waits, it can be placed, and no other job comes before it that can be placed, or can once panels are zeroed
(log 114). -/
def State.selected (s : State) (j : Nat) : Bool :=
  s.waits j && s.canPlace (s.usable j) j &&
  !(s.jobs.any (fun y => y.1 != j && s.waits y.1 && s.precedes y.1 j && s.canPlace (s.soonUsable y.1) y.1))

/-- R24: a page set of a job is placed: its effective priority falls back, and it becomes the youngest placement. -/
def State.notePlaced (j : Nat) (s : State) : State :=
  { s with lastPick := (s.job j).order }.updJob j (fun x =>
    { x with placedAt := s.cyc, effective := x.priority, waitFrom := none })

/-- R24: 4 ms of waiting raise the effective priority by one level, to at most 7. -/
def execPriorityAging (job : Nat) (s : State) : Out :=
  let x := s.job job
  match x.waitFrom with
  | some c =>
    if s.waits job && decide (Config.agingCycles ≤ s.cyc.toNat - c.toNat) then
      .next (s.updJob job (fun x => { x with effective := Nat.min 7 (x.effective + 1), waitFrom := some (c + BitVec.ofNat 64 Config.agingCycles) }))
    else .next s
  | none => .next s

-- placing a replica -------------------------------------------------------------------------------

/-- R373: the engine applies `Give` to its holding: the share, and the state after. -/
def State.engineShare (j : Nat) (s : State) : BitVec 64 × State :=
  let x := s.job j
  match give x.holding with
  | none => (0, s)
  | some (e, w, borrow) =>
    let s1 := if borrow then s.borrowFrom x.phaseRoot.toNat else s
    (BitVec.ofNat 64 (2^(63 - e)), s1.updJob j (fun y => { y with holding := w }))

/-- The key of a new strand: the first that no strand of the fabric or of a record holds. -/
def State.newKey (s : State) : Nat :=
  ((List.range (s.strands.length + 1)).find? (fun k =>
    (s.strand k).run == .absent || (s.strand k).run == .complete)).getD s.strands.length

/-- R210, R222, R352, R379: panels given to a strand: the allocator's entries, stream-buffer lines invalid, page heat cleared. -/
def State.takePanels (j lead : Nat) (l : List Nat) (s : State) : State :=
  let s1 := State.updPanels (fun _ => { state := 2, job := j, lead := lead % 128 }) l s
  let s2 : State := { s1 with
    streamLines := s1.streamLines.filter (fun x => !l.contains x.panel), freed := s1.freed.filter (fun p => !l.contains p) }
  (l.flatMap (fun p => (List.range 8).map (fun r => p * 64 + 8 * r + 7))).foldl (fun s e =>
    if s.elems.has e then s.updAge e (fun a => { a with heat := [] }) else s) s2

/-- R299, R400: the queues of a launch take their home from replica 0. -/
def State.homeQueues (j n lead : Nat) (s : State) : State :=
  { s with queues := s.queues.map (fun (q : Nat × Queue) =>
      if q.2.valid && q.2.job == j && q.2.owner == some n then
        (q.1, { q.2 with homePanel := if q.2.scope = 0 then lead % 128 else if q.2.scope = 1 then clusterOf lead else q.2.homePanel })
      else q) }

/-- R299, R360, R25, R37: the homes that go with a page set placed anew: those of its launch's queues, where it is replica 0, and of the
barriers that its strand set. -/
def State.rehome (k : Nat) (s : State) : State :=
  let t := s.strand k
  let s1 := if t.replica = 0 then s.homeQueues t.job t.node t.lead else s
  { s1 with barriers := s1.barriers.map (fun (b : Nat × Barrier) =>
      if b.2.issuer = some k then (b.1, { b.2 with home := t.lead % 128 }) else b) }

/-- R23 stage 4, R373: the next replica of a launch placed at a rectangle. -/
def State.placeReplica (j n die lead w h : Nat) (s : State) : State :=
  let l := s.launch j n
  let (share, s1) := s.engineShare j
  let k := s1.newKey
  let p := die * 128 + lead
  let t : Strand := {
    run := .placed, job := j, node := n, replica := BitVec.ofNat 16 l.nextReplica, replicas := BitVec.ofNat 17 l.replicas
    carried := l.carried, lead := p, width := w, height := h, cpc := l.record, w := share, proot := (s1.job j).phaseRoot }
  let s1' : State := { s1 with barriers := s1.barriers.map (fun (b : Nat × Barrier) =>
      if b.2.issuer = some k then (b.1, { b.2 with issuer := none }) else b) }
  let s2 := (s1'.setStrand k t).takePanels j p (rectPanels die lead w h)
  let s3 := s2.updLaunch j n (fun l => { l with nextReplica := l.nextReplica + 1 })
  let s4 := if l.nextReplica = 0 then s3.homeQueues j n p else s3
  s4.notePlaced j

/-- R31: replicas of a gang launch placed one after another over the panels for which `may` holds. R25 gives the order of rectangles within a die
and none among dies: each goes to the first die of the list with room, which is a DESIGN CHOICE (log 101). -/
def State.placeGang (j n w h : Nat) (dies : List Nat) (may : Nat → Bool) : Nat → State → State
  | 0, s => s
  | f + 1, s =>
    match dies.findSome? (fun d => (lowestRect (fun p => may p && s.isFree p) d w h).map (fun l => (d, l))) with
    | some (d, l) => State.placeGang j n w h dies may f (s.placeReplica j n d l w h)
    | none => s

-- refusing a launch -------------------------------------------------------------------------------

/-- The strands of a launch that hold panels. -/
def State.strandsOf (s : State) (j n : Nat) : List Nat :=
  (s.strands.filter (fun t => t.2.onFabric && t.2.job == j && t.2.node == n)).map (·.1)

/-- The keys under which the elements of a strand that is off the fabric stand. -/
def State.parkedOf (s : State) (k : Nat) : List Nat := (s.elems.map (·.1)).filter (fun e => decide (parkKey k 0 ≤ e ∧ e < parkKey (k + 1) 0))

/-- R18, R263, R285, R378: a saved strand goes: its weight returns, its bank runs, its registrations and what was owed to it go. -/
def State.dropParked (k : Nat) (s : State) : State :=
  let es := s.parkedOf k
  let s1 := ((s.returnWeight k).disarmStrand k).dropRuns es
  let s2 : State := { s1.dropStitch es with
    elems := s1.elems.filter (fun e => !es.contains e.1)
    reqs := s1.reqs.filterMap (fun r =>
      if r.agent.ofStrand k es then (if r.writes && r.stage != .issued && r.stage != .returned then some { r with dest := .none } else none)
      else some r) }
  s2.updStrand k (fun t => { t with run := .complete })

/-- R18, R378: the saved strands of a job for which `p` holds go. -/
def State.dropSaved (j : Nat) (p : Strand → Bool) (s : State) : State :=
  let gone := (s.job j).saved.filter (fun v => p v.strand)
  let s1 := gone.foldl (fun s v => s.dropParked v.key) s
  s1.updJob j (fun x => { x with saved := x.saved.filter (fun v => !(p v.strand)) })

/-- R366, R367: a launch ends with a status, its replicas no longer counted. -/
def State.endLaunch (j n status : Nat) (s : State) : State :=
  let s1 := (s.strandsOf j n).foldl (fun s k => s.cancelStrand k) s
  let s2 := s1.dropSaved j (fun t => t.node == n)
  (s2.updJob j (fun x =>
    let l : Launch := x.launches.look {} n
    { x with
      launches := x.launches.put n { l with left := 0, status := status, complete := true, nextReplica := l.replicas }
      graphCount := x.graphCount - 1, phaseCount := x.phaseCount - 1 })).settleStop j

/-- R26, R31, R351: a launch refused: nothing of it starts, and the graph takes fault cause 7 with the address of the launch's node record; the register
goes on naming the node at which the engine stands. -/
def State.refuseLaunch (j n : Nat) (s : State) : State :=
  let s1 := s.endLaunch j n 3
  let a := match s.graphRecord j (s.job j).graphHdr.toNat with
    | some h => nodeAddr h n
    | none => (s.job j).graphHdr.toNat
  if (s1.job j).gstate = 1 ∨ (s1.job j).gstate = 2 then s1.graphFault j 7 a else s1

-- the loader --------------------------------------------------------------------------------------

/-- R88, R9: a loaded strand starts: `GO` to its elements, then its script. -/
def State.startStrand (k : Nat) (s : State) : State := (s.sendGo k).updStrand k (fun t => { t with run := .running })

/-- R87, R9: the start state of a strand whose image is loaded; `data` is the address of its data section, 0 without one. -/
def Strand.started (p : LoadPlan) (data : Word) (t : Strand) : Strand :=
  { t with
    run := .loaded, spt := BitVec.ofNat 60 (p.record.image + p.record.script)
    x := if data = 0 then [] else [(1, data)], ic := [], kpend := 0, handles := [], cpnl := 0, fault := 0
    owedRegs := [], awaits := none, answer := none, waiting := false, quiet := 0 }

/-- R27: a refusal of any part of a cut graph refuses the launch of every part, and no part of it starts. -/
def State.refuseGroup (g : Nat) (s : State) : State :=
  ((s.partList.filter (fun p => p.group == g && p.away == 0)).map (fun p => (p.job, p.node))).eraseDups.foldl (fun s x =>
    let l := s.launch x.1 x.2
    if l.runnable && !l.complete then s.refuseLaunch x.1 x.2 else s) s

/-- R27, R310, R320: the parts of a cut graph start together once every part is loaded and their edges are joined. -/
def State.startGroup (g : Nat) (s : State) : State :=
  if s.groupLoaded g then
    match s.joinParts g with
    | none => s.refuseGroup g
    | some s1 => (s1.members g).foldl (fun s m => if (s.strand m.2).run = .loaded then s.startStrand m.2 else s) s1
  else s

/-- R27, R31: the replicas of a launch that stand loaded start once every replica that is placed is loaded; those of a gang once all are
placed. Replicas of a later wave (R32) start in their turn. -/
def State.startLaunch (j n : Nat) (s : State) : State :=
  let l := s.launch j n
  let all := s.strandsOf j n
  if (l.gang && l.toPlace) || all.any (fun k => (s.strand k).run == .placed) then s
  else (all.filter (fun k => (s.strand k).run == .loaded && (s.partOf (s.strand k)).isNone)).foldl (fun s k => s.startStrand k) s

/-- R23 stages 5 and 6, R26, R27: the loader checks and loads a placed replica, and starts what no longer has to wait. A refusal refuses the
whole launch, and the launches of every other part of a cut graph with it. -/
def execLaunchLoad (s : State) : Out :=
  let strand := s.site.strand
  let t := s.strand strand
  if t.run != .placed || s.rowHeld then .next s
  else
    match s.loadCheck strand t.cpc.toNat with
    | .error _ => .next (match s.partOf t with | some p => s.refuseGroup p.group | none => s.refuseLaunch t.job t.node)
    | .ok p =>
      let s1 := (s.loadImage strand t.cpc.toNat p).updStrand strand (Strand.started p (s.dataAt.look 0 (t.job * 2^60 + t.cpc.toNat)))
      .next (match s1.partOf t with | some q => s1.startGroup q.group | none => s1.startLaunch t.job t.node)

-- pre-emption requests ----------------------------------------------------------------------------

/-- R35: the placed job chosen: of the lowest declared priority, the one placed last. Of several that were placed last in one cycle it is the one in the
highest job slot (log 115). -/
def State.victim (s : State) (priority : Nat) : Option Nat :=
  let l := s.jobs.filter (fun x => x.2.resident && s.jobPlaced x.1)
  let low := l.foldl (fun m x => Nat.min m x.2.priority) 8
  if priority ≤ low then none
  else
    ((l.filter (fun x => x.2.priority == low)).foldl (fun (best : Option (Nat × Nat)) x =>
      match best with
      | some b => if b.2 ≤ x.2.placedAt.toNat then some (x.1, x.2.placedAt.toNat) else best
      | none => some (x.1, x.2.placedAt.toNat)) none).map (·.1)

/-- R35, R36: the scheduler chooses a job to stop for one that cannot be placed. While an earlier choice still holds panels, or the
panels that are being zeroed will suffice, it makes no new one. -/
def execPreemptionRequest (job : Nat) (s : State) : Out :=
  if !(s.waits job) || s.canPlace (s.soonUsable job) job ||
      s.jobs.any (fun v => v.2.resident && (v.2.preemptAt.isSome || v.2.preempting) && s.jobPlaced v.1) then .next s
  else
    match s.victim (s.job job).priority with
    | none => .next s
    | some v =>
      let x := s.job v
      if x.stepPre then
        .next (s.updJob v (fun x => { x with preemptAt := some (s.cyc + BitVec.ofNat 64 (x.deadline * Config.cyclesPerMicrosecond)) }))
      else .next (s.startHalt v)

/-- R368: the phase of a job has nothing left to complete: its launch counter is zero and its root is quiet. -/
def State.phaseQuiet (s : State) (j : Nat) : Bool :=
  let x := s.job j
  x.phaseOpen && x.holdingReturned && x.phaseCount == 0 && s.rootQuiet x.phaseRoot.toNat

/-- R36: the deadline passes without a phase boundary, and the job stops at once. In the cycle of the deadline itself a phase that
completes comes first. -/
def execStepDeadlineExpiry (job : Nat) (s : State) : Out :=
  let x := s.job job
  match x.preemptAt with
  | none => .next s
  | some d =>
    if s.cyc.toNat < d.toNat || x.phaseDone || (s.cyc == d && s.phaseQuiet job) then .next s
    else .next (s.startHalt job)

end Sys2Proof.Machine
end

