-- ==== Sys2Proof/Machine/Context.lean ====
section
/-!
DEFINITION. Pre-emption halt, context records and restore, moves of page sets, and zeroing (R25, R36, R37, R97, R198-R203, R222,
R347).
-/

namespace Sys2Proof.Machine

-- keys of a page set ------------------------------------------------------------------------------

/-- The element of a strand's set at index i (64 × panel offset + element number). -/
def Strand.elemAt (t : Strand) (i : Nat) : Nat := t.panelAt (i / 64) * 64 + i % 64
/-- The index in a strand's set of an element. -/
def Strand.indexOf (t : Strand) (e : Nat) : Option Nat := (t.offsetOf (panelOf e)).map (fun o => o * 64 + e % 64)
/-- Indexes of a set. -/
def Strand.indexes (t : Strand) : List Nat := List.range (t.width * t.height * 64)
/-- The AGEs of a set. -/
def Strand.ages (t : Strand) : List Nat := t.elems.filter (fun e => kindAt (e % 64) == .age)

/-- The set's own key of an on-chip home address: element storage, panel scratch, cluster share. -/
def Strand.homeKey (t : Strand) (a : Nat) : Option Nat :=
  if 2^59 ≤ a ∧ a < 2^60 then (t.indexOf ((a - 2^59) / 65536)).map (fun i => i * 65536 + (a - 2^59) % 65536)
  else if 2^56 ≤ a ∧ a < 2^57 then (t.offsetOf ((a - 2^56) / 2^20)).map (fun o => 2^30 + o * 2^20 + (a - 2^56) % 2^20)
  else if 2^57 ≤ a ∧ a < 2^58 then (t.offsetOf ((a - 2^57) / 2^19)).map (fun o => 2^31 + o * 2^19 + (a - 2^57) % 2^19)
  else none

/-- The home address at a set's own key. -/
def Strand.homeAt (t : Strand) (q : Nat) : Nat :=
  if q < 2^30 then elemHome (t.elemAt (q / 65536)) + q % 65536
  else if q < 2^31 then panelHome (t.panelAt ((q - 2^30) / 2^20)) + (q - 2^30) % 2^20
  else shareHome (t.panelAt ((q - 2^31) / 2^19)) + (q - 2^31) % 2^19

/-- An element's references to other elements changed by f. -/
def Elem.mapKeys (f : Nat → Nat) (x : Elem) : Elem :=
  { x with
    routes := x.routes.map (fun (r : Nat × Route) => (r.1, { r.2 with dstElem := if r.2.link.isSome then outside else f r.2.dstElem }))
    chans := x.chans.map (fun (c : Nat × List InTok) => (c.1, c.2.map (fun t => { t with src := if t.entry < 4 then f t.src else t.src }))) }

/-- An agent's element changed by f. -/
def Agent.mapKey (f : Nat → Nat) : Agent → Agent
  | .place e p => .place (f e) p
  | .spill e p => .spill (f e) p
  | a => a

/-- The element of an answer's place changed by f. -/
def Dest.mapKey (f : Nat → Nat) : Dest → Dest
  | .elem e p i => .elem (f e) p i
  | d => d

/-- A request's references to elements changed by f. -/
def Req.mapKey (f : Nat → Nat) (r : Req) : Req :=
  { r with
    agent := r.agent.mapKey f, dest := r.dest.mapKey f, writers := r.writers.map (Agent.mapKey f)
    panel := match r.agent.ageOf with | some e => panelOf (f e % 2^20) | none => r.panel }

/-- A bank run's AGE changed by f. -/
def BankRun.mapKey (f : Nat → Nat) (r : BankRun) : BankRun := { r with age := f r.age }

/-- The package's references to AGEs changed by f. -/
def State.rekey (f : Nat → Nat) (s : State) : State :=
  { s with
    templates := s.templates.map (fun (t : Nat × Template) =>
      (t.1, { t.2 with age := f t.2.age, fired := t.2.fired.map (fun x => (f x.1, x.2)) }))
    elems := s.elems.map (fun (x : Nat × Elem) => (x.1, { x.2 with age := { x.2.age with
      places := x.2.age.places.map (fun (p : Nat × Place) => (p.1, { p.2 with behind := p.2.behind.map (fun b => (f b.1, b.2)) })) } }))
    reqs := s.reqs.map (Req.mapKey f)
    banks := s.banks.map (fun (b : Nat × Bank) =>
      (b.1, { b.2 with running := b.2.running.map (BankRun.mapKey f), waiting := b.2.waiting.map (BankRun.mapKey f) }))
    bankResults := s.bankResults.map (fun r => { r with age := f r.age })
    dieLines := s.dieLines.map (fun d => { d with writers := d.writers.map (Agent.mapKey f) })
    stitches := s.stitches.map (fun (u : Nat × Stitch) =>
      (u.1, { u.2 with
        queue := u.2.queue.map (fun o => { o with age := f o.age })
        readers := u.2.readers.map (fun r => { r with age := f r.age }) })) }

/-- A fret bank as its record holds it (R345, R347). -/
def Fret.record (f : Fret) : Fret := { f with vals := [], valid := [] }

/-- R200: an element holds a slot that reads `ta`. -/
def Elem.readsTile (x : Elem) : Bool :=
  (List.range 4).any (fun n =>
    match State.mapElem.slotDecodedAt x n with
    | some (code, sl) => readsTa code sl
    | none => false)

/-- R200: what a compact record keeps of an element: `ta` whole where a slot reads it. -/
def Elem.compact (x : Elem) : Elem :=
  { kind := x.kind, active := x.active, frets := x.frets.map (fun f => (f.1, f.2.record))
    accs := x.accs.filter (fun a => a.2.owned)
    ta := if (x.kind == .ce || x.kind == .mxe) && x.readsTile then (List.range 16).map (fun r => (r, x.ta.look 0 r)) else [] }

/-- R201, R29: what a full record keeps of an element. What an AGE holds besides its fault register stands under its parked key (`State.park`). -/
def Elem.whole (x : Elem) : Elem :=
  { x with
    frets := x.frets.map (fun f => (f.1, f.2.record))
    slotSt := x.slotSt.map (fun (n : Nat × SlotSt) => (n.1, { n.2 with pass := 0 }))
    mmaAt := none
    age := { port := x.age.port } }

/-- R338: the tiles of a set with their states, by the set's own keys. -/
def State.setTiles (s : State) (t : Strand) : Tab Nat :=
  s.tiles.filterMap (fun x => (t.offsetOf (x.1 / 2048)).map (fun o => (o * 2048 + x.1 % 2048, x.2)))

/-- R200: whether a byte of a set lies in a tile that is `ready`. -/
def inReadyTile (tiles : Tab Nat) (q : Nat) : Bool :=
  if q < 2^30 then false
  else if q < 2^31 then tiles.look 0 ((q - 2^30) / 2^20 * 2048 + (q - 2^30) % 2^20 / 1024) == 2
  else tiles.look 0 ((q - 2^31) / 2^19 * 2048 + 1024 + (q - 2^31) % 2^19 / 1024) == 2

/-- R200, R203: a saved state as a record of kind 1 or 2 tells of it; of a strand that was saved whole a compact record brings back the persistent
tiles alone. -/
def Saved.asKind (kind : Nat) (v : Saved) : Saved :=
  if kind ≠ 1 then { v with full := true }
  else if v.full then
    { v with
      full := false, elems := v.elems.map (fun x => (x.1, x.2.compact)), bytes := v.bytes.filter (fun c => inReadyTile v.tiles c.1)
      tiles := v.tiles.filter (fun x => x.2 == 2), reads := [] }
  else v

/-- R200, R201: the state of a set that a record of either kind keeps. -/
def State.capture (s : State) (k : Nat) (full : Bool) : Saved :=
  let t := s.strand k
  let index (e : Nat) : Nat := (t.indexOf e).getD 0
  let tiles := s.setTiles t
  let bytes := s.mem.filterMap (fun c => (t.homeKey c.1).map (fun q => (q, c.2)))
  { key := k, full, strand := t, die := dieOf t.lead
    elems := t.indexes.filterMap (fun i =>
      if s.elems.has (t.elemAt i) then
        let x := s.elem (t.elemAt i)
        some (i, if full then x.whole.mapKeys index else x.compact)
      else none)
    bytes := if full then bytes else bytes.filter (fun c => inReadyTile tiles c.1)
    tiles := if full then tiles else tiles.filter (fun x => x.2 == 2)
    panels := t.panels
    reads := (s.reqs.filter (fun r => r.kind == .syncRead && (match r.agent with | .place e _ => (t.indexOf e).isSome | _ => false))).map
      (Req.mapKey (parkKey k)) }

-- the halt ----------------------------------------------------------------------------------------

/-- R198: the halt of a region completes: its slots stand still and the writes that have left its ports for its own storage are
performed. A region that is frozen halts at once. -/
def execPreemptionHalt (s : State) : Out :=
  let strand := s.site.strand
  let t := s.strand strand
  let j := s.job t.job
  if !(t.onFabric && j.preempting && !j.stopped && (t.run == .running || t.run == .yielded || t.run == .loaded)) then .next s
  else if t.region.state == .frozen ||
      (t.region.state == .freezing && s.still strand &&
        !(s.reqs.any (fun r => !r.virt && r.writes && r.agent.ofStrand strand t.elems))) then
    .next (s.updRegion strand (fun r => { r with
      state := .halted
      before := if r.fault || r.hang || r.before == .frozen || r.state == .frozen then .frozen else .running }))
  else .next s

-- work owed to memory -----------------------------------------------------------------------------

/-- R199: a command is owed to memory: what is left of it needs nothing from the fabric. `unstarted` tells that a bank has not begun a run of
it. A command with an output port needs the fabric, and so do a tile command and a fret load, which write or read the set's own
storage, and one that acts on the AGE's caches or templates. A copy, or a store past its `EOS`, that reaches on-chip storage completes before the record
is written (`State.finishing`). -/
def Place.outlasts (unstarted : Bool) (x : Place) : Bool :=
  let c := x.cmd
  let memory := decide (3 ≤ c.space.toNat)
  if x.done then true
  else if x.held || !x.outq.isEmpty || !((cmdPorts x.op c).all (fun p => decide (p < 8))) then false
  else if x.op = 0x20 then memory
  else if x.op = 0x05 ∨ x.op = 0x06 ∨ x.op = 0x07 ∨ x.op = 0x11 ∨ x.op = 0x12 ∨ x.op = 0x28 then x.eos && memory
  else if x.op = 0x22 then (x.eos || x.written == c.count.toNat) && memory
  else if x.op = 0x41 ∧ c.flags.toNat % 2 = 1 then x.eos && (x.phase == 2 || x.phase == 3 || x.pairs.isEmpty)
  else if x.op = 0x51 then decide (1 ≤ x.written) && !unstarted
  else if x.op = 0x52 then x.eos && x.inq.isEmpty && !unstarted
  else x.op == 0x31 || x.op == 0x32 || x.op == 0x33 || x.op == 0x38 || x.op == 0x40 || x.op == 0x41 || x.op == 0x45 || x.op == 0x46 ||
    x.op == 0x47 || x.op == 0x50

/-- R283: a run of a command waits for a bank. -/
def State.unstarted (s : State) (e p : Nat) : Bool := s.banks.any (fun b => b.2.waiting.any (fun r => r.age == e && r.place == p))

/-- R199: the command in place p of AGE e is owed to memory. A write of it that stands in the spill queue is saved there (R201), and a
`BKLD` that waits for a run (R281), or may come to, stops with it. -/
def State.owedAt (s : State) (e p : Nat) : Bool :=
  let x := s.place e p
  x.active && x.outlasts (s.unstarted e p) && !(x.op == 0x50 && (x.phase == 0 || s.bankBusy (s.strand x.strand).job x)) && !x.spilled && !((s.elem e).age.spills.any (fun q => q.place == p)) &&
  !(s.reqs.any (fun r => r.kind == .syncRead && r.agent == .place e p))

/-- R199: a copy, or a store whose input has delivered `EOS`, that reaches the storage of page sets: it is not stopped, and the save waits until it has
completed, unless a port fault holds it or a tile of the set that is filling or draining may (R339) (log 112). -/
def State.finishing (s : State) (e p : Nat) : Bool :=
  let x := s.place e p
  let store := decide (x.op ∈ [0x05, 0x06, 0x07, 0x11, 0x12, 0x22, 0x28])
  x.active && !x.done && !x.held && decide (x.space < 3) && x.outq.isEmpty &&
  (x.op == 0x20 || (store && (x.eos || (x.op == 0x22 && x.written == x.cmd.count.toNat)))) &&
  !((s.setTiles (s.strand x.strand)).any (fun t => t.2 == 1 || t.2 == 3))

/-- R347: a `CBLD` that has not completed starts again from its first word. -/
def Place.anew (x : Place) : Place :=
  if x.op = 0x58 then { x with phase := 0, pairs := [], outq := [], result := 0, j0 := 0, j3 := 0 } else x

/-- R199, R347: the places of an AGE as a save leaves them. -/
def State.markOwed (e : Nat) (s : State) : State :=
  s.updAge e (fun a => { a with places := a.places.map (fun (p : Nat × Place) => (p.1, { p.2.anew with owed := s.owedAt e p.1 })) })

/-- R97, R199: what a save waits for: the sequencer's requests, the reads of commands that stop with their strand, copies and stores to on-chip storage
that are not stopped, and a fret load whose swap token has left. -/
def State.saveWaits (s : State) (k : Nat) : Bool :=
  s.reqs.any (fun r => r.kind != .syncRead && (match r.agent, r.dest with
    | .seq j, .await _ => j == k
    | .seq j, _ => j == k && !r.writes
    | .place e p, _ => (s.strand k).elems.contains e && !r.writes && !(s.owedAt e p)
    | _, _ => false)) ||
  (s.strand k).ages.any (fun e => (s.elem e).age.places.any (fun p =>
    s.finishing e p.1 || p.2.active && p.2.op == 0x58 && p.2.phase == 1 && p.2.outq.isEmpty && !p.2.done))

-- the record --------------------------------------------------------------------------------------

/-- R202: the CEs and MXEs of a set, in panel order and element order. -/
def Strand.computing (t : Strand) : List Nat := t.elems.filter (fun e => kindAt (e % 64) == .ce || kindAt (e % 64) == .mxe)

/-- R202, R345: the fret records of a set, 16 bytes a bank of each CE and MXE. -/
def State.fretRecords (s : State) (t : Strand) : List Nat :=
  t.computing.flatMap (fun e =>
    let x := s.elem e
    [0, 1].map (fun b =>
      let f := x.fret b
      f.source.toNat + (if x.active == (b == 1) then 2^60 else 0) + f.checksum.toNat * 2^64 + f.countM1.toNat * 2^96 +
        (if f.loaded then 2^104 else 0)))

/-- R345: a fret bank as its record tells of it. -/
def fretRecord (v : Nat) : Fret :=
  { source := BitVec.ofNat 60 (bitsAt v 0 60), checksum := BitVec.ofNat 32 (bitsAt v 64 32), countM1 := BitVec.ofNat 8 (bitsAt v 96 8)
    loaded := bitsAt v 104 1 == 1 }

/-- R200, R201: a section of a record, of the element at an index of the set or of the panel at an offset. -/
inductive Section where
  /-- `ta`, `tl` and the valid bits of `tl` (R122); an element store and its occupancy (R123); an accumulator, and the tags of the four (R165); the lines and
  the directory of a weight buffer (R167) -/
  | ta (i : Nat) | tl (i : Nat) | tlValid (i : Nat)
  | es (i : Nat) | occ (i : Nat)
  | acc (i n : Nat) | tags (i : Nat)
  | weights (i : Nat)
  /-- a scratch tile of a compact record; a panel's scratch, its cluster share, and the states of their tiles (R338) -/
  | tile (k : Nat)
  | scratch (o : Nat) | share (o : Nat) | states (o : Nat)
  /-- the fault registers of a panel's elements and of its ports, the sequencer's, and the region status register (R185-R188) -/
  | faults (o : Nat) | ports (o : Nat) | seqFault | region
  /-- a part in no stated format (log 24): 0 slot state, 1 channels, 2 what AGEs hold, 3 spill queues -/
  | part (n : Nat)
  deriving DecidableEq, Repr

/-- The indexes of a set whose elements are of a kind. -/
def Strand.kinds (t : Strand) (f : Kind → Bool) : List Nat := t.indexes.filter (fun i => f (kindAt (i % 64)))

/-- R200-R202: the sections of a record behind the fret records, in the order of R201. The order within an item, element by element and panel by panel, is
the model's (log 24). -/
def Saved.sections (v : Saved) : List Section :=
  let t := v.strand
  if v.full then
    let mxes := t.kinds (fun k => k == .mxe)
    let panels := List.range (t.width * t.height)
    (t.kinds (fun k => k == .ce || k == .mxe)).flatMap (fun i => [.ta i, .tl i, .tlValid i]) ++
    (t.kinds (fun k => k == .ce)).flatMap (fun i => [.es i, .occ i]) ++
    mxes.flatMap (fun i => (List.range 4).map (fun n => .acc i n) ++ [.tags i]) ++ mxes.map .weights ++ [.part 0, .part 1] ++
    panels.flatMap (fun o => [.scratch o, .share o, .states o]) ++ [.part 2, .part 3] ++
    panels.flatMap (fun o => [.faults o, .ports o]) ++ [.seqFault, .region]
  else
    (v.elems.filter (fun x => !x.2.ta.isEmpty)).map (fun x => .ta x.1) ++
    v.elems.flatMap (fun x => x.2.accs.map (fun a => .acc x.1 a.1)) ++ v.tiles.map (fun x => .tile x.1)

/-- The bytes of a section that holds what it does in a stated format. -/
def Section.bytes : Section → Nat
  | .ta _ => 1024 | .tl _ => 1024 | .tlValid _ => 2
  | .es _ => 8192 | .occ _ => 256
  | .acc _ _ => 1024 | .tags _ => 4
  | .weights _ => 0x8200
  | .tile _ => 1024
  | .scratch _ => 2^20 | .share _ => 2^19 | .states _ => 384
  | .faults _ => 512 | .ports _ => 128 | .seqFault => 16 | .region => 8
  | .part _ => 0

/-- R202: the units of 64 bytes of a section of the record at an address; those of a part without a stated format are free (log 24). -/
def Section.units (addr : Nat) : Section → Nat
  | .part n => Config.partUnits addr n
  | x => (x.bytes + 63) / 64

/-- The set's own key of a tile's first byte. -/
def tileStart (k : Nat) : Nat :=
  if k % 2048 < 1024 then 2^30 + k / 2048 * 2^20 + k % 2048 * 1024 else 2^31 + k / 2048 * 2^19 + (k % 2048 - 1024) * 1024

/-- The bytes of storage that a section is, by the set's own key of the first: element storage, scratch, a share, a scratch tile. -/
def Section.storage : Section → Option Nat
  | .es i => some (i * 65536)
  | .weights i => some (i * 65536)
  | .tile k => some (tileStart k)
  | .scratch o => some (2^30 + o * 2^20)
  | .share o => some (2^31 + o * 2^19)
  | _ => none

/-- R188: the fault and hang bits and the first-fault fields as a region status register tells of them. -/
def Region.ofWord (v : Nat) (r : Region) : Region :=
  { r with
    fault := bitsAt v 2 1 == 1, hang := bitsAt v 3 1 == 1
    firstPanel := bitsAt v 16 7, firstElem := bitsAt v 23 6, firstSource := bitsAt v 29 2 }

/-- What a section holds, as a number. -/
def Saved.section (v : Saved) (x : Section) : Nat :=
  let el (i : Nat) : Elem := v.elems.look {} i
  match x.storage with
  | some q => ofBytes (memBytes v.bytes q x.bytes)
  | none =>
    match x with
    | .ta i => packBits 512 ((List.range 16).map (fun r => ((el i).ta.look 0 r).toNat))
    | .tl i => packBits 512 ((List.range 16).map (fun r => ((el i).tl.look 0 r).toNat))
    | .tlValid i => packBits 1 ((List.range 16).map (fun r => ((el i).tlValid.look false r).toNat))
    | .occ i => packBits 1 ((List.range 2048).map (fun w => ((el i).occ.look false w).toNat))
    | .acc i n => packBits 32 ((List.range 256).map (fun k => (((el i).acc n).vals.look 0 k).toNat))
    | .tags i => packBits 8 ((List.range 4).map (fun n => ((el i).acc n).owner + (if ((el i).acc n).owned then 4 else 0)))
    | .states o => packBits 2 ((List.range 1536).map (fun n => v.tiles.look 0 (o * 2048 + n)))
    | .faults o => packBits 64 ((List.range 64).map (fun n => (el (o * 64 + n)).fault.toNat))
    | .ports o => packBits 128 ((List.range 8).map (fun r => (el (o * 64 + 8 * r + 7)).age.port.toNat))
    | .seqFault => v.strand.fault.toNat
    | .region => v.strand.region.bits
    | _ => 0

/-- The parts of b bits of a number that are not zero, by their number. -/
def sparseParts (b n x : Nat) : Tab (BitVec b) :=
  (List.range n).filterMap (fun k => if bitsAt x (b * k) b = 0 then none else some (k, BitVec.ofNat b (bitsAt x (b * k) b)))

/-- The ones among the low bits of a number. -/
def sparseBits (n x : Nat) : Tab Bool := (List.range n).filterMap (fun k => if bitsAt x k 1 = 0 then none else some (k, true))

/-- A saved element changed by f. -/
def Saved.updElem (i : Nat) (f : Elem → Elem) (v : Saved) : Saved :=
  let y := f (v.elems.look {} i)
  if y = v.elems.look {} i then v else { v with elems := v.elems.put i y }

/-- A section as a record read back holds it. -/
def Saved.setSection (x : Nat) (v : Saved) (p : Section) : Saved :=
  match p.storage with
  | some q => { v with bytes := memStore v.bytes q (toBytes p.bytes x) }
  | none =>
    match p with
    | .ta i => v.updElem i (fun e => { e with ta := sparseParts 512 16 x })
    | .tl i => v.updElem i (fun e => { e with tl := sparseParts 512 16 x })
    | .tlValid i => v.updElem i (fun e => { e with tlValid := sparseBits 16 x })
    | .occ i => v.updElem i (fun e => { e with occ := sparseBits 2048 x })
    | .acc i n => v.updElem i (fun e => { e with accs := e.accs.put n { e.acc n with vals := sparseParts 32 256 x } })
    | .tags i => v.updElem i (fun e => (List.range 4).foldl (fun (e : Elem) n =>
        let a : Acc := { e.acc n with owned := bitsAt x (8 * n + 2) 1 == 1, owner := bitsAt x (8 * n) 2 }
        if a = e.acc n then e else { e with accs := e.accs.put n a }) e)
    | .states o => { v with tiles := (List.range 1536).foldl (fun (m : Tab Nat) n =>
        if bitsAt x (2 * n) 2 = m.look 0 (o * 2048 + n) then m else m.put (o * 2048 + n) (bitsAt x (2 * n) 2)) v.tiles }
    | .faults o => (List.range 64).foldl (fun (v : Saved) n => v.updElem (o * 64 + n) (fun e => { e with fault := BitVec.ofNat 64 (bitsAt x (64 * n) 64) })) v
    | .ports o => (List.range 8).foldl (fun (v : Saved) r => v.updElem (o * 64 + 8 * r + 7) (fun e =>
        { e with age := { e.age with port := BitVec.ofNat 128 (bitsAt x (128 * r) 128) } })) v
    | .seqFault => { v with strand := { v.strand with fault := BitVec.ofNat 128 x } }
    | .region => { v with strand := { v.strand with region := v.strand.region.ofWord x } }
    | _ => v

/-- R203 step 3: the sections of a record, from a byte of its body up; what stands in no stated format stays as it was saved (log 24). -/
def Saved.readBack (body : Nat) : List Section → Nat → Saved → Saved
  | [], _, v => v
  | x :: r, at_, v =>
    Saved.readBack body r (at_ + 64 * x.units v.addr)
      (match x with | .part _ => v | _ => v.setSection (bitsAt body (8 * at_) (8 * x.bytes)) x)

/-- R202: the words of 16 bytes from the fixed part to the last fret record. -/
def headWords (stack tokens frets : Nat) : Nat := 24 + stack + tokens + frets

/-- R202: the units of 64 bytes of a record's sections. -/
def Saved.bodyUnits (v : Saved) : Nat := (v.sections.map (Section.units v.addr)).sum

/-- R202: the units of 64 bytes of a record: its head, each section aligned to 64 bytes. -/
def Saved.units (v : Saved) (frets : Nat) : Nat :=
  let t := v.strand
  (headWords t.stack.length t.kpend.cpop.toNat frets + 3) / 4 + v.bodyUnits

/-- A section, 16 bytes a number, zeros behind it up to 64 bytes. The words of a part without a stated format are free (log 24). -/
def Saved.sectionWords (v : Saved) (x : Section) : List Nat :=
  (List.range (4 * x.units v.addr)).map (fun i =>
    match x with
    | .part n => (Config.recordWord v.addr n i).toNat
    | _ => bitsAt (v.section x) (128 * i) 128)

/-- R202: a record, 16 bytes a number: the fixed part; root stack, handles and fret records; and the sections. The state at save is that from which the
region was halted (log 113). -/
def recordWords (v : Saved) (units : Nat) (frets : List Nat) : List Nat :=
  let t := v.strand
  let r := t.region
  let head := (if v.full then 2 else 1) + 1 * 2^8 + (if v.damaged then 1 else 0) * 2^16 +
    ((if r.trap then 1 else 0) + (if r.before == .frozen then 2 else 0) * 2) * 2^24 + units % 2^32 * 2^32 +
    t.cpc.toNat * 2^64 + t.spt.toNat * 2^128 + t.w.toNat * 2^192 + t.proot.toNat * 2^256 + t.kpend.toNat * 2^272 +
    t.stack.length * 2^280 +
    packBits 64 ((List.range 31).map (fun i => (t.reg (i + 1)).toNat)) * 2^512 +
    packBits 32 ((List.range 4).map (fun n => (t.icn n).toNat)) * 2^2496 + t.cpnl.toNat * 2^2624
  let front := (List.range 24).map (fun j => bitsAt head (128 * j) 128) ++
    t.stack.map (fun x => x.1.toNat + x.2.toNat * 2^64) ++
    ((List.range 8).filter (fun n => t.kpend.getLsbD n)).map (fun n => (t.handles.look 0 n).toNat) ++ frets
  front ++ List.replicate ((front.length + 3) / 4 * 4 - front.length) 0 ++ v.sections.flatMap v.sectionWords

/-- R190: storage that a record reads holds an uncorrectable error. -/
def State.setBad (s : State) (t : Strand) (v : Saved) : Bool :=
  if v.full then
    s.bad.any (fun a => (t.homeKey a).isSome ||
      (decide (2^60 ≤ a) && decide ((a - 2^60) % 64 < 20) && (t.indexOf ((a - 2^60) / 64)).isSome))
  else
    v.sections.any (fun x => match x with
      | .ta i => s.isBad (taKey (t.elemAt i) 0) 16
      | .acc i n => s.isBad (accKey (t.elemAt i) n) 1
      | .tile k => s.isBad (t.homeAt (tileStart k)) 1024
      | _ => false)

-- saving ------------------------------------------------------------------------------------------

/-- R97, R220: the synchronising reads of a strand's AGEs withdrawn. -/
def State.withdrawReads (k : Nat) (s : State) : State :=
  let es := (s.strand k).elems
  { s with reqs := s.reqs.filter (fun r => !(r.kind == .syncRead && r.agent.ofStrand k es)) }

/-- R18: a set's elements lose their configuration and their work. -/
def State.vacate (es : List Nat) (s : State) : State :=
  es.foldl (fun s e => if s.elems.has e then s.updElem e Elem.vacant else s) s

/-- R199: the AGEs of a set leave the fabric: what each holds stands under its parked key, where the commands owed to memory go on. -/
def State.park (k : Nat) (s : State) : State :=
  let t := s.strand k
  let s1 := t.ages.foldl (fun s e => s.markOwed e) s
  let f (e : Nat) : Nat := if (t.indexOf e).isSome then parkKey k e else e
  let s2 := t.ages.foldl (fun (s : State) e =>
    s.setElem (parkKey k e) { kind := .age, age := { (s1.elem e).age with heat := [], bridle := {} } }) (s1.rekey f)
  s2.vacate t.elems

/-- The incoming registers of an AGE whose image is loaded again, with the counts that they had. -/
def keptCounts (old fresh : Tab DoneIn) : Tab DoneIn :=
  (fresh.filter (fun d => d.2.part == 0)).map (fun (d : Nat × DoneIn) => (d.1, { d.2 with count := (old.look ({ valid := false } : DoneIn) d.1).count })) ++
  old.filter (fun d => d.2.part != 0)

/-- R203 step 3: the AGEs of a set back on the fabric, `old` being the set as it was parked. -/
def State.unpark (k : Nat) (old : Strand) (s : State) : State :=
  let t := s.strand k
  let f (e : Nat) : Nat :=
    if parkKey k 0 ≤ e ∧ e < parkKey (k + 1) 0 then
      (match old.indexOf (e - parkKey k 0) with | some i => t.elemAt i | none => e) else e
  let s1 := (s.parkedOf k).foldl (fun (s : State) e =>
    let was := (s.elem e).age
    s.updAge (f e) (fun a => { was with
      heat := a.heat, bridle := a.bridle, doneOut := a.doneOut, doneFar := a.doneFar, doneIn := keptCounts was.doneIn a.doneIn })) s
  ({ s1 with elems := s1.elems.filter (fun x => !(decide (parkKey k 0 ≤ x.1 ∧ x.1 < parkKey (k + 1) 0))) } : State).rekey f

/-- R199: the completion handles that a save gives the pending tokens: that of a command owed to memory, and none otherwise. -/
def State.setHandles (k addr : Nat) (s : State) : State :=
  let owed := (s.strand k).ages.flatMap (fun e => (s.elem e).age.places.filterMap (fun p => if s.owedAt e p.1 then p.2.token else none))
  s.updStrand k (fun t => { t with handles := ((List.range 8).filter (fun n => t.kpend.getLsbD n && owed.contains n)).map (fun n =>
    (n, Config.completionHandle addr n)) })

/-- R35, R222, R352: the panels of a saved strand go to zeroing, kept for the foremost waiting job; its templates sleep, their AGEs under
their parked keys (R344). -/
def State.leaveFabric (k : Nat) (full : Bool) (s : State) : State :=
  let t := s.strand k
  let s1 := State.updPanels (fun p => { p with state := 1 }) t.panels s
  let s2 := if full then s1.park k else s1.vacate t.elems
  let s3 : State := { s2 with
    freed := s2.freed ++ t.panels
    templates := s2.templates.map (fun (x : Nat × Template) =>
      if x.2.armed && x.2.strand == k then (x.1, { x.2 with dormant := true, age := if parked x.2.age then x.2.age else parkKey k x.2.age }) else x) }
  s3.updStrand k (fun t => { t with run := .saved, waiting := false })

/-- R19, R200: a strand stands at a phase boundary: at its yield, its phase over. -/
def State.atBoundary (s : State) (t : Strand) : Bool := t.run == .yielded && !(s.job t.job).phaseOpen

/-- R200-R202, R196: a halted strand's record is written to its job's context area, an event posted, and its panels freed. When the
last strand of the job is off the fabric the job waits again (R37). -/
def execContextSave (s : State) : Out :=
  let strand := s.site.strand
  let t := s.strand strand
  let j := s.job t.job
  if !(t.onFabric && j.preempting && (if j.stopped then t.run == .yielded else t.region.state == .halted)) || s.saveWaits strand || s.rowHeld then
    .next s
  else
    let full := !(s.atBoundary t)
    let addr := j.ctxArea.toNat + 64 * j.ctxUsed
    let s0 := s.setHandles strand addr
    let v0 := s0.capture strand full
    let v1 : Saved := { v0 with damaged := s.setBad t v0, addr }
    let frets := s.fretRecords t
    let units := v1.units frets.length
    let (s2, _) := State.writeWords t.job addr (recordWords v1 units frets) (s0.withdrawReads strand)
    let s3 := (s2.postEvent strand (if v1.damaged then 5 else 4) addr).leaveFabric strand full
    .next ((s3.updJob t.job (fun x => { x with saved := x.saved ++ [v1], ctxUsed := x.ctxUsed + units })).settleStop t.job)

-- restoring ---------------------------------------------------------------------------------------

/-- The elements of a placed set take their saved state, their references turned back into elements. The entries of link virtual channels
(R310) stand as they were until their parts are joined again. -/
def Elem.restored (v sv el : Elem) (full : Bool) : Elem :=
  if full then
    { el with
      routes := el.routes.map (fun (r : Nat × Route) =>
        match sv.routes.find? (fun q => q.1 == r.1) with
        | some q => (r.1, { r.2 with window := q.2.window, flight := q.2.flight })
        | none => r) ++ sv.routes.filter (fun q => q.2.link.isSome && !(el.routes.has q.1))
      chans := v.chans, slotSt := sv.slotSt, ta := sv.ta, tl := sv.tl, tlValid := sv.tlValid, occ := sv.occ, accs := sv.accs
      active := sv.active, go := sv.go, fault := sv.fault, wflags := sv.wflags }
  else { el with ta := sv.ta, accs := sv.accs, active := sv.active }

/-- R203 step 3: a saved state written back at the strand's place, and its withdrawn reads issued again. -/
def State.install (k : Nat) (v : Saved) (s : State) : State :=
  let t := s.strand k
  let s1 := v.elems.foldl (fun s x =>
    s.updElem (t.elemAt x.1) (fun el => Elem.restored (x.2.mapKeys t.elemAt) x.2 el v.full)) s
  let s2 := v.bytes.foldl (fun (s : State) c => { s with mem := memPut s.mem (t.homeAt c.1) c.2 }) s1
  { s2 with
    tiles := v.tiles.foldl (fun (m : Tab Nat) x => m.put (t.panelAt (x.1 / 2048) * 2048 + x.1 % 2048) x.2) s2.tiles
    reqs := s2.reqs ++ (v.reads.zipIdx.map (fun r => { r.1 with id := s2.fresh + r.2, stage := .home, die := dieOf t.lead }))
    fresh := s2.fresh + v.reads.length }

/-- R347: a fret bank reloaded from its source by its record; none where a read fails or the checksum differs. A bank that was never loaded
is invalid. -/
def State.reloadFret (e b : Nat) (f : Fret) (s : State) : Option State :=
  if !f.loaded then some (s.updElem e (fun y => { y with frets := y.frets.put b f }))
  else
    match s.pullWords e f.source.toNat 8 .fetch (f.countM1.toNat + 1) 0 with
    | .error _ => none
    | .ok ws =>
      let g := fretOf f.source.toNat ws
      if g.checksum = f.checksum then some (s.updElem e (fun y => { y with frets := y.frets.put b g })) else none

/-- R203 step 2: every fret bank of a set by the records, one after another, and the active bits. -/
def State.reloadAll (t : Strand) (v : Nat) : List (Nat × Nat) → State → Option State
  | [], s => some s
  | (i, e) :: r, s =>
    match (s.reloadFret e 0 (fretRecord (bitsAt v (256 * i) 128))).bind (fun s =>
      s.reloadFret e 1 (fretRecord (bitsAt v (256 * i + 128) 128))) with
    | none => none
    | some s1 => State.reloadAll t v r (s1.updElem e (fun y => { y with active := bitsAt v (256 * i + 188) 1 == 1 }))

/-- R202: the strand state in the fixed part of a record and behind it. A fault of work owed to memory leaves the region frozen (R199). -/
def Strand.ofRecord (h sv : Nat) (t : Strand) : Strand :=
  let n := bitsAt h 280 8
  let pend := (List.range 8).filter (fun m => bitsAt h (272 + m) 1 == 1)
  { t with
    cpc := BitVec.ofNat 60 (bitsAt h 64 60), spt := BitVec.ofNat 60 (bitsAt h 128 60), w := BitVec.ofNat 64 (bitsAt h 192 64)
    proot := BitVec.ofNat 10 (bitsAt h 256 10), kpend := BitVec.ofNat 8 (bitsAt h 272 8)
    stack := (List.range n).map (fun i => (BitVec.ofNat 10 (bitsAt sv (128 * i) 10), BitVec.ofNat 64 (bitsAt sv (128 * i + 64) 64)))
    handles := pend.zipIdx.map (fun x => (x.1, BitVec.ofNat 128 (bitsAt sv (128 * (n + x.2)) 128)))
    x := (List.range 31).map (fun i => (i + 1, BitVec.ofNat 64 (bitsAt h (512 + 64 * i) 64)))
    ic := (List.range 4).map (fun n => (n, BitVec.ofNat 32 (bitsAt h (2496 + 32 * n) 32)))
    cpnl := BitVec.ofNat 7 (bitsAt h 2624 7), waiting := false, quiet := 0
    region := { t.region with
      trap := bitsAt h 24 1 == 1, before := .running
      state := if bitsAt h 25 2 = 0 ∧ t.region.before ≠ .frozen then .running else .frozen } }

/-- R203: a strand with the fault register and the region status register of its record, unless work owed to memory has changed them since (R199). -/
def Strand.withFaults (v w : Saved) (t : Strand) : Strand :=
  { t with
    fault := if t.fault = v.strand.fault then w.strand.fault else t.fault
    region := if t.region = v.strand.region then { w.strand.region with before := .running } else t.region }

/-- R203: the port fault registers of a record, `v` being the set as it was saved; what work owed to memory has put there since stays (R199). -/
def State.setPorts (t : Strand) (v w : Saved) (s : State) : State :=
  t.indexes.foldl (fun s i =>
    let was := (v.elems.look {} i).age.port
    let new := (w.elems.look {} i).age.port
    if was = new then s else s.updAge (t.elemAt i) (fun a => { a with port := if a.port = was then new else a.port })) s

/-- R200, R203: a strand that was saved whole and comes back by a compact record keeps of its AGEs the commands owed to memory. -/
def State.keepOwed (k : Nat) (s : State) : State :=
  (s.parkedOf k).foldl (fun s e => s.updAge e (fun a => { a with
    queue := [], shapeOwed := false, places := a.places.filter (fun p => p.2.owed), spills := [], spillHeld := false, ports := [] })) s

/-- R203 steps 1 to 3: a saved strand put at a rectangle: its record read and checked, its configuration loaded, its frets reloaded, what the record
holds written back by its kind; none is a restore fault. -/
def State.restoreAt (j lead : Nat) (v : Saved) (s : State) : Option State :=
  let k := v.key
  let die := dieOf lead
  let own : TlbOwner := .die die
  let old := s.strand k
  match s.readVirtNat own die j v.addr 384 with
  | .error _ => none
  | .ok h =>
    let kind := bitsAt h 0 8
    let tokens := (BitVec.ofNat 8 (bitsAt h 272 8)).cpop.toNat
    let frets := 96 * (old.width * old.height)
    let before := bitsAt h 280 8 + tokens
    if (kind ≠ 1 ∧ kind ≠ 2) ∨ bitsAt h 8 8 ≠ 1 ∨ bitsAt h 16 8 ≠ 0 then none
    else
      let v1 := v.asKind kind
      match s.readVirtNat own die j (v.addr + 384) (16 * (before + frets)),
          s.readVirtNat own die j (v.addr + (headWords (bitsAt h 280 8) tokens frets + 3) / 4 * 64) (64 * v1.bodyUnits) with
      | .ok sv, .ok body =>
        let w := Saved.readBack body v1.sections 0 v1
        let t1 : Strand := { Strand.ofRecord h sv (old.withFaults v w) with lead, run := if kind = 1 then .yielded else v.strand.run }
        let s1 := ((if kind = 1 then s.keepOwed k else s).setStrand k t1).takePanels j lead t1.panels
        match s1.loadCheck k t1.cpc.toNat with
        | .error _ => none
        | .ok p =>
          match (s1.loadImage k t1.cpc.toNat p).install k w |>.reloadAll t1
                (bitsAt sv (128 * before) (128 * frets)) (t1.computing.zipIdx.map (fun x => (x.2, x.1))) with
          | none => none
          | some s2 =>
            let s3 := (s2.unpark k old).setPorts t1 v w
            some { s3 with templates := s3.templates.map (fun (x : Nat × Template) =>
              if x.2.armed && x.2.strand == k then (x.1, { x.2 with dormant := false }) else x) }
      | _, _ => none

/-- R199: the command in the order of issue that has completed while its strand was away. -/
def Age.overFirst (a : Age) : Option Nat :=
  ((a.places.filter (fun p => p.2.active && p.2.done)).foldl (fun (best : Option (Nat × Nat)) p =>
    match best with
    | some b => if p.2.seq < b.2 then some (p.1, p.2.seq) else best
    | none => some (p.1, p.2.seq)) none).map (·.1)

/-- R199, R203 step 4: the replies of the commands owed to memory reach their registers, in order, and their tokens clear; a command that a
fault holds is the AGE's own again. -/
def State.settleOwed (k : Nat) (s : State) : State :=
  (s.strand k).ages.foldl (fun s e =>
    let s1 := (List.range Config.places).foldl (fun (s : State) _ =>
      match (s.elem e).age.overFirst with
      | some p => s.complete e p
      | none => s) s
    s1.updAge e (fun a => { a with places := a.places.map (fun (p : Nat × Place) => (p.1, { p.2 with owed := false })) })) s

/-- R203 step 5: `GO`, unless the region was saved frozen; a strand that had not started yet still waits for its launch (R27). -/
def State.restart (k : Nat) (s : State) : State :=
  let t := s.strand k
  let s1 := (s.rejoin k).settleOwed k
  if t.run = .loaded then (match s1.partOf t with | some q => s1.startGroup q.group | none => s1.startLaunch t.job t.node)
  else if t.region.state = .running then s1.sendGo k
  else s1

/-- R199: a command of a saved strand that is owed to memory is still to complete. -/
def State.owing (s : State) (k : Nat) : Bool :=
  (s.parkedOf k).any (fun e => (s.elem e).age.places.any (fun p => p.2.active && p.2.owed && !p.2.done && !p.2.held))

/-- R25, R31: saved strands that come back together restored one after another, each at the first rectangle of its dies; the one whose restore
faults, or the state. -/
def State.restoreEach (j : Nat) : List (List Nat × Saved) → State → Except (Option Nat) State
  | [], s => .ok s
  | (dies, v) :: r, s =>
    match dies.findSome? (fun d => (s.freeRect j d v.strand.width v.strand.height).map (fun l => d * 128 + l)) with
    | none => .error none
    | some lead =>
      match s.restoreAt j lead v with
      | none => .error (some v.key)
      | some s1 => State.restoreEach j r (s1.rehome v.key)

/-- R37, R203, R24, R31, R410: a selected job's saved strand is placed and restored, together with the rest of its gang or cut graph, or a
kind-6 event tells of a restore fault. When its last strand is back the job runs on; one stopped at a boundary still needs its turn to begin its phase. -/
def execContextRestore (job index die : Nat) (s : State) : Out :=
  let x := s.job job
  match x.saved[index]? with
  | none => .next s
  | some v =>
    let all := s.together job v
    if x.preempting || !(s.selected job) || !((s.savedDies job v).contains die) || all.any (fun u => s.owing u.2.key) || s.rowHeld then .next s
    else
      match State.restoreEach job (all.map (fun u => (if all.length = 1 then [die] else s.savedDies job u.2, u.2))) s with
      | .error none => .next s
      | .error (some k) =>
        let addr := ((x.saved.find? (fun u => u.key == k)).getD v).addr
        .next ((s.postEvent k 6 addr).updJob job (fun x => { x with saved := x.saved.map (fun u => if u.key = k then { u with failed := true } else u) }))
      | .ok s1 =>
        let s2 := all.foldl (fun s u => s.restart u.2.key) s1
        let left := x.saved.filter (fun u => !(all.any (fun y => y.2.key == u.key)))
        .next (((s2.notePlaced job).updJob job (fun x => { x with
          saved := left, stopped := x.stopped && (x.gstate == 2 || !left.isEmpty), ctxUsed := if left.isEmpty then 0 else x.ctxUsed })).startWait job)

-- moves -------------------------------------------------------------------------------------------

/-- R25: whether a set may be moved: it is not yet started, loaded or not, or its strand stands at a phase boundary. -/
def State.movable (s : State) (k : Nat) : Bool :=
  let t := s.strand k
  let j := s.job t.job
  !j.preempting && (t.run == .placed || t.run == .loaded || (t.run == .yielded && !j.phaseOpen))

/-- R25: a set moved to a rectangle of lower number: its panels there, its configuration loaded again, its state as it was. One that has not started is
loaded there as a set just placed is. -/
def State.moveTo (k lead : Nat) (s : State) : Option State :=
  let t := s.strand k
  let t1 : Strand := { t with lead }
  let s1 := State.updPanels (fun p => { p with state := 1 }) t.panels s
  if t.run = .placed ∨ t.run = .loaded then
    some (((s1.vacate t.elems).setStrand k { t1 with run := .placed }).takePanels t.job lead t1.panels)
  else
    let v := s.capture k true
    let s2 := ((s1.park k).setStrand k t1).takePanels t.job lead t1.panels
    match s2.loadCheck k t1.cpc.toNat with
    | .error _ => none
    | .ok p =>
      let s3 := (((s2.loadImage k t1.cpc.toNat p).install k v).unpark k t).rejoin k
      some (v.elems.foldl (fun s x => s.updElem (t1.elemAt x.1) (fun y => { y with frets := (s.elem (t.elemAt x.1)).frets })) s3)

/-- R25, R31, R32, R352: the allocator places the next replica of a launch that its job's turn selects, the whole of a gang, or moves
a set to a lower place of its die. When it moves a set, and to which place, is left open: an event names the set, and it goes to the lowest free rectangle of
its die, if that comes before its own (log 116). -/
def execAllocatorPlacement (act : PlacementAct) (s : State) : Out :=
  s.unheld <|
  match act with
  | .place j n die =>
    let l := s.launch j n
    if (s.job j).stopped || !l.toPlace || !(s.selected j) || !((s.launchDies j n).contains die) then .next s
    else
      match s.recordShape j l.record.toNat with
      | none => .next (s.refuseLaunch j n)
      | some (w, h) =>
        if !(s.launchRoom (s.usable j) j n) then .next s
        else if l.gang then
          let dies := die :: (s.launchDies j n).filter (fun d => d != die)
          .next ((State.placeGang j n w h dies (s.usable j) (l.replicas - l.nextReplica) s).startWait j)
        else
          match s.freeRect j die w h with
          | some lead => .next ((s.placeReplica j n die lead w h).startWait j)
          | none => .next s
  | .move k =>
    let t := s.strand k
    if !(s.movable k) then .next s
    else
      match s.freeRect t.job (dieOf t.lead) t.width t.height with
      | some lead =>
        if lead < t.lead % 128 then
          .next (((s.moveTo k (dieOf t.lead * 128 + lead)).map (State.rehome k)).getD s)
        else .next s
      | none => .next s

-- zeroing -----------------------------------------------------------------------------------------

/-- The home addresses of a panel's storage: its elements', its scratch and its cluster share. -/
def panelStorage (p : Nat) : List (Nat × Nat) := [(elemHome (p * 64), 64 * 65536), (panelHome p, 2^20), (shareHome p, 2^19)]

/-- R222: every storage of a panel zeroed, its fret entries invalid, its accumulators empty. -/
def State.zeroPanel (p : Nat) (s : State) : State :=
  { s with
    mem := (panelStorage p).foldl (fun m r => memZero m r.1 r.2) s.mem
    elems := s.elems.map (fun (x : Nat × Elem) =>
      if panelOf x.1 = p then (x.1, { kind := x.2.kind, age := { heat := x.2.age.heat, bridle := x.2.age.bridle } }) else x)
    tiles := s.tiles.filter (fun x => x.1 / 2048 != p) }

/-- R222, R352: a freed panel is zeroed once every write to its storage is performed, and then reported free. -/
def execPanelZeroing (panel : Nat) (s : State) : Out :=
  if (s.panel panel).state ≠ 1 ||
      s.reqs.any (fun r => r.writes && !r.virt && (panelStorage panel).any (fun x => overlaps x.1 x.2 r.home r.size)) then .next s
  else .next (State.updPanels (fun p => { p with state := 0 }) [panel] (s.zeroPanel panel))

end Sys2Proof.Machine
end

