-- ==== Sys2Proof/Machine/Control.lean ====
section
/-!
DEFINITION. Control transfer and system registers of the panel sequencer (R64-R67, R74-R77, R92-R94), and the two faults
that stand before any instruction (R46, R77).
-/

namespace Sys2Proof.Machine

/-- R41: the address reached from the word at `spt` by a signed count of words. -/
def branchTarget (spt : BitVec 60) (off : Int) : BitVec 60 := spt + BitVec.ofInt 60 (4 * off)

/-- R74: a conditional branch. -/
def State.branchIf (c : Bool) (off : BitVec 16) (s : State) : Out :=
  .next (if c then s.goto (branchTarget s.self.spt off.toInt) else s.advance)

/-- R74 -/
def execBeq (a b : Reg) (off : BitVec 16) (s : State) : Out := s.branchIf (s.reg a == s.reg b) off

/-- R74 -/
def execBne (a b : Reg) (off : BitVec 16) (s : State) : Out := s.branchIf (s.reg a != s.reg b) off

/-- R74 -/
def execBlt (a b : Reg) (off : BitVec 16) (s : State) : Out := s.branchIf ((s.reg a).slt (s.reg b)) off

/-- R74 -/
def execBge (a b : Reg) (off : BitVec 16) (s : State) : Out := s.branchIf (!(s.reg a).slt (s.reg b)) off

/-- R74 -/
def execBltu (a b : Reg) (off : BitVec 16) (s : State) : Out := s.branchIf ((s.reg a).ult (s.reg b)) off

/-- R74 -/
def execBgeu (a b : Reg) (off : BitVec 16) (s : State) : Out := s.branchIf (!(s.reg a).ult (s.reg b)) off

/-- R75: an exhausted counter falls through; otherwise it counts down, and the branch is taken while it is not zero. -/
def execLoopd (n : BitVec 2) (off : BitVec 16) (s : State) : Out :=
  let c := s.self.icn n.toNat
  if c = 0 then .next s.advance
  else
    let s1 := s.updSelf (fun t => { t with ic := t.ic.put n.toNat (c - 1) })
    s1.branchIf (c - 1 != 0) off

/-- R76 -/
def execJmp (off : BitVec 26) (s : State) : Out := .next (s.goto (branchTarget s.self.spt off.toInt))

/-- R76: the address of the next word goes to `x31`. -/
def execJal (off : BitVec 26) (s : State) : Out :=
  .next ((s.setReg 31 ((s.self.spt + 4).setWidth 64)).goto (branchTarget s.self.spt off.toInt))

/-- R76, R46: a value whose bits [1:0] are not zero is illegal; bits [63:60] are ignored. -/
def execJr (a : Reg) (s : State) : Out :=
  let v := s.reg a
  if v.toNat % 4 ≠ 0 then .next (s.raise 1 0 s.selfWord 0) else .next (s.goto (v.setWidth 60))

/-- R66: the value of a system register. -/
def State.sysReg (s : State) (r : SysReg) : Word :=
  let t := s.self
  match r with
  | .sqid => BitVec.ofNat 64 (t.lead % 512 + (t.width - 1) % 16 * 2^9 + (t.height - 1) % 8 * 2^13)
  | .jobn => BitVec.ofNat 64 (t.job % 64 + (s.job t.job).priority % 8 * 2^8)
  | .rpli => t.replica.setWidth 64
  | .rpln => t.replicas.setWidth 64
  | .cyc => s.cyc
  | .cpc => t.cpc.setWidth 64
  | .spt => t.spt.setWidth 64
  | .ic n => (t.icn n.toNat).setWidth 64
  | .wgt => t.w
  | .proot => t.proot.setWidth 64
  | .kpend => t.kpend.setWidth 64
  | .cpnl => t.cpnl.setWidth 64

/-- R67 -/
def execMfs (d : Reg) (r : SysReg) (s : State) : Out := .next (s.setReg d (s.sysReg r)).advance

/-- R67, R65, R46: `IC0`-`IC3` and `CPNL` are written; every other register is read-only, and a `CPNL` outside the page set is
refused: both are illegal instructions. -/
def execMts (r : SysReg) (a : Reg) (s : State) : Out :=
  let v := s.reg a
  match r with
  | .ic n => .next (s.updSelf (fun t => { t with ic := t.ic.put n.toNat (v.setWidth 32) })).advance
  | .cpnl =>
    if s.self.width * s.self.height ≤ v.toNat % 2^32 then .next (s.raise 1 0 s.selfWord 0)
    else .next (s.updSelf (fun t => { t with cpnl := v.setWidth 7 })).advance
  | _ => .next (s.raise 1 0 s.selfWord 0)

/-- R92: stalls while a token of the mask is pending. -/
def execWaitk (mask : BitVec 8) (s : State) : Out :=
  if s.self.kpend &&& mask = 0 then .next s.advance else .next s.wait

/-- R94 -/
def execNop (s : State) : Out := .next s.advance

/-- R94, R381: the common snapshot trigger for the job's blocks. -/
def execSnap (s : State) : Out := .next (s.triggerSnapshot { jobs := [s.self.job] }).advance

/-- R93, R197: posts a software event with `x[xa]`, retires, and stops the sequencer at the next word. -/
def execTrap (a : Reg) (s : State) : Out :=
  let v := s.reg a
  .next ((s.postEvent s.site.strand 1 v.toNat).advance.updSelf (fun t => { t with region := { t.region with trap := true } }))

/-- R46, R96: a word that is no instruction. -/
def execIllegalInstruction (w : BitVec 32) (s : State) : Out := .next (s.raise 1 0 w.toNat 0)

/-- R77, R96: the word at `spt` cannot be fetched; no word is recorded, none having been fetched (log 17). -/
def execFetchFault (s : State) : Out := .next (s.raise 2 0 0 0)

end Sys2Proof.Machine
end

