-- ==== Sys2Proof/Machine/Graph.lean ====
section
/-!
DEFINITION. The graph engine: phases, nodes, predicates, edge buffers (R17, R19, R36, R209, R221, R348-R351, R366, R368, R373, R410).
-/

namespace Sys2Proof.Machine

-- phases ------------------------------------------------------------------------------------------

/-- R373: a phase begins with a free root of the engine's die, expected 1.0, and the engine holding 1.0; it waits for one. -/
def State.beginPhase (j : Nat) (s : State) : Option State :=
  match s.freeRoot (j % 4) with
  | none => none
  | some r =>
    some ((s.setRoot r { expected := BitVec.ofNat 96 (2^64), kind := 1, job := j }).updJob j (fun x => { x with
      gstate := 1, phaseRoot := BitVec.ofNat 10 r, holding := BitVec.ofNat 64 (2^63), holdingReturned := false
      phaseCount := 0, phaseOpen := true, phaseDone := false, nodeBegun := false }))

/-- R373: the engine returns its holding once no replica of the pass is left to place. -/
def State.returnHolding (j : Nat) (s : State) : State :=
  let x := s.job j
  if x.holdingReturned || !x.waitingNodes.isEmpty then s
  else (s.returnTo x.phaseRoot.toNat x.holding).updJob j (fun y => { y with holding := 0, holdingReturned := true })

/-- R350, R373: the phase ends and its root is released. -/
def State.endPhase (j : Nat) (s : State) : State :=
  (s.releaseRoot (s.job j).phaseRoot.toNat).updJob j (fun x => { x with phaseOpen := false, phaseDone := false, nodeBegun := false })

/-- R368, R366: a phase whose launch counter is zero and whose root is quiet is complete. -/
def State.settlePhase (j : Nat) (s : State) : State :=
  if (s.job j).resident && !(s.job j).phaseDone && s.phaseQuiet j then
    s.updJob j (fun x => { x with phaseDone := true, phases := x.phases + 1 })
  else s

/-- R368, R366: a phase completes when its launch counter is zero and its root is quiet. -/
def execPhaseCompletion (job : Nat) (s : State) : Out := .next (s.settlePhase job)

/-- R36, R410: at a phase boundary a job whose stop is requested stops: the engine waits with its chosen node, and the strands that
stand at their yields are saved. -/
def State.boundaryStop (j : Nat) (s : State) : State :=
  if (s.job j).preemptAt.isSome then
    (s.updJob j (fun x => { x with
      preemptAt := none, stopped := true, preempting := s.jobPlaced j, gstate := 2, effective := x.priority, waitFrom := none })).startWait j
  else s

-- reaching a node ---------------------------------------------------------------------------------

/-- What an engine finds when it turns to its node. -/
inductive NodeView where
  /-- the engine does not run, or waits -/
  | idle
  /-- a fault or the start of a phase took the step -/
  | moved (s : State)
  /-- header and node record -/
  | at_ (hdr node : Nat)

/-- R348, R350, R351, R410: the engine of a job turns to its node: it starts the graph or a phase where none is open, and reads the
node record. A job stopped at a boundary first needs to be selected; its effective priority falls back when a page set of it is placed (R24), not yet. -/
def State.viewNode (s : State) (j : Nat) : NodeView :=
  let x := s.job j
  if !x.resident || x.status != 0 || decide (3 ≤ x.gstate) || s.stopping j then .idle
  else
    let hdrAt := x.graphHdr.toNat
    match s.graphRecord j hdrAt with
    | none => .moved (s.graphFault j 3 hdrAt)
    | some h =>
      if x.gstate = 0 then
        if hdrNodes h ≤ hdrStart h then .moved (s.graphFault j 2 hdrAt)
        else
          match s.beginPhase j with
          | none => .idle
          | some s1 => .moved (s1.updJob j (fun y => { y with gnode := hdrStart h }))
      else if x.stopped then
        if s.boundaryRoom (s.usable j) j && s.selected j then
          match s.beginPhase j with
          | none => .idle
          | some s1 => .moved ({ s1 with lastPick := x.order }.updJob j (fun y => { y with
              stopped := false, preempting := false, waitFrom := if (s.boundaryLaunch j).isSome then y.waitFrom else none }))
        else .idle
      else if !x.phaseOpen then
        match s.beginPhase j with
        | none => .idle
        | some s1 => .moved s1
      else
        match s.graphRecord j (nodeAddr h x.gnode) with
        | none => .moved (s.graphFault j 3 (nodeAddr h x.gnode))
        | some v => if bitsAt v 0 3 = 0 ∨ 4 < bitsAt v 0 3 then .moved (s.graphFault j 1 (nodeAddr h x.gnode)) else .at_ h v

/-- A node event: the engine turns to its node, and where that is of the kind named, `f` acts on the header and the record. -/
def State.nodeEvent (kind j : Nat) (f : Nat → Nat → State → State) (s : State) : Out :=
  s.unheld <| match s.viewNode j with
  | .idle => .next s
  | .moved s1 => .next s1
  | .at_ h v => .next (if bitsAt v 0 3 = kind then f h v s else s)

/-- R350, R351: the engine moves on to a node; an index out of range is a fault of the present node. -/
def State.goNode (j h n : Nat) (s : State) : State :=
  if hdrNodes h ≤ n then s.graphFault j 2 (nodeAddr h (s.job j).gnode)
  else s.updJob j (fun x => { x with gnode := n, nodeBegun := false })

/-- R366: a conditional, loop or end node is counted while it is not complete. -/
def State.countNode (j : Nat) (s : State) : State :=
  if (s.job j).nodeBegun then s else s.updJob j (fun x => { x with nodeBegun := true, graphCount := x.graphCount + 1 })

/-- R366: such a node is complete. -/
def State.nodeOver (j : Nat) (s : State) : State := s.updJob j (fun x => { x with graphCount := x.graphCount - 1 })

-- predicates --------------------------------------------------------------------------------------

/-- What a predicate word answers. -/
inductive PredView where
  | fault (cause : Nat)
  | wait
  | value (v : Word) (s : State)

/-- R350, R351: a predicate word that is full is read and set empty at its home. -/
def State.predicate (s : State) (j va : Nat) : PredView :=
  match s.checkVirt (.die (j % 4)) (j % 4) j va 8 .syncRead false with
  | .error .alignment => .fault 4
  | .error .region => .fault 4
  | .error _ => .fault 3
  | .ok l =>
    if s.isBad l.pa 8 then .fault 3
    else if s.isFull l.pa then
      .value (BitVec.ofNat 64 (s.peekKey l.key l.pa 8)) (((s.claim l.pa).pokeKey l.key l.pa 8 0).setFull l.pa false)
    else .wait

-- edge buffers ------------------------------------------------------------------------------------

/-- R349: the fields of an edge record. -/
def edgeProducer (v : Nat) : Nat := bitsAt v 0 12
/-- R349 -/
def edgeConsumer (v : Nat) : Nat := bitsAt v 12 12
/-- R349 -/
def edgeSpace (v : Nat) : Nat := bitsAt v 24 3
/-- R349 -/
def edgeSize (v : Nat) : Nat := bitsAt v 32 32

/-- The edge records of a graph with their indexes; a record that cannot be read ends the list. -/
def State.edgesOfGraph (s : State) (j h : Nat) : List (Nat × Option Nat) :=
  (List.range (hdrEdges h)).map (fun k => (k, s.graphRecord j (edgeAddr h k)))

/-- R349: the lowest address of a pool at which a size fits between buffers held. -/
def firstFit (lo hi size : Nat) (held : List (Nat × Nat)) : Option Nat :=
  ((lo :: held.map (fun b => b.1 + b.2)).filter (fun a =>
      decide (lo ≤ a) && decide (a + size ≤ hi) && !(held.any (fun b => overlaps a size b.1 b.2)))).foldl
    (fun (m : Option Nat) a => match m with | some b => some (Nat.min a b) | none => some a) none

/-- What an allocation answers. -/
inductive AllocView where
  | fault
  | wait
  | got (b : EdgeBuf) (s : State)

/-- The buffers of a job held in a space of a die, as address and size. -/
def Job.held (x : Job) (space die : Nat) : List (Nat × Nat) :=
  (x.edges.filter (fun e => e.2.space == space && (space == 4 || e.2.die == die))).map (fun e => (e.2.addr, e.2.size))

/-- R205: the panel whose share holds a cluster address of a die. -/
def shareAt (die a : Nat) : Nat := sharePanel die (a / 2^23 % 8) (a / 2^19 % 16)

/-- R349: the first run of free panels, in the order of `CLUSTER` addresses, that holds n shares of a die for a job. -/
def State.shareRun (s : State) (j die n : Nat) : Option Nat :=
  (List.range Config.panelsPerDie).find? (fun k => decide (k + n ≤ Config.panelsPerDie) &&
    (List.range n).all (fun i => s.usable j (shareAt die ((k + i) * 2^19))))

/-- R209: a node stands bound to another die than this. -/
def Job.boundElsewhere (x : Job) (n die : Nat) : Bool := match x.chipDie n with | some d => d != die | none => false

/-- R221: the panels whose shares a `CLUSTER` buffer holds. -/
def EdgeBuf.panels (b : EdgeBuf) : List Nat := (List.range ((b.size + 2^19 - 1) / 2^19)).map (fun i => shareAt b.die (b.addr + i * 2^19))

/-- R349, R209, R351: a buffer for an edge record. A `CHIP` buffer goes to the lowest die of the job's mask with room, and where that binds a
node to a second die it is a fault. -/
def State.allocEdge (s : State) (j k v : Nat) : AllocView :=
  let x := s.job j
  let size := edgeSize v
  let mk (addr die : Nat) : EdgeBuf := { record := k, space := edgeSpace v, addr, size, die, producer := edgeProducer v, consumer := edgeConsumer v }
  match edgeSpace v with
  | 4 =>
    if x.edgeLen < size then .fault
    else
      match firstFit x.edgeBase.toNat (x.edgeBase.toNat + x.edgeLen) size (x.held 4 0) with
      | some a => .got (mk a 0) s
      | none => .wait
  | 3 =>
    let lo := 65536 * x.edgeStart
    let hi := 65536 * x.ringStart
    if hi - lo < size then .fault
    else
      match (s.jobDies j).findSome? (fun d => (firstFit lo hi size (x.held 3 d)).map (fun a => (d, a))) with
      | some (d, a) =>
        if x.boundElsewhere (edgeProducer v) d || x.boundElsewhere (edgeConsumer v) d then .fault else .got (mk a d) s
      | none => .wait
  | 2 =>
    let n := (size + 2^19 - 1) / 2^19
    if Config.panelsPerDie < n then .fault
    else
      match (s.jobDies j).findSome? (fun d => (s.shareRun j d n).map (fun k => (d, k))) with
      | some (d, p) =>
        let b := mk (p * 2^19) d
        .got b { State.updPanels (fun q => { q with state := 4, job := j }) b.panels s with
          freed := s.freed.filter (fun q => !b.panels.contains q) }
      | none => .wait
  | _ => .fault

/-- R349: the address of a held buffer published in its edge record, or 0. -/
def State.publish (j h k addr : Nat) (s : State) : State := (s.homeWrite j (edgeAddr h k + 8) 8 addr).getD s

/-- R221, R349, R350: the buffers of the edges out of node n are allocated and published; the address of a faulty record with the
cause, or none where one waits for room. An edge that still holds its buffer, its consumer not having run since, keeps it as it stands (log 124). -/
def State.allocEdges (j h n : Nat) : List (Nat × Option Nat) → State → Except (Nat × Nat) (Option State)
  | [], s => .ok (some s)
  | (k, none) :: _, _ => .error (3, edgeAddr h k)
  | (k, some v) :: r, s =>
    if hdrNodes h ≤ edgeProducer v ∨ hdrNodes h ≤ edgeConsumer v then .error (2, edgeAddr h k)
    else if edgeProducer v = n ∧ !(Tab.has (s.job j).edges k) then
      match s.allocEdge j k v with
      | .fault => .error (5, edgeAddr h k)
      | .wait => .ok none
      | .got b s1 => State.allocEdges j h n r ((s1.updJob j (fun x => { x with edges := x.edges.put k b })).publish j h k b.addr)
    else State.allocEdges j h n r s

/-- The home addresses of a buffer's bytes in runs: each start with its length and the key index of its page. -/
def State.bufferRuns (s : State) (j : Nat) (b : EdgeBuf) : List (Nat × Nat × Nat) :=
  if b.space = 3 then [(chipHome b.die + 65536 * ((s.windows.look 0 (b.die * 64 + j)).toNat % 2^10) + b.addr, b.size, 0)]
  else if b.space = 2 then
    (List.range ((b.size + 2^19 - 1) / 2^19)).map (fun i => (shareHome (shareAt b.die (b.addr + i * 2^19)), Nat.min (2^19) (b.size - i * 2^19), 0))
  else
    (List.range (b.size / 1024)).filterMap (fun i =>
      match s.walk j (b.addr + 1024 * i) with
      | some (e, big) => some ((leafOf e big (b.addr + 1024 * i)).pa, 1024, (leafOf e big (b.addr + 1024 * i)).key)
      | none => none)

/-- R355: the seals of the sectors of n bytes after a write of all of them under a key index. -/
def State.sealed (s : State) (a n key : Nat) : Tab Nat :=
  let rest := s.seals.filter (fun x => !(decide (a ≤ 64 * x.1) && decide (64 * x.1 < a + n)))
  if key = 0 ∨ 2^52 ≤ a then rest else (List.range (n / 64)).foldl (fun t k => t.put (a / 64 + k) (s.sealOf key)) rest

/-- R222: storage zeroed at its home under a key index, its SYNC words empty, and no die point with a copy of it; a locked line keeps its lock. -/
def State.zeroRun (a n key : Nat) (s : State) : State :=
  { s with
    mem := memZero s.mem a n
    seals := s.sealed a n key
    full := s.full.filter (fun w => !(decide (a ≤ 8 * w.1) && decide (8 * w.1 < a + n)))
    dieLines := s.dieLines.filterMap (fun d =>
      if overlaps a n (128 * d.line) 128 then (if d.lock.isSome then some { d with present := 0, changed := 0, writers := [], pages := [], counts := [] } else none)
      else some d) }

/-- R221, R222: an edge buffer is freed and zeroed once its consumer has completed, its reads have returned and no write is addressed to it.
The panels of a `CLUSTER` buffer are zeroed as freed panels are. -/
def execEdgeBufferFree (job edge : Nat) (s : State) : Out :=
  let x := s.job job
  s.unheld <| match x.edges.find? (fun e => e.1 == edge) with
  | none => .next s
  | some (_, b) =>
    let runs := s.bufferRuns job b
    if !((s.launch job b.consumer).complete) ||
        (b.space != 2 && s.reqs.any (fun r => runs.any (fun x => overlaps x.1 x.2.1 r.home r.size))) then .next s
    else
      let s0 := match s.graphRecord job x.graphHdr.toNat with
        | some h => s.publish job h edge 0
        | none => s
      let s1 : State :=
        if b.space = 2 then State.updPanels (fun p => { p with state := 1 }) b.panels s0
        else if b.space = 3 then runs.foldl (fun s r => s.zeroRun r.1 r.2.1 r.2.2) s0
        else { runs.foldl (fun s r => s.zeroRun r.1 r.2.1 r.2.2) s0 with
          streamLines := s.streamLines.filter (fun l => !(l.job == job && overlaps b.addr b.size (128 * l.line) 128)) }
      .next (s1.updJob job (fun x => { x with edges := x.edges.del edge }))

-- launch nodes ------------------------------------------------------------------------------------

/-- R350: an edge into node n holds it: its producer was made runnable in this pass and is not complete. -/
def State.awaitsProducer (s : State) (j n : Nat) (l : List (Nat × Option Nat)) : Bool :=
  l.any (fun e => match e.2 with
    | some v => edgeConsumer v == n && (s.launch j (edgeProducer v)).runnable && !(s.launch j (edgeProducer v)).complete
    | none => false)

/-- R31: a gang that no part of this size holds. -/
def State.gangTooLarge (s : State) (j n : Nat) (l : Launch) : Bool :=
  match s.recordShape j l.record.toNat with
  | some (w, h) => decide (((s.launchDies j n).map (fun d => s.cap.panels.look 0 d)).sum < l.replicas * w * h)
  | none => false

/-- R299: the creation of a queue that a clause of the launch asks for was refused. -/
def State.clauseRefused (s : State) (j n : Nat) : Bool := s.queues.any (fun q => q.2.refused && q.2.job == j && q.2.owner == some n)

/-- R19, R373: a carried replica at its yield resumes with a share of the new phase root. -/
def State.resumeYield (j k : Nat) (s : State) : State :=
  let (w, s1) := s.engineShare j
  s1.updStrand k (fun t => { t with w := w, proot := (s.job j).phaseRoot, run := .running, waiting := false })

/-- R19: the replicas of a carried launch that stand at their yields. -/
def State.yieldedOf (s : State) (j n : Nat) : List Nat :=
  (s.strands.filter (fun t => t.2.run == .yielded && t.2.job == j && t.2.node == n)).map (·.1)

/-- R23, R366: a node's launch entry made runnable. -/
def State.makeRunnable (j n : Nat) (l : Launch) (s : State) : State :=
  (s.updJob j (fun x => { x with
    launches := x.launches.put n l, graphCount := x.graphCount + 1, phaseCount := x.phaseCount + 1 }))

/-- R350, R19, R31, R299, R366: the launch of a node is made runnable, or refused, or its carried replicas are resumed. -/
def State.beginLaunch (j n v : Nat) (s : State) : State :=
  let carried := bitsAt v 30 1 == 1
  let reps := bitsAt v 32 16 + 1
  let old := s.launch j n
  let ys := s.yieldedOf j n
  if carried && (!ys.isEmpty || decide (old.replicas ≤ old.halted && old.halted ≠ 0)) then
    let l : Launch := { old with left := BitVec.ofNat 17 ys.length, status := if ys.isEmpty then 1 else 0, runnable := true, complete := ys.isEmpty }
    if ys.isEmpty then s.updLaunch j n (fun _ => l)
    else ys.foldl (fun s k => s.resumeYield j k) (s.makeRunnable j n l)
  else
    let l : Launch := { left := BitVec.ofNat 17 reps, replicas := reps, gang := bitsAt v 29 1 == 1, carried
                        record := BitVec.ofNat 60 (bitsAt v 64 60), runnable := true }
    let s1 := s.makeRunnable j n l
    if s.clauseRefused j n || (l.gang && s.gangTooLarge j n l) then s1.refuseLaunch j n else s1.startWait j

/-- R350: a launch node. A carried one reached again waits until its saved strands are back (R37). -/
def State.launchNode (j h v : Nat) (s : State) : State :=
  let x := s.job j
  let n := x.gnode
  let es := s.edgesOfGraph j h
  let next := bitsAt v 4 12
  if x.nodeBegun then (if (s.launch j n).complete then s.goNode j h next else s)
  else if bitsAt v 30 1 = 1 ∧ bitsAt v 29 1 = 0 then s.graphFault j 7 (nodeAddr h n)
  else if x.saved.any (fun v => v.strand.node == n) || s.awaitsProducer j n es || ((s.launch j n).runnable && !(s.launch j n).complete) then s
  else
    match State.allocEdges j h n es s with
    | .error (c, a) => s.graphFault j c a
    | .ok none => s
    | .ok (some s1) =>
      let s2 := s1.beginLaunch j n v
      if (s2.job j).gstate = 4 then s2
      else if bitsAt v 28 1 = 1 then s2.updJob j (fun x => { x with nodeBegun := true })
      else s2.goNode j h next

/-- R348-R350 -/
def execGraphLaunchNode (job : Nat) (s : State) : Out := s.nodeEvent 1 job (State.launchNode job) 

/-- R350: a conditional node. -/
def State.condNode (j h v : Nat) (s : State) : State :=
  let s1 := s.countNode j
  match s1.predicate j (bitsAt v 64 60) with
  | .fault c => s1.graphFault j c (nodeAddr h (s.job j).gnode)
  | .wait => s1
  | .value p s2 => (s2.nodeOver j).goNode j h (if p = 0 then bitsAt v 16 12 else bitsAt v 4 12)

/-- R350 -/
def execGraphConditionalNode (job : Nat) (s : State) : Out := s.nodeEvent 2 job (State.condNode job)

/-- R350: the marks of a pass cleared; a carried launch keeps what its replicas need. -/
def Job.clearMarks (x : Job) : Job :=
  { x with
    graphCount := 0
    launches := x.launches.filterMap (fun (l : Nat × Launch) =>
      if l.2.carried then some (l.1, { l.2 with runnable := false, complete := false }) else none) }

/-- R221: a buffer whose consumer has completed is still to be freed. -/
def State.freesOwed (s : State) (j : Nat) : Bool := (s.job j).edges.any (fun e => (s.launch j e.2.consumer).complete)

/-- R350: a loop node: it waits for the phase, reads its predicate, ends the phase and turns back or leaves. -/
def State.loopNode (j h v : Nat) (s : State) : State :=
  let s1 := (s.countNode j).returnHolding j
  let n := (s.job j).gnode
  if !(s1.job j).phaseDone || s1.freesOwed j then s1
  else
    match s1.predicate j (bitsAt v 64 60) with
    | .fault c => s1.graphFault j c (nodeAddr h n)
    | .wait => s1
    | .value p s2 =>
      let s3 := (s2.nodeOver j).endPhase j
      if p = 0 then
        let s4 := s3.goNode j h (bitsAt v 16 12)
        if (s4.job j).gstate = 4 then s4 else s4.boundaryStop j
      else
        let s4 := s3.updJob j (fun x => { x with passes := x.passes + 1 })
        if bitsAt v 128 32 ≠ 0 ∧ bitsAt v 128 32 ≤ (s4.job j).passes.toNat then s4.graphFault j 6 (nodeAddr h n)
        else
          let s5 := (s4.updJob j Job.clearMarks).goNode j h (bitsAt v 4 12)
          if (s5.job j).gstate = 4 then s5 else s5.boundaryStop j

/-- R350 -/
def execGraphLoopNode (job : Nat) (s : State) : Out := s.nodeEvent 3 job (State.loopNode job)

/-- R384: the mailbox of a job takes its status, unless it holds a new pointer. -/
def State.setMailStatus (j status : Nat) (s : State) : State :=
  let k := (s.job j).vf * 16 + (s.job j).box
  let m : Mailbox := s.boxes.look {} k
  if m.valid then s else { s with boxes := s.boxes.put k { m with status } }

/-- R19, R350: the end node: carried replicas that are still placed, or saved at a yield, halt, the phase ends and the graph is complete. -/
def State.endNode (j : Nat) (s : State) : State :=
  let s1 := (s.countNode j).returnHolding j
  if !(s1.job j).phaseDone || s1.freesOwed j then s1
  else
    let ks := (s1.strands.filter (fun t => t.2.run == .yielded && t.2.job == j)).map (·.1)
    let s2 := ks.foldl (fun s k => (s.freeSet k).countHalted k) s1
    let s2' := (s2.job j).saved.foldl (fun s v => (s.dropParked v.key).countHalted v.key) s2
    let s3 := ((s2'.nodeOver j).endPhase j).updJob j (fun x => { x with gstate := 3, status := 1, preemptAt := none, saved := [] })
    s3.setMailStatus j 3

/-- R350 -/
def execGraphEndNode (job : Nat) (s : State) : Out := s.nodeEvent 4 job (fun _ _ => State.endNode job)

end Sys2Proof.Machine
end

