-- ==== Sys2Proof/Machine/Jobs.lean ====
section
/-!
DEFINITION. Jobs: mailboxes, residency, cancel and leaving residency (R18, R23, R208, R213, R278, R299, R331, R365-R368, R384-R386).
-/

namespace Sys2Proof.Machine

-- mailboxes ---------------------------------------------------------------------------------------

/-- R384: the host writes the low word of a mailbox; a write while valid is set is ignored. The job slot stays until residency changes it. In recovery
nothing but the DOE mailbox answers (R390). -/
def execMailboxWrite (vf box : Nat) (v : Word) (s : State) : Out :=
  let k := vf * 16 + box
  let m : Mailbox := s.boxes.look {} k
  if m.valid || !s.answers then .next s
  else
    .next { s with
      boxes := s.boxes.put k { m with addr := v.setWidth 52, valid := true, status := 1, order := s.fresh }, fresh := s.fresh + 1 }

/-- R385: whether a job record is one that the scheduler takes. -/
def recordAccepted (a v : Nat) : Bool :=
  let b (i n : Nat) : Nat := bitsAt v (8 * i) (8 * n)
  a % 64 == 0 && bitsAt v 4 4 != 0 && !(bitsAt v 3 1 == 1 && b 2 2 == 0) && bitsAt v 9 7 == 0 &&
  b 4 4 == 0 && b 57 1 == 0 &&
  [8, 16, 24, 32].all (fun i => bitsAt v (8 * i + 60) 4 == 0) &&
  b 8 8 % 32 == 0 && b 16 8 % 32 == 0 && b 24 8 % 64 == 0 && b 32 8 % 65536 == 0 && b 48 8 % 32 == 0 && decide (b 48 8 < 2^52) &&
  decide (4 ≤ b 56 1) && decide (b 56 1 ≤ 16) &&
  decide (b 60 2 ≤ b 62 2) && decide (b 62 2 ≤ b 58 2) && decide (b 58 2 ≤ 1024)

/-- R385: the job that a record describes, resident from a mailbox. -/
def jobOf (v vf box order : Nat) : Job :=
  let b (i n : Nat) : Nat := bitsAt v (8 * i) (8 * n)
  { resident := true, vf, box, order, priority := bitsAt v 0 3, effective := bitsAt v 0 3, stepPre := bitsAt v 3 1 == 1
    dieMask := bitsAt v 4 4, dieBound := bitsAt v 8 1 == 1, deadline := b 2 2, graphHdr := BitVec.ofNat 60 (b 8 8)
    poolTab := BitVec.ofNat 60 (b 16 8), ctxArea := BitVec.ofNat 60 (b 24 8), edgeBase := BitVec.ofNat 60 (b 32 8), edgeLen := b 40 8
    ringPhys := b 48 8, ringLog := b 56 1, winLen := b 58 2, edgeStart := b 60 2, ringStart := b 62 2 }

/-- R208: base and length of a chip-scratch window. -/
def State.window (s : State) (die slot : Nat) : Nat × Nat :=
  let w := (s.windows.look 0 (die * 64 + slot)).toNat
  (w % 2^10, w / 2^10 % 2^11)

/-- R208: whether a window overlaps another slot's nonzero window on a die. -/
def State.windowClash (s : State) (die slot base len : Nat) : Bool :=
  (List.range Config.jobSlots).any (fun k => k != slot && len != 0 && (s.window die k).2 != 0 &&
    overlaps base len (s.window die k).1 (s.window die k).2)

/-- R208: a window register written, the units that enter the window zeroed. -/
def State.setWindow (die slot base len : Nat) (s : State) : State :=
  { s with
    windows := s.windows.put (die * 64 + slot) (BitVec.ofNat 64 (base + len * 2^10))
    mem := (List.range len).foldl (fun m u =>
      let k := base + u
      let old := s.window die slot
      if old.1 ≤ k ∧ k < old.1 + old.2 then m else memZero m (chipHome die + 65536 * k) 65536) s.mem }

/-- R386: the lowest base at which a window of a length overlaps no other. -/
def State.windowBase (s : State) (die slot len : Nat) : Option Nat :=
  if len = 0 then some 0
  else (List.range (1025 - len)).find? (fun b => !(s.windowClash die slot b len))

/-- R386: the windows of a job on the dies of its mask, all or none. -/
def State.assignWindows (slot len : Nat) : List Nat → State → Option State
  | [], s => some s
  | d :: r, s =>
    match s.windowBase d slot len with
    | none => none
    | some b => State.assignWindows slot len r (s.setWindow d slot b len)

/-- The mailboxes with a pointer that waits. -/
def State.waitingBoxes (s : State) : List (Nat × Mailbox) := s.boxes.filter (fun b => b.2.valid)

/-- The bytes of a line at package scope: dirty sectors of die points come first. -/
def State.seenHome (s : State) (a n : Nat) : List Byte := memBytes ((s.gather (a / 128)).underKey 0 a n).mem a n

/-- R386: a pointer whose job has no window stays in its mailbox while later ones are taken. -/
def State.stuck (s : State) (b : Mailbox) : Bool :=
  let v := ofBytes (s.seenHome b.addr.toNat 64)
  recordAccepted b.addr.toNat v &&
  !(((List.range Config.dies).filter (fun d => bitsAt v 4 4 / 2^d % 2 == 1)).all (fun d =>
    (s.windowBase d Config.jobSlots (bitsAt v 464 16)).isSome))

/-- A job slot that no job holds. -/
def State.freeSlot (s : State) : Option Nat := (List.range Config.jobSlots).find? (fun j => !(s.job j).resident)

/-- R23, R384-R387: the scheduler takes the oldest pointer: it reads the record and refuses it, or makes the job resident with its
windows. While the package is in recovery none becomes resident (R390). -/
def execJobResidency (vf box : Nat) (s : State) : Out :=
  let k := vf * 16 + box
  let m : Mailbox := s.boxes.look {} k
  if !s.boot.running || s.boot.recovery || !m.valid ||
      s.waitingBoxes.any (fun b => b.1 != k && decide (b.2.order < m.order) && !(s.stuck b.2)) || s.rowHeld then .next s
  else
    let v := ofBytes (s.seenHome m.addr.toNat 64)
    if !(recordAccepted m.addr.toNat v) then .next { s with boxes := s.boxes.put k { m with valid := false, status := 5 } }
    else
      match s.freeSlot with
      | none => .next s
      | some j =>
        let job := jobOf v vf box s.fresh
        match State.assignWindows j job.winLen ((List.range Config.dies).filter (fun d => job.dieMask / 2^d % 2 == 1)) s with
        | none => .next s
        | some s1 =>
          .next { s1 with
            jobs := s1.jobs.put j job, fresh := s1.fresh + 1
            boxes := s1.boxes.put k { m with valid := false, status := 2, slot := j }
            rings := s1.rings.put k { s1.rings.look {} k with tail := 0, head := 0 } }

-- cancel ------------------------------------------------------------------------------------------

/-- R306: the queues that a node's clauses made are emptied. -/
def State.emptyQueues (j : Nat) (p : Queue → Bool) (s : State) : State :=
  ((s.queues.filter (fun q => (q.2.valid || q.2.refused) && q.2.job == j && p q.2)).map (·.1)).foldl (fun s q => s.emptyQueue q) s

/-- R367: whether a launch runs. -/
def Launch.runs (l : Launch) : Bool := l.runnable && !l.complete && l.status == 0

/-- R18, R306, R367: a running launch of a job cancelled: it counts as complete. -/
def State.cancelLaunch (j n : Nat) (s : State) : State := (s.endLaunch j n 2).emptyQueues j (fun q => q.owner == some n)

/-- R367: level 2. -/
def execCancelLaunch (job node : Nat) (s : State) : Out :=
  if (s.job job).resident && (s.launch job node).runs then
    .next { s.cancelLaunch job node with cancelStatus := false }
  else .next { s with cancelStatus := true }

/-- R18, R366, R367: everything of a job's graph cancelled: its launches, every strand and record left, and its phase; the job
completes with status cancelled. -/
def State.cancelAll (j : Nat) (s : State) : State :=
  let nodes := ((s.job j).launches.filter (fun l => l.2.runs)).map (·.1)
  let s1 := nodes.foldl (fun s n => s.cancelLaunch j n) s
  let s2 := ((s1.strands.filter (fun t => t.2.onFabric && t.2.job == j)).map (·.1)).foldl (fun s k => s.cancelStrand k) s1
  let s3 := (s2.dropSaved j (fun _ => true)).emptyQueues j (fun q => q.owner.isSome)
  let x := s3.job j
  let s4 := if x.phaseOpen then (s3.returnTo x.phaseRoot.toNat x.holding).releaseRoot x.phaseRoot.toNat else s3
  (s4.updJob j (fun x => { x with
    gstate := 5, status := 2, phases := if x.phaseOpen && !x.phaseDone then x.phases + 1 else x.phases
    graphCount := 0, phaseCount := 0, phaseOpen := false, phaseDone := false, holding := 0, holdingReturned := true
    preempting := false, stopped := false, preemptAt := none, waitFrom := none })).setMailStatus j 4

/-- R368: what has completed when a cancel arrives: the phase of a job, and where its engine stands at an end node with nothing left to wait for its graph,
and with it the job. -/
def State.settleLevels (j : Nat) (s : State) : State :=
  let s1 := s.settlePhase j
  match s1.viewNode j with
  | .at_ _ v => if bitsAt v 0 3 = 4 ∧ (s1.job j).phaseDone ∧ !(s1.freesOwed j) then s1.endNode j else s1
  | _ => s1

/-- R367, R368: a cancel of a whole level of a job, refused where it does not run; a level that has completed is no longer running. -/
def State.cancelLevel (j : Nat) (running : Job → Bool) (after : State → State) (s : State) : Out :=
  let s1 := s.settleLevels j
  if (s1.job j).resident && running (s1.job j) then .next { after (s1.cancelAll j) with cancelStatus := false }
  else .next { s1 with cancelStatus := true }

/-- R367: level 3. -/
def execCancelGraph (job : Nat) (s : State) : Out := s.cancelLevel job (fun x => x.gstate == 1 || x.gstate == 2) id

/-- R367: level 4. -/
def execCancelPhase (job : Nat) (s : State) : Out := s.cancelLevel job (fun x => x.phaseOpen && !x.phaseDone) id

/-- R213: the lines that a job has locked on every die released. -/
def State.releaseLocks (j : Nat) (s : State) : State :=
  { s with
    dieLines := s.dieLines.map (fun d => if d.lock = some j then { d with lock := none } else d)
    quotas := s.quotas.map (fun (q : Nat × (Nat × Nat)) => if q.1 % 64 = j then (q.1, (q.2.1, 0)) else q) }

/-- R365: a job's barriers freed. -/
def State.freeBarriers (j : Nat) (s : State) : State :=
  { s with barriers := s.barriers.filter (fun b => b.2.job != j) }

/-- R365, R213: what a job's cancel releases besides its work. -/
def State.jobOver (j : Nat) (s : State) : State := (s.releaseLocks j).freeBarriers j

/-- R367: level 5. -/
def execCancelJob (job : Nat) (s : State) : Out := s.cancelLevel job (fun x => x.status == 0) (State.jobOver job)

/-- R366, R208, R213, R278, R299, R331, R365: a complete or cancelled job leaves residency once nothing of it stands on the fabric
and its events are posted. -/
def State.leave (j : Nat) (s : State) : State :=
  let s1 := ((s.jobOver j).emptyQueues j (fun _ => true))
  let s2 : State := { s1 with
    -- R208: leaving residency sets the lengths to 0
    windows := s1.windows.map (fun (w : Nat × BitVec 64) => if w.1 % 64 = j then (w.1, BitVec.ofNat 64 (w.2.toNat % 2^10)) else w)
    programs := s1.programs.del j
    dataAt := s1.dataAt.filter (fun d => d.1 / 2^60 != j)
    -- R331, R334: a later job of the slot finds no translation of this one (log 93)
    tlbs := s1.tlbs.filter (fun e => e.job != j)
    roots := s1.roots.filter (fun r => r.2.job != j || r.2.kind == 0)
    roots64 := s1.roots64.put j (s1.roots64.look 0 j &&& ~~~(BitVec.ofNat 64 (2^36)))
    -- R349, R352: panels still held for a buffer of the job
    panels := s1.panels.map (fun (p : Nat × Panel) => if p.2.state = 4 ∧ p.2.job = j then (p.1, { p.2 with state := 1 }) else p) }
  { s2 with jobs := s2.jobs.del j }

/-- R366, R262: a job leaves residency once its events are posted, nothing of it is placed, and the runs that it had sent to stitch units are performed. -/
def execJobLeavingResidency (job : Nat) (s : State) : Out :=
  let x := s.job job
  if x.resident && x.status != 0 && x.events.isEmpty && !(s.jobPlaced job) && !(s.stitches.any (fun u => u.2.queue.any (fun o => o.job == job))) then .next (s.leave job) else .next s

end Sys2Proof.Machine
end

