-- ==== Sys2Proof/Machine/Ordering.lean ====
section
/-!
DEFINITION. The moves of the ordering machine, one event each (R220, R315, R324).
-/

namespace Sys2Proof.Machine

/-- R313: the home of a request: a bank or channel, or the SRAM that holds on-chip storage. -/
def State.homeUnit (s : State) (r : Req) : Nat :=
  if r.virt then s.bankOf r.home
  else if r.home < 2^57 then 2^40 + r.home / 2^20
  else if r.home < 2^58 then 2^41 + r.home / 2^19
  else if r.home < 2^59 then 2^42 + r.home / 2^26
  else 2^43 + r.home / 2^16

/-- R315: a request of the machine that stands at a stage. -/
def State.reqAt (s : State) (id : Nat) (stages : List Stage) : Option Req :=
  match s.req id with
  | some r => if stages.contains r.stage then some r else none
  | none => none

/-- R286: the sector of a line would join a pending queue that is full. -/
def State.sectorWaits (s : State) (line sector : Nat) : Bool := s.pendingFull { home := 128 * line + 64 * sector }

/-- R315 move 4: a request joins the tail of its home queue. -/
def State.joinHome (r : Req) (s : State) : State :=
  { s.retire r with reqs := (s.retire r).reqs ++ [{ r with stage := .home }] }

/-- R315 move 2, R80, R252: a request leaves its issue queue once no earlier request of it to the same bytes is on its way. -/
def execDepart (req : Nat) (s : State) : Out :=
  match s.reqAt req [.issued] with
  | none => .next s
  | some r => if s.earlier r || s.earlierAge r then .next s else .next (s.setReq { r with stage := .departed })

/-- R210-R212, R315 move 3: a departed write meets its own panel's stream buffer and its die point. There it rests, performed at die
scope, or goes on home. -/
def execReachDiePoint (req : Nat) (s : State) : Out :=
  match s.reqAt req [.departed] with
  | none => .next s
  | some r =>
    if !r.passesDie then .next s
    else
      let s1 := s.streamWrite r
      if r.rests then .next (if s.roomWaits r.die (r.home / 128) then s else (s1.dieWrite r).retire r)
      else
        let hit := (s1.dieLine r.die (r.home / 128)).any (fun d => d.holds (r.home % 128 / 64))
        let s2 := if hit then
            { s1 with dieLines := s1.dieLines.map (fun d =>
                if d.die = r.die ∧ d.line = r.home / 128 then
                  { d with data := BitVec.ofNat 1024 (mergeBytes d.data.toNat (r.home % 128) r.size r.value r.mask.toNat) }
                else d) }
          else s1
        .next (s2.setReq { r with stage := .passed })

/-- R315 move 4 -/
def execSendHome (what : SendWhat) (s : State) : Out :=
  match what with
  | .sector die line sector => if s.sectorWaits line sector then .next s else .next (s.sendSector die line sector)
  | .req id =>
    match s.reqAt id [.departed, .passed] with
    | none => .next s
    | some r => if r.kind = .read || (r.stage == .departed && r.passesDie) || s.pendingFull r then .next s else .next (s.joinHome r)

/-- R313, R339: no older request stands in the same home queue. One that a scratch tile's state holds waits beside it, and a synchronising read that
was returned to its issuer is in none. -/
def State.oldestAt (s : State) (r : Req) : Bool :=
  (s.reqs.find? (fun q => q.stage == .home && s.homeUnit q == s.homeUnit r && !(s.tileHolds q))).map (·.id) == some r.id

/-- R315 moves 5 and 9: the oldest request of a home queue is applied at its home; a read that waited there returns (R286). -/
def execSerialise (req : Nat) (s : State) : Out :=
  match s.reqAt req [.home] with
  | none => .next s
  | some r => if !(s.oldestAt r) || s.homeHeld r || s.tileHolds r then .next s else .next (s.serveHome r)

/-- R210-R212, R286, R315 move 6: a departed read returns; where a bank program holds its bank's row it joins the bank's pending queue, if that has
room. -/
def execRead (req : Nat) (s : State) : Out :=
  match s.reqAt req [.departed] with
  | none => .next s
  | some r =>
    if r.kind != .read || s.tileHolds r then .next s
    else if s.homeHeld r then .next (if s.pendingFull r then s else s.joinHome r)
    else .next (s.readNow r)

/-- R213, R334, R315 move 7: a clean line is dropped, a dirty sector is sent home, a cached translation goes. -/
def execDrop (what : DropWhat) (s : State) : Out :=
  match what with
  | .streamLine panel line => .next { s with streamLines := s.streamLines.filter (fun l => !(l.panel == panel && l.line == line)) }
  | .translation n => .next { s with tlbs := s.tlbs.eraseIdx n }
  | .dieLine die line =>
    match s.dieLine die line with
    | none => .next s
    | some d =>
      if d.dirty 0 then .next (if s.sectorWaits line 0 then s else s.sendSector die line 0)
      else if d.dirty 1 then .next (if s.sectorWaits line 1 then s else s.sendSector die line 1)
      else if d.lock.isSome then .next s
      else .next { s with dieLines := s.dieLines.filter (fun x => !(x.die == die && x.line == line)) }

/-- R220, R315 move 8: a synchronising read of a word that is empty joins the deferral set; a full table returns it to its issuer. -/
def execDefer (req : Nat) (s : State) : Out :=
  match s.reqAt req [.home] with
  | none => .next s
  | some r =>
    if r.kind != .syncRead || !(s.oldestAt r) || s.homeHeld r || (wordsOf r.home r.size).all s.isFull then .next s
    else if s.deferralFull r then .next (s.setReq { r with stage := .departed })
    else .next { s.retire r with reqs := (s.retire r).reqs ++ [{ r with stage := .deferred }] }

/-- R220: a read that found the table full, or was withdrawn and restored, is sent again. -/
def execDeferredReadResend (req : Nat) (s : State) : Out :=
  match s.reqAt req [.departed, .home] with
  | none => .next s
  | some r =>
    if r.kind != .syncRead then .next s
    else if !s.prompt then (if r.stage = .departed && !s.pendingFull r then .next (s.joinHome r) else .next s)
    else if s.homeHeld r then .next s
    else if (wordsOf r.home r.size).all s.isFull then .next ((s.retire r).answer r (s.peekKey r.key r.home r.size))
    else if s.deferralFull r then .next s
    else .next { s.retire r with reqs := (s.retire r).reqs ++ [{ r with stage := .deferred }] }

end Sys2Proof.Machine
end

