-- ==== Sys2Proof/Machine/Outside.lean ====
section
/-!
DEFINITION. The package and the world outside it: bridles, snapshots, links, boot and attestation, resets, the host's windows,
temperature, keys, and the registers of system software (R181, R182, R208, R215, R299, R331, R341, R354, R355, R379-R383,
R388-R392, R396).
-/

namespace Sys2Proof.Machine

-- bridles -----------------------------------------------------------------------------------------

/-- R181: the bridle with a number: an AGE's, by its element, or from `outside` up the ingress of a link virtual channel. -/
def State.bridle (s : State) (e : Nat) : Bridle := if e < outside then (s.elem e).age.bridle else (s.cut (e - outside)).bridle

/-- R181: a bridle changed by f; an element that is no AGE has none. -/
def State.updBridle (e : Nat) (f : Bridle → Bridle) (s : State) : State :=
  if e < outside then (if kindAt (e % 64) = .age then s.updAge e (fun a => { a with bridle := f a.bridle }) else s)
  else s.updCut (e - outside) (fun c => { c with bridle := f c.bridle })

/-- R182: the tokens that stand at an AGE's ports are admitted as the window's budget and the channels' room allow. -/
def State.admitPorts (e : Nat) (s : State) : State :=
  let l := (s.elem e).age.ports
  if l.isEmpty || !(s.regionRuns e) then s
  else
    let s1 := s.updElem e (fun x => Elem.passPorts [] l { x with age := { x.age with ports := [] } })
    if (s1.elem e).age.ports.length = l.length then s else (s1.countPorts e l.length).activity e

/-- R182: the tokens that wait at a metered port are admitted when the window's budget allows and their channel has room: those of slots'
firings, and the oldest formed token of a command. -/
def execBridleAdmission (s : State) : Out :=
  let age := s.site.elem
  let s1 := s.admitPorts age
  match (s1.elem age).age.places.find? (fun p => p.2.active && !p.2.held && !p.2.outq.isEmpty) with
  | some (p, _) => .next (s1.emitHead age p)
  | none => .next s1

/-- R181: a window ends when its counter reaches W. -/
def execBridleWindowEnd (s : State) : Out :=
  let age := s.site.elem
  let b := s.bridle age
  if b.enabled ∧ bitsAt b.control.toNat 0 16 + 1 ≤ b.window then
    .next (s.updBridle age (fun b => { b with window := 0, admitted := 0 }))
  else .next s

/-- R181: system software writes the control fields; the power limit is the firmware's, and the reserved bits stay zero. -/
def execBridleControlWrite (age : Nat) (v : Word) (s : State) : Out :=
  if !s.answers then .next s
  else .next (s.updBridle age (fun b => {
    control := BitVec.ofNat 64 (bitsAt v.toNat 0 32 + bitsAt b.control.toNat 32 16 * 2^32 + bitsAt v.toNat 48 1 * 2^48) }))

/-- R181, R396: management firmware writes the power limit, a write to control like any other. -/
def execPowerLimitWrite (age : Nat) (p : BitVec 16) (s : State) : Out :=
  if !s.answers then .next s
  else .next (s.updBridle age (fun b => {
    control := BitVec.ofNat 64 (bitsAt b.control.toNat 0 32 + p.toNat * 2^32 + bitsAt b.control.toNat 48 1 * 2^48) }))

-- snapshots ---------------------------------------------------------------------------------------

/-- R381: whether a snapshot takes a strand's blocks. -/
def Pending.takes (p : Pending) (k : Nat) (t : Strand) : Bool :=
  t.onFabric && (p.all || p.jobs.contains t.job || p.strands.contains k)

/-- R381: whether it takes what belongs to a job. -/
def Pending.takesJob (p : Pending) (j : Nat) : Bool := p.all || p.jobs.contains j

/-- R381: the shadows at a snapshot's cycle. -/
def State.shadowOf (s : State) (p : Pending) : Shadow :=
  let ks := s.strands.filter (fun t => p.takes t.1 t.2)
  let ages := if p.all then (s.elems.map (·.1)).filter (fun e => kindAt (e % 64) == .age)
    else ks.flatMap (fun t => t.2.elems.filter (fun e => kindAt (e % 64) == .age))
  let dies := ks.map (fun t => dieOf t.2.lead)
  let ports := ages ++ (s.cuts.map (·.1)).filterMap (fun c =>
    if p.all || s.elems.any (fun e => e.2.routes.any (fun r => r.2.link == some c && ks.any (fun t => t.2.panels.contains (panelOf r.2.dstElem)))) then
      some (outside + c) else none)
  { cyc := s.cyc
    strands := ks.map (fun t => (t.1, (t.2.cpc, t.2.spt, t.2.kpend)))
    loops := ages.map (fun e => (e, (s.elem e).age.places.map (fun x => (x.2.j0, x.2.j1, x.2.j2, x.2.j3))))
    barriers := s.barriers.filter (fun b => p.takesJob b.2.job)
    roots := s.roots.filter (fun r => p.takesJob r.2.job)
    bridles := ports.map (fun e => (e, ((s.bridle e).window, (s.bridle e).admitted)))
    heat := ages.map (fun e => (e, (s.elem e).age.heat))
    perf := (s.perf.filter (fun c => p.all || dies.contains (c.1 / 8))).map (fun c => (c.1, c.2.value))
    jobs := (s.jobs.filter (fun j => p.takesJob j.1)).map (fun j => (j.1, j.2.counters)) }

/-- R381: at its cycle the snapshot latches, and the snapshot number rises. -/
def execSnapshotLatch (s : State) : Out :=
  match s.snapAt with
  | some p =>
    if p.at_.toNat ≤ s.cyc.toNat then
      .next { s with shadow := s.shadowOf p, snapNumber := s.snapNumber + 1, snapAt := none }
    else .next s
  | none => .next s

/-- R381: the host's trigger takes every block. -/
def execSnapshotExternalTrigger (s : State) : Out := .next (if s.answers then s.triggerSnapshot { all := true } else s)

-- links -------------------------------------------------------------------------------------------

/-- R389, R188: the first element of a strand's set with a virtual channel on a link, by panel offset and element number. -/
def State.onLink (s : State) (t : Strand) (link : Nat) : Option Nat :=
  match s.partOf t with
  | none => none
  | some p =>
    let ends := ((s.cuts.map (·.2)).filter (fun c => c.link == some link && c.group == p.group)).flatMap (fun c =>
      (if c.srcPart = p.number then [c.srcElem] else []) ++ (if c.dstPart = p.number then [c.dstElem] else []))
    match ends with
    | [] => none
    | i :: r => let j := r.foldl Nat.min i; some (t.panelAt (j / 64) * 64 + j % 64)

/-- R389: a link goes down; every region with a channel on it freezes with first-fault source 3. -/
def execLinkDown (link : Nat) (s : State) : Out :=
  if bitsAt s.cap.linkMask.toNat link 1 = 0 then .next s
  else
    let s0 : State := { s with linksDown := if s.linksDown.contains link then s.linksDown else link :: s.linksDown }
    .next (s0.strands.foldl (fun s t =>
      if t.2.onFabric then
        match s0.onLink t.2 link with
        | some e => s.faultRegion t.1 ((t.2.offsetOf (panelOf e)).getD 0) (e % 64) 3 0
        | none => s
      else s) s0)

/-- The link of a cut edge is down (R389). -/
def State.cutDown (s : State) (c : Nat) : Bool := match (s.cut c).link with | some l => s.linksDown.contains l | none => false

/-- R310: a token of an inward cut edge arrives on its link; its source, in another package, sends it only where the window has room. -/
def State.linkToken (c : Nat) (t : Token) (s : State) : State :=
  let r : Route := (s.elem (outside + c)).routes.look {} (4 + c)
  if s.cutDown c || r.link != some c || decide (r.dstDepth ≤ r.window) then s
  else s.updElem (outside + c) (fun x => { x with routes := x.routes.put (4 + c) { r with window := r.window + 1, flight := r.flight ++ [t] } })

/-- R310: a token of an outward cut edge has been taken in another package, and its credit returns. -/
def State.linkCredit (c : Nat) (s : State) : State :=
  if s.cutDown c then s
  else
    { s with elems := s.elems.map (fun (x : Nat × Elem) => (x.1, { x.2 with routes := x.2.routes.map (fun r =>
        if r.2.link = some c ∧ outside ≤ r.2.dstElem ∧ r.2.flight.length < r.2.window then (r.1, { r.2 with window := r.2.window - 1 }) else r) })) }

/-- R320, R323: a part in another package names a done edge that ends at an AGE here. -/
def State.linkEdge (e panel row scope part : Nat) (s : State) : State :=
  let a := (s.elem e).age
  let from_ : Bool := match s.partOf (s.strand (s.strandOf e)) with
    | some p => s.partList.any (fun q => q.group == p.group && q.number == part && q.away != 0)
    | none => false
  if !from_ || decide (8 ≤ a.doneIn.length) then s
  else s.updAge e (fun a => { a with
    doneIn := a.doneIn.put a.doneIn.length { valid := true, srcPanel := panel, srcRow := row, scope := scope, part := part } })

/-- R311, R321: a `DONE` from another package arrives on edge i of an AGE. -/
def State.linkDone (e i : Nat) (s : State) : State :=
  let d := (s.elem e).age.doneIn.look {} i
  if !d.valid || d.part == 0 || decide (255 ≤ d.count) then s
  else s.updAge e (fun a => { a with doneIn := a.doneIn.put i { d with count := d.count + 1 } })

/-- R321, R322: a `DONE` of edge i of an AGE has been taken in another package; what a full count has held back leaves. -/
def State.doneTaken (e i : Nat) (s : State) : State :=
  let s1 := s.updAge e (fun a => { a with doneOut := a.doneOut.zipIdx.map (fun o =>
    if o.2 = i ∧ o.1.away then { o.1 with sent := o.1.sent - 1 } else o.1) })
  s1.emitDone e (s1.elem e).age.completed.length

/-- R388: the link layer replays a flit. Replay changes no order, so it changes nothing here. -/
def execFlitReplay (_link : Nat) (s : State) : Out := .next s

-- boot and attestation ----------------------------------------------------------------------------

/-- R390: whether the boot ROM takes an image. -/
def imageTaken (counter : Nat) (f : FlashImage) : Bool :=
  Config.imageSigned (Config.sha256 f.content).toNat && decide (counter ≤ f.version)

/-- The state after reset of a part with the fuses of a given one. -/
def State.fresh_ (s : State) (b : Boot) : State :=
  { State.reset with
    cap := s.cap, retired := s.retired, panels := s.panels.filter (fun p => p.2.state == 3), boot := b
    power := s.power, dieTemps := s.dieTemps, stackTemps := s.stackTemps }

/-- R390: package reset: the boot ROM reads the one image in flash, which is that of a recovery or else the one that the part was delivered with, checks it,
records measurements and starts the security processor, or the package enters recovery. -/
def execPackageReset (flash : FlashImage) (s : State) : Out :=
  let image := s.boot.written.getD flash
  let ok := imageTaken s.boot.counter image
  .next (s.fresh_ {
    powered := s.boot.powered, recovery := !ok, running := ok, image, written := s.boot.written, counter := s.boot.counter
    measurements := if ok then s.measure image else [] })

/-- R390: in recovery an image that passes the ROM's checks is written to flash. -/
def execRecoveryImage (image : FlashImage) (s : State) : Out :=
  if s.boot.recovery && imageTaken s.boot.counter image then .next { s with boot := { s.boot with image := image, written := some image } }
  else .next s

/-- R391: SPDM answers with the certificate chain, or with the measurements signed by the identity key. -/
def execSpdmRequest (req : SpdmReq) (s : State) : Out :=
  match req with
  | .certificates => .next { s with spdmAnswer := [Config.certificateChain] }
  | .measurements =>
    let l := s.boot.measurements.map (fun m => m.2.toNat)
    .next { s with spdmAnswer := l ++ [Config.identitySign (packBits 256 l)] }

/-- R383: a function-level reset of a VF cancels its jobs, empties its mailboxes and clears its ring controls. -/
def execFunctionLevelReset (fn : Nat) (s : State) : Out :=
  if fn = 0 ∨ 16 < fn ∨ !s.answers then .next s
  else
    let v := fn - 1
    let js := (s.jobs.filter (fun j => j.2.resident && j.2.vf == v && j.2.status == 0)).map (·.1)
    let s1 := js.foldl (fun s j => (s.cancelAll j).jobOver j) s
    .next { s1 with
      boxes := s1.boxes.filter (fun b => b.1 / 16 != v), rings := s1.rings.filter (fun r => r.1 / 16 != v)
      toolRings := s1.toolRings.del v }

-- page tables as a whole --------------------------------------------------------------------------

/-- The leaves of a table: first byte, length, entry. -/
def State.tableLeaves (s : State) : Nat → Nat → List (Nat × Nat × Nat)
  | 0, _ => []
  | fuel + 1, frame =>
    (List.range 2048).flatMap (fun k =>
      let e := s.peekKey 0 (frame * 65536 + k * 8) 8
      if pteOk (4 - fuel) e then
        if bitsAt e 1 1 = 1 then [(bitsAt e 18 36 * 65536, if fuel = 1 then 2^27 else 65536, e)]
        else s.tableLeaves fuel (bitsAt e 18 36)
      else [])

/-- The leaves of every resident job's tables. -/
def State.allLeaves (s : State) : List (Nat × Nat × Nat) :=
  (List.range Config.jobSlots).flatMap (fun j =>
    let r := (s.roots64.look 0 j).toNat
    if bitsAt r 36 1 = 1 then s.tableLeaves 4 (bitsAt r 0 36) else [])

/-- R332, R393: the egress-marked storage. -/
def State.marked (s : State) : List (Nat × Nat) :=
  (s.allLeaves.filter (fun l => bitsAt l.2.2 15 1 == 1)).map (fun l => (l.1, l.2.1))

/-- Whether a byte lies in a list of ranges. -/
def inRanges (l : List (Nat × Nat)) (a : Nat) : Bool := l.any (fun r => decide (r.1 ≤ a) && decide (a < r.1 + r.2))

-- the words of the mailboxes and of the ring controls ----------------------------------------------

/-- R384: the two words of a mailbox. -/
def Mailbox.low (m : Mailbox) : Word := BitVec.ofNat 64 (m.addr.toNat + (if m.valid then 2^52 else 0))
/-- R384 -/
def Mailbox.high (m : Mailbox) : Word := BitVec.ofNat 64 (m.status % 8 + m.slot % 64 * 2^3)
/-- R387: an event ring control. -/
def RingCtl.word (r : RingCtl) : Word :=
  BitVec.ofNat 64 (r.tail.toNat + r.head.toNat * 2^16 + (if r.pending then 2^32 else 0))

-- temperature -------------------------------------------------------------------------------------

/-- R396: at the critical temperature firmware freezes every region and posts kind-2 events. -/
def execCriticalTemperature (s : State) : Out :=
  .next (s.strands.foldl (fun s t =>
    if t.2.onFabric && t.2.region.state == .running then
      (s.beginFreeze t.1).postEvent t.1 2 0
    else s) s)

/-- R396: a hardware trip removes power; no state is saved. -/
def execHardwareTrip (s : State) : Out :=
  .next (s.fresh_ { powered := false, running := false, image := s.boot.image, written := s.boot.written, counter := s.boot.counter })

-- keys --------------------------------------------------------------------------------------------

/-- R355: an access that has used a key slot is still to be performed: a request, a write that rests at a die point, or an operation of a stitch
unit, whose chunks may lie under it. -/
def State.keyBusy (s : State) (k : Nat) : Bool :=
  s.reqs.any (fun r => r.virt && r.key == k) || s.dieLines.any (fun d => d.changed != 0 && d.key == k) ||
  s.stitches.any (fun u => !u.2.queue.isEmpty || !u.2.writes.isEmpty)

/-- R392, R355: the security processor writes a key slot, or refuses the command. What was written under the slot before keeps its seal, so that
it reads back as its decryption under the new key. -/
def execKeySlotWrite (k : KeyCommand) (s : State) : Out :=
  if !s.boot.running || s.boot.recovery || k.index == 0 || decide (1024 ≤ k.index) || decide (3 ≤ k.use) ||
      (k.use == 2 && k.keyBits != 128) || s.keyBusy k.index then .next s
  else
    let mat : BitVec 512 := if k.use = 0 then 0 else if k.use = 2 then BitVec.ofNat 512 (k.material.toNat % 2^128) else k.material
    .next { s with keys := s.keys.put k.index { use := k.use, owner := k.owner % 64, material := mat } }

-- registers of system software --------------------------------------------------------------------

/-- R208: a write to a chip-scratch window register, ignored where the window is too long or overlaps another. -/
def execChipWindowWrite (die slot : Nat) (v : Word) (s : State) : Out :=
  let b := bitsAt v.toNat 0 10
  let n := bitsAt v.toNat 10 11
  if !s.answers ∨ 1024 < b + n ∨ s.windowClash die slot b n then .next s else .next (s.setWindow die slot b n)

/-- R215, R222: a write that changes a frame group's mode zeroes the group. -/
def execFrameGroupModeWrite (group : Nat) (linear : Bool) (s : State) : Out :=
  if !s.answers ∨ 384 ≤ group ∨ s.groupLinear.look false group = linear then .next s
  else
    let s1 := s.zeroRun (group * s.groupBytes) s.groupBytes 0
    s.unheld (.next { s1 with groupLinear := s1.groupLinear.put group linear })

/-- R299: the descriptor that system software writes. -/
def queueOf (v : Nat) : Queue :=
  { valid := bitsAt v 0 1 == 1, scope := bitsAt v 1 2, cls := bitsAt v 3 2, job := bitsAt v 5 6, homePanel := bitsAt v 11 7, depth := bitsAt v 18 12
    ringBase := bitsAt v 32 22, spillCap := bitsAt v 128 32, spillVa := BitVec.ofNat 60 (bitsAt v 224 60) }

/-- R299: whether the fields of a queue to be created are taken, its home apart. -/
def State.queueFits (s : State) (q : Nat) (d : Queue) : Bool :=
  decide (d.cls < 3) && decide (1 ≤ d.depth) && (d.spillCap == 0 || (d.cls == 1 && d.spillVa.toNat % 16 == 0)) &&
  decide (16 * (d.ringBase + d.depth) ≤ 65536 * (s.window (q / 256) d.job).2)

/-- R299: whether the creation of a queue by system software is taken. -/
def State.queueTaken (s : State) (q : Nat) (d : Queue) : Bool :=
  let die := q / 256
  let held (p : Nat) : Bool := match s.strandOn p with | some k => (s.strand k).job == d.job | none => false
  s.queueFits q d &&
  (match d.scope with
   | 0 => held (die * 128 + d.homePanel)
   | 1 => (List.range 16).any (fun k => held (sharePanel die (d.homePanel % 8) k))
   | _ => d.homePanel == 0)

/-- R299, R400: a queue of a launch's clause, which stands in the table of the lowest die of its job's die mask. Its home is set when replica 0 is
first placed; a creation that is refused is kept, so that the launch does not start. -/
def State.clauseQueue (q node : Nat) (d : Queue) (s : State) : State :=
  let mask := (s.job d.job).dieMask
  if (s.queue q).valid || (List.range Config.dies).find? (fun k => mask / 2^k % 2 == 1) != some (q / 256) then s
  else if d.valid && s.queueFits q d then s.setQueue q { d with owner := some node, homePanel := 0 }
  else s.setQueue q { job := d.job, owner := some node, refused := true }

/-- R27, R320: what the loader is told of a part (log 87). -/
def partFrom (v : Nat) : Part :=
  { group := bitsAt v 0 32, number := bitsAt v 32 3, away := bitsAt v 35 2, job := bitsAt v 40 6, node := bitsAt v 48 12, replica := bitsAt v 64 16
    pgroup := bitsAt v 96 32, pindex := bitsAt v 128 4 }

/-- R27, R310: what the loader is told of a cut edge (log 87). -/
def cutFrom (v : Nat) : Cut :=
  { group := bitsAt v 0 32, srcPart := bitsAt v 32 3, srcPort := bitsAt v 35 3, dstPart := bitsAt v 40 3, dstPort := bitsAt v 43 3
    depth := bitsAt v 48 8, srcElem := bitsAt v 64 16, dstElem := bitsAt v 80 16
    link := if bitsAt v 100 1 = 1 then some (bitsAt v 96 4) else none }

/-- R27, R389: the loader is told of a part; one that another package refuses refuses the launches of every part here, and one that it
acknowledges may be the last that the group waits for. -/
def State.setPart (k : Nat) (p : Part) (s : State) : State :=
  let s1 : State := { s with parts := s.parts.put k p }
  if p.away = 3 then s1.refuseGroup p.group else if p.away = 2 then s1.startGroup p.group else s1

/-- R184, R193, R213, R299, R331, R341, R379, R380, R383, R389, R393, R396: a write of a register that has no row of its own. In recovery none answers
(R390). A lock quota may be larger than what R213 lets a job lock (log 119). -/
def execRegisterWrite (r : RegTarget) (v : BitVec 512) (s : State) : Out :=
  let n := v.toNat
  if !s.answers then .next s
  else
  match r with
  | .translationRoot slot =>
    let old := (s.roots64.look 0 slot).toNat
    let frame := if s.jobPlaced slot then bitsAt old 0 36 else bitsAt n 0 36
    .next { s with roots64 := s.roots64.put slot (BitVec.ofNat 64 (frame + bitsAt n 36 2 * 2^36)) }
  | .stallControl k => .next (s.updStrand k (fun t => { t with stallCtl := BitVec.ofNat 64 (n % 2^16) }))
  | .mapAddress k => .next (s.updStrand k (fun t => { t with mapAddr := BitVec.ofNat 60 n }))
  | .lockQuota die slot => .next { s with quotas := s.quotas.put (die * 64 + slot) (n % 2^20, (s.quota die slot).2) }
  | .perfControl die c =>
    .next { s with perf := s.perf.put (die * 8 + c) { (s.perf.look {} (die * 8 + c) : Perf) with control := BitVec.ofNat 16 n } }
  | .perfValue die c =>
    .next { s with perf := s.perf.put (die * 8 + c) { (s.perf.look {} (die * 8 + c) : Perf) with value := BitVec.ofNat 48 n } }
  | .templateOwner t => .next (s.updTemplate t (fun x => { x with owner := n % 64, owned := bitsAt n 6 1 == 1 }))
  | .queueDescriptor q =>
    if (queueOf n).valid && !(s.queue q).valid && s.queueTaken q (queueOf n) then .next (s.setQueue q (queueOf n)) else .next s
  | .queueClause q node => .next (s.clauseQueue q node (queueOf n))
  | .heatLog slot =>
    .next (s.updJob slot (fun j => { j with heatBase := BitVec.ofNat 60 n, heatLen := bitsAt n 64 32, heatHead := bitsAt n 96 32 }))
  | .dataSection slot record =>
    let key := slot * 2^60 + record
    .next { s with dataAt := if n % 2^64 = 0 then s.dataAt.del key else s.dataAt.put key (BitVec.ofNat 64 n) }
  | .toolingRing vf =>
    .next { s with toolRings := s.toolRings.put vf { base := bitsAt n 0 64, entries := bitsAt n 64 32, head := bitsAt n 96 32, tail := bitsAt n 128 32 } }
  | .part k => .next (s.setPart k (partFrom n))
  | .cut k => .next { s with cuts := s.cuts.put k { cutFrom n with bridle := (s.cut k).bridle } }
  | .packageGroup => .next { s with packageGroup := n % 2^32 }
  | .packageIndex => .next { s with packageIndex := n % 16 }
  | .grant vf page =>
    let key := vf * 2^36 + page
    .next { s with grants := if n % 2 = 1 then s.grants.put key true else s.grants.del key }
  | .power => .next { s with power := n }
  | .dieTemperature d => .next { s with dieTemps := s.dieTemps.put d n }
  | .stackTemperature k => .next { s with stackTemps := s.stackTemps.put k n }

-- the host's windows ------------------------------------------------------------------------------

/-- R341: a template entry. -/
def State.templateBits (s : State) (n : Nat) : Nat :=
  let t := s.template n
  t.snapshot.toNat + t.trigger % 2^10 * 2^128 + (if t.trigValid then 2^138 else 0) + t.doneQ % 2^10 * 2^139 + (if t.doneValid then 2^149 else 0) +
  t.age % 64 / 8 * 2^150 + t.offset % 128 * 2^153 + t.owner % 64 * 2^160 + (if t.owned then 2^166 else 0) +
  (if t.armed then 2^167 else 0) + (if t.firing then 2^168 else 0) + (if t.dormant then 2^169 else 0) + t.count.toNat * 2^192

/-- R356: the chained loop counter of a place of an AGE. -/
def Place.loopBits (go : Bool) (x : Place) : Nat :=
  x.j0 % 2^27 + x.j1 % 2^24 * 2^27 + x.j2 % 2^24 * 2^51 + x.j3 % 2^48 * 2^75 + (if x.active && !x.lastIssued then 2^123 else 0) + (if go then 2^124 else 0)

/-- R321: an incoming done-edge register. -/
def DoneIn.bits (d : DoneIn) : Nat :=
  (if d.valid then 1 else 0) + d.srcPanel % 2^7 * 2 + d.srcRow % 8 * 2^8 + d.scope % 8 * 2^11 + d.count % 2^8 * 2^14

/-- R360: a barrier. -/
def Barrier.bits (b : Barrier) : Nat :=
  (if b.valid then 1 else 0) + b.job % 64 * 2 + b.scope % 8 * 2^7 + b.home % 128 * 2^10 + b.n % 2^16 * 2^17 + b.outstanding % 2^16 * 2^33 +
  b.pending.toNat * 2^49 + (if b.phase then 2^97 else 0) + (if b.waiting.isEmpty then 0 else 2^98)

/-- R371: a weight root: expected in the first 96 bits, returned in the next, then the fields of the table from its bit 96 on. -/
def Root.bits (r : Root) : Nat :=
  r.expected.toNat + r.returned.toNat * 2^96 + (r.kind % 4 + r.job % 64 * 2^2 + r.parent.toNat * 2^8 + (if r.waiter then 2^18 else 0)) * 2^192

/-- R299: a queue descriptor. -/
def Queue.bits (q : Queue) : Nat :=
  (if q.valid then 1 else 0) + q.scope % 4 * 2 + q.cls % 4 * 2^3 + q.job % 64 * 2^5 + q.homePanel % 128 * 2^11 + q.depth % 2^12 * 2^18 +
  q.ringBase % 2^22 * 2^32 + q.head % 2^12 * 2^64 + q.count % 2^12 * 2^76 +
  q.template % 256 * 2^96 + (if q.bound.isSome then 2^104 else 0) + q.spillCap % 2^32 * 2^128 + q.spillCount % 2^32 * 2^160 +
  q.spillHead % 2^32 * 2^192 + q.spillVa.toNat * 2^224

/-- R366: a job's completion counters: word 0 the graph's, 1 the phase's, 2 the job's, then the launch entries by node. -/
def JobCounters.word (c : JobCounters) : Nat → Nat
  | 0 => c.graph.toNat
  | 1 => c.phase.toNat + c.root.toNat * 2^13
  | 2 => c.phases.toNat + c.status % 4 * 2^32
  | n + 3 => let l := c.launches.look (0, 0) n; l.1.toNat + l.2 % 4 * 2^17

/-- R379: a page heat entry. -/
def Heat.bits (x : Heat) : Nat := x.tag.toNat + (if x.valid then 2^44 else 0) + x.delivered.toNat * 2^45 + x.starved.toNat * 2^77

/-- R381: a latched shadow as system software reads it; 0 where the snapshot took no such block. -/
def Shadow.word (s : Shadow) : Config.ShadowReg → Nat
  | .cyc => s.cyc.toNat
  | .strand k n => let x := s.strands.look (0, 0, 0) k; (match n with | 0 => x.1.toNat | 1 => x.2.1.toNat | _ => x.2.2.toNat)
  | .loops e p n =>
    let x := (s.loops.look [] e).getD p (0, 0, 0, 0)
    bitsAt (x.1 % 2^27 + x.2.1 % 2^24 * 2^27 + x.2.2.1 % 2^24 * 2^51 + x.2.2.2 % 2^48 * 2^75) (64 * n) 64
  | .barrier b n => bitsAt (s.barriers.look {} b).bits (64 * n) 64
  | .weightRoot r n => bitsAt (s.roots.look {} r).bits (64 * n) 64
  | .bridle e n => let x := s.bridles.look (0, 0) e; if n = 0 then x.1 else x.2
  | .heat e i n => bitsAt ((s.heat.look [] e).getD i {}).bits (64 * n) 64
  | .perf d c => (s.perf.look 0 (d * 8 + c)).toNat
  | .counters j n => (s.jobs.look {} j).word n

/-- R383, R184, R191: what a register of the PF's windows holds. A region register of a panel where no set is placed reads 0. -/
def State.devRead (s : State) (r : Config.DevReg) : Nat :=
  let at_ (p : Nat) (f : Strand → Nat) : Nat := match s.strandOn p with | some k => f (s.strand k) | none => 0
  match r with
  | .none => 0
  | .command p => at_ p (fun t => if t.region.cmdStatus then 1 else 0)
  | .status p => at_ p (fun t => t.region.bits)
  | .seqFault p n => at_ p (fun t => bitsAt t.fault.toNat (64 * n) 64)
  | .stall p n => at_ p (fun t => match n with | 0 => t.stallCtl.toNat | 1 => t.mapAddr.toNat + t.mapStatus * 2^60 | _ => t.quiet.toNat)
  | .elemFault e => (s.elem e).fault.toNat
  | .portFault e n => bitsAt (s.elem e).age.port.toNat (64 * n) 64
  | .bridle e n => let b := s.bridle e; (match n with | 0 => b.control.toNat | 1 => b.window | _ => b.admitted)
  | .loops e p n => bitsAt ((s.place e p).loopBits (s.elem e).go) (64 * n) 64
  | .queueEntry e i n =>
    let a := (s.elem e).age
    if i < 16 then bitsAt ((a.queue[i]?.map (fun q => q.raw.toNat)).getD 0) (64 * n) 64 else a.queue.length + (if a.shapeOwed then 2^5 else 0)
  | .doneIn e i => ((s.elem e).age.doneIn.look {} i).bits
  | .root j => (s.roots64.look 0 j).toNat
  | .cancel => if s.cancelStatus then 1 else 0
  | .template t n => bitsAt (s.templateBits t) (64 * n) 64
  -- R354: key material is write-only
  | .key k => let x := s.keys.look {} k; x.use + x.owner % 64 * 2^2
  | .graph j => (s.job j).graphStatus
  | .frameGroup g => if s.groupLinear.look false g then 1 else 0
  | .barrier b n => bitsAt (s.barrier b).bits (64 * n) 64
  | .weightRoot r n => bitsAt (s.root r).bits (64 * n) 64
  | .queue q n => bitsAt (s.queue q).bits (64 * n) 64
  | .window d j => (s.windows.look 0 (d * 64 + j)).toNat
  | .quota d j => let q := s.quota d j; q.1 % 2^20 + q.2 % 2^20 * 2^20
  | .perf d c n => let p : Perf := s.perf.look {} (d * 8 + c); if n = 0 then p.control.toNat else p.value.toNat
  | .allocator p => let x := s.panel p; x.state % 8 + x.job % 64 * 2^3 + x.lead % 128 * 2^9
  | .snapshot => s.snapNumber.toNat
  | .shadow r => s.shadow.word r
  | .counters j n => (s.job j).counters.word n
  | .packageGroup => s.packageGroup
  | .packageIndex => s.packageIndex
  | .power => s.power
  | .dieTemperature d => s.dieTemps.look 0 d
  | .stackTemperature k => s.stackTemps.look 0 k

/-- R383, R184: a register that a region controller of a die holds, its numbers counted within the die; a bridle behind those of the die's elements is that of
a link ingress. Every other register stands elsewhere. -/
def onDie (d : Nat) : Config.DevReg → Config.DevReg
  | .command p => .command (128 * d + p % 128)
  | .status p => .status (128 * d + p % 128)
  | .seqFault p n => .seqFault (128 * d + p % 128) n
  | .stall p n => .stall (128 * d + p % 128) n
  | .elemFault e => .elemFault (8192 * d + e % 8192)
  | .portFault e n => .portFault (8192 * d + e % 8192) n
  | .bridle e n => .bridle (if e < 8192 then 8192 * d + e else outside + (e - 8192)) n
  | .loops e p n => .loops (8192 * d + e % 8192) p n
  | .queueEntry e i n => .queueEntry (8192 * d + e % 8192) i n
  | .doneIn e i => .doneIn (8192 * d + e % 8192) i
  | .barrier b n => .barrier (128 * d + b % 128) n
  | .weightRoot r n => .weightRoot (256 * d + r % 256) n
  | .queue q n => .queue (256 * d + q % 256) n
  | .window _ j => .window d j
  | .quota _ j => .quota d j
  | .perf _ c n => .perf d c n
  | .allocator p => .allocator (128 * d + p % 128)
  | .snapshot => .snapshot
  | .shadow r => .shadow r
  | _ => .none

/-- R383: a register that the I/O die holds. -/
def onIo (r : Config.DevReg) : Config.DevReg :=
  match r with
  | .root _ => r
  | .cancel => r
  | .template _ _ => r
  | .key _ => r
  | .graph _ => r
  | .frameGroup _ => r
  | .counters _ _ => r
  | _ => .none

/-- R383, R389, R396: a management register. -/
def managed (r : Config.DevReg) : Config.DevReg :=
  match r with
  | .packageGroup => r
  | .packageIndex => r
  | .power => r
  | .dieTemperature _ => r
  | .stackTemperature _ => r
  | _ => .none

/-- R383: the register at an offset of the PF's register windows: the management registers, the region controllers of the dies, the I/O die. -/
def devAt (o : Nat) : Config.DevReg :=
  if 0x1000 ≤ o ∧ o < 0x2000 then managed (Config.managePlace (o - 0x1000))
  else if 0x100000 ≤ o ∧ o < 0x200000 then onDie ((o - 0x100000) / 0x40000) (Config.regionPlace ((o - 0x100000) % 0x40000))
  else if 0x200000 ≤ o ∧ o < 0x300000 then onIo (Config.ioPlace (o - 0x200000))
  else .none
/-- R393: a word of a tooling ring control. -/
def ToolRing.word (r : ToolRing) : Config.ToolReg → Option Nat
  | .none => none | .base => some r.base | .entries => some r.entries | .head => some r.head | .tail => some r.tail

/-- R393: a tooling ring control with a word written by the host; the head is the unit's. -/
def ToolRing.write (v : Nat) (r : ToolRing) : Config.ToolReg → ToolRing
  | .base => { r with base := v } | .entries => { r with entries := v } | .tail => { r with tail := v } | .head => r | .none => r

/-- R383: the register window of a function as the host reads it. -/
def State.windowRead (s : State) (fn o : Nat) : Word :=
  if fn = 0 then
    if o = 0 then BitVec.ofNat 64 s.cap.bits
    else if o = 8 then BitVec.ofNat 64 (s.cap.bits / 2^64)
    else if (0x1000 ≤ o ∧ o < 0x2000) ∨ (0x100000 ≤ o ∧ o < 0x300000) then
      match devAt o with
      | .none => Config.registerRead 0 o
      | r => BitVec.ofNat 64 (s.devRead r)
    else BitVec.allOnes 64
  else if 16 < fn then BitVec.allOnes 64
  else if o < 0x100 then
    let m : Mailbox := s.boxes.look {} ((fn - 1) * 16 + o / 16)
    if o % 16 < 8 then m.low else m.high
  else if o < 0x180 then
    let r : RingCtl := s.rings.look {} ((fn - 1) * 16 + (o - 0x100) / 8)
    r.word
  else if 0x200 ≤ o ∧ o < 0x300 then
    match (s.toolRings.look {} (fn - 1)).word (Config.toolPlace o) with
    | some v => BitVec.ofNat 64 v
    | none => Config.registerRead fn o
  else BitVec.allOnes 64

/-- R191: a write of a region's command register; a code that R191 does not list has no effect. -/
def State.regionCommand (k : Nat) (code : Nat) (s : State) : Out :=
  let s1 : State := { s with site := { strand := k } }
  match code with
  | 1 => execRetry s1
  | 2 => execResume s1
  | 3 => execFreeze s1
  | 4 => execCancel s1
  | _ => .next s

/-- R367: a write of the cancel register. -/
def State.cancelWrite (v : Nat) (s : State) : Out :=
  let j := bitsAt v 3 6
  match bitsAt v 0 3 with
  | 2 => execCancelLaunch j (bitsAt v 9 12) s
  | 3 => execCancelGraph j s
  | 4 => execCancelPhase j s
  | 5 => execCancelJob j s
  | _ => .next s

/-- R383, R184: a write of a register of the PF's windows; what system software does not change is not changed. -/
def State.devWrite (r : Config.DevReg) (v : Word) (s : State) : Out :=
  let n := v.toNat
  let at_ (p : Nat) (f : Nat → Out) : Out := match s.strandOn p with | some k => f k | none => .next s
  match r with
  | .command p => at_ p (fun k => s.regionCommand k n)
  | .stall p 0 => at_ p (fun k => execRegisterWrite (.stallControl k) (BitVec.ofNat 512 n) s)
  | .stall p 1 => at_ p (fun k => execRegisterWrite (.mapAddress k) (BitVec.ofNat 512 n) s)
  | .bridle e 0 => execBridleControlWrite e v s
  | .root j => execRegisterWrite (.translationRoot j) (BitVec.ofNat 512 n) s
  | .cancel => s.cancelWrite n
  | .template t 2 => execRegisterWrite (.templateOwner t) (BitVec.ofNat 512 (bitsAt n 32 7)) s
  | .frameGroup g => execFrameGroupModeWrite g (bitsAt n 0 1 == 1) s
  | .window d j => execChipWindowWrite d j v s
  | .quota d j => execRegisterWrite (.lockQuota d j) (BitVec.ofNat 512 n) s
  | .perf d c 0 => execRegisterWrite (.perfControl d c) (BitVec.ofNat 512 n) s
  | .perf d c 1 => execRegisterWrite (.perfValue d c) (BitVec.ofNat 512 n) s
  | .packageGroup => execRegisterWrite .packageGroup (BitVec.ofNat 512 n) s
  | .packageIndex => execRegisterWrite .packageIndex (BitVec.ofNat 512 n) s
  | _ => .next s

/-- R383, R393: whether the host may reach eight bytes of device memory. -/
def State.hostReaches (s : State) (fn a : Nat) : Bool :=
  decide (fn ≤ 16) && s.populated a && (fn == 0 || s.grants.look false ((fn - 1) * 2^36 + a / 65536))

/-- R313, R312: a request of the host, which reads and writes at the home, in plaintext (R355). -/
def State.hostReq (s : State) (a : Nat) (kind : ReqKind) (data : Nat) : Req :=
  { id := s.fresh, agent := .host, kind, home := a, data := BitVec.ofNat 512 data, regionKind := 3, policy := 2, dest := .host }

/-- R313: a request joins the host's issue queue; under `prompt` one that nothing holds is performed at once (log 2). -/
def State.hostIssue (r : Req) (s : State) : State :=
  if s.prompt then
    match s.performNow r with
    | (s1, .value v) => if r.writes then s1 else s1.answer r v
    | (_, _) => s.issue r
  else s.issue r

/-- R383, R393, R312, R313: a host access of eight bytes, whose address is a multiple of 8 (log 106). Outside the windows, or where the function
has no right, a read gives all ones and a write is discarded; a read of an egress-marked page gives all ones. -/
def execHostWindowAccess (acc : WindowAccess) (s : State) : Out :=
  let ones : State := { s with hostAnswer := BitVec.allOnes 64 }
  if !s.answers then .next (if acc.write.isNone then ones else s)
  else if acc.window = 0 then
    match acc.write with
    | none => .next { s with hostAnswer := s.windowRead acc.fn acc.offset }
    | some v =>
      if 16 < acc.fn then .next s
      else if acc.fn = 0 then
        if (0x1000 ≤ acc.offset ∧ acc.offset < 0x2000) ∨ (0x100000 ≤ acc.offset ∧ acc.offset < 0x300000) then s.devWrite (devAt acc.offset) v else .next s
      else if acc.offset < 0x100 then
        if acc.offset % 16 < 8 then execMailboxWrite (acc.fn - 1) (acc.offset / 16) v s else .next s
      else if acc.offset < 0x180 then execEventRingControlWrite (acc.fn - 1) ((acc.offset - 0x100) / 8) v s
      else if 0x200 ≤ acc.offset ∧ acc.offset < 0x300 then
        .next { s with toolRings := s.toolRings.put (acc.fn - 1) ((s.toolRings.look {} (acc.fn - 1)).write v.toNat (Config.toolPlace acc.offset)) }
      else .next s
  else if acc.window = 2 then
    let a := acc.offset / 8 * 8
    if !(s.hostReaches acc.fn a) then .next (if acc.write.isNone then ones else s)
    else
      match acc.write with
      | none => if inRanges s.marked a then .next ones else .next (s.hostIssue (s.hostReq a .read 0))
      | some v => .next (s.hostIssue (s.hostReq a .write v.toNat))
  else .next (if acc.write.isNone then ones else s)

end Sys2Proof.Machine
end

