-- ==== Sys2Proof/Machine/Tooling.lean ====
section
/-!
DEFINITION. The tooling unit: AES-128-CTR, the exact 8×8 DCT mark, and one descriptor (R393, R394).
-/

namespace Sys2Proof.Machine

/-- R394: byte k of the keystream of a frame. -/
def keystream (key frame job k : Nat) : Nat :=
  (aes128 (bytesDown key) (bytesDown (frame * 2^64 + job % 64 * 2^58 + k / 16))).getD (k % 16) 0

-- the DCT mark ------------------------------------------------------------------------------------

/-- 2·cos(kπ/16) for k = 1-7 in units of 2^-256, from nested square roots of 2. -/
def theta (k : Nat) : Nat :=
  let one := 2^256
  let r2 := isqrtFrom (2 * one * one) 260 0
  let t2 := isqrtFrom ((2 * one + r2) * one) 260 0
  let t6 := isqrtFrom ((2 * one - r2) * one) 260 0
  match k with
  | 4 => r2
  | 2 => t2
  | 6 => t6
  | 1 => isqrtFrom ((2 * one + t2) * one) 260 0
  | 7 => isqrtFrom ((2 * one - t2) * one) 260 0
  | 3 => isqrtFrom ((2 * one + t6) * one) 260 0
  | _ => isqrtFrom ((2 * one - t6) * one) 260 0

/-- 2·cos(mπ/16) over the basis 1, 2·cos(π/16), …, 2·cos(7π/16): the place and the coefficient. -/
def cosTerm (m : Int) : Nat × Int :=
  let a := m.natAbs % 32
  let b := if 16 < a then 32 - a else a
  if b = 0 then (0, 2) else if b = 8 then (0, 0) else if b = 16 then (0, -2)
  else if b < 8 then (b, 1) else (16 - b, -1)

/-- R394: the coefficients marked, (u, v) with u + v = 4 or 5. -/
def marks : List (Nat × Nat) := (List.range 5).map (fun u => (u, 4 - u)) ++ (List.range 6).map (fun u => (u, 5 - u))

/-- The terms of 64/α times what ± α/4 on a coefficient adds to pixel (x, y), for an orthonormal DCT-II. -/
def markTerms (u v x y : Nat) (plus : Bool) : List (Nat × Int) :=
  let a : Int := if u = 0 then 4 else ((2 * x + 1) * u : Nat)
  let b : Int := if v = 0 then 4 else ((2 * y + 1) * v : Nat)
  [cosTerm (a + b), cosTerm (a - b)].map (fun t => (t.1, if plus then t.2 else -t.2))

/-- R394: pixel + (α/64) × the sum of terms, rounded to nearest with ties to even. The sum is rational exactly when every
irrational basis coefficient is zero; otherwise 256 bits decide. -/
def markPixel (p alpha : Nat) (terms : List (Nat × Int)) : Int :=
  let coef (k : Nat) : Int := ((terms.filter (fun t => t.1 == k)).map (·.2)).sum
  let whole : Int := 64 * (p : Int) + (alpha : Int) * coef 0
  if (List.range 7).all (fun k => coef (k + 1) == 0) then
    let q := whole / 64
    let r := whole % 64
    if r < 32 then q else if 32 < r then q + 1 else if q % 2 = 0 then q else q + 1
  else
    let one : Int := ((2^256 : Nat) : Int)
    let v := whole * one + (alpha : Int) * ((List.range 7).map (fun k => coef (k + 1) * (theta (k + 1) : Int))).sum
    (v + 32 * one) / (64 * one)

/-- A number clamped to 0 to hi. -/
def clampTo (hi : Nat) (v : Int) : Nat := if v < 0 then 0 else Nat.min hi v.toNat

/-- R394: the pixels of luma block n marked, (x, y) within the block given by `pix`. -/
def markBlock (key frame job payload alpha hi n : Nat) (pix : Nat → Nat → Nat) : List Nat :=
  let plus (j : Nat) : Bool :=
    let k := 11 * n + j
    bitsAt (keystream key frame job (k / 8)) (k % 8) 1 == bitsAt payload (n % 64) 1
  let js := (List.range 11).zip marks
  (List.range 64).map (fun i =>
    let x := i % 8
    let y := i / 8
    clampTo hi (markPixel (pix x y) alpha (js.flatMap (fun m => markTerms m.2.1 m.2.2 x y (plus m.1)))))

-- a descriptor ------------------------------------------------------------------------------------

/-- R393: a descriptor's fields. -/
structure ToolDesc where
  src : Nat
  dst : Nat
  width : Nat
  height : Nat
  pitch : Nat
  format : Nat
  alpha : Nat
  key : Nat
  job : Nat
  payload : Nat
  deriving DecidableEq, Repr

/-- R393: the 64 bytes of a descriptor. -/
def toolDesc (v : Nat) : ToolDesc :=
  let b (i n : Nat) : Nat := bitsAt v (8 * i) (8 * n)
  { src := b 0 8, dst := b 8 8, width := b 16 2, height := b 18 2, pitch := b 20 2, format := b 22 1, alpha := b 23 1, key := b 24 2
    job := b 26 1, payload := b 32 8 }

/-- Bytes of a pixel. -/
def ToolDesc.px (d : ToolDesc) : Nat := if d.format = 0 then 1 else 2
/-- R393: the bytes of a frame: luma rows, then half as many rows of chroma. -/
def ToolDesc.bytes (d : ToolDesc) : Nat := d.pitch * (d.height + d.height / 2)

/-- Whether every page of a range of storage, or none, lies in a list of ranges. -/
def rangeAll (l : List (Nat × Nat)) (a n : Nat) : Bool :=
  allFrom (fun p => inRanges l (Nat.max a (p * 65536))) (a / 65536) ((a + n - 1) / 65536 + 1 - a / 65536)
/-- Whether some page of a range of storage lies in a list of ranges. -/
def rangeAny (l : List (Nat × Nat)) (a n : Nat) : Bool := l.any (fun r => overlaps a n r.1 r.2)

/-- R393: whether a descriptor is well formed. -/
def State.descOk (s : State) (vf : Nat) (d : ToolDesc) : Bool :=
  let m := s.marked
  d.width % 2 == 0 && d.height % 2 == 0 && decide (16 ≤ d.width) && decide (d.width ≤ 8192) && decide (16 ≤ d.height) &&
  decide (d.height ≤ 8192) && decide (d.width * d.px ≤ d.pitch) && decide (d.format ≤ 1) && decide (1 ≤ d.alpha) &&
  decide (d.job < 64) && (s.job d.job).resident && (s.job d.job).vf == vf &&
  s.populated d.src && s.populated (d.src + d.bytes - 1) && s.populated d.dst && s.populated (d.dst + d.bytes - 1) &&
  rangeAll m d.src d.bytes && !(rangeAny m d.dst d.bytes)

/-- The rows of pixels of a frame copied as they stood in `s0`. -/
def State.copyRows (s0 : State) (src dst pitch n : Nat) : Nat → State → State
  | 0, s => s
  | k + 1, s =>
    let s1 := State.copyRows s0 src dst pitch n k s
    { s1 with mem := memStore s1.mem (dst + pitch * k) (memBytes s0.mem (src + pitch * k) n) }

/-- R355: the pages of a range of storage as the unit reaches them, each under the key index of a leaf that maps it, else in plaintext (log 107). -/
def State.openRange (a n : Nat) (s : State) : State :=
  let ls := s.allLeaves
  (List.range ((a + n - 1) / 65536 + 1 - a / 65536)).foldl (fun s k =>
    let p := (a / 65536 + k) * 65536
    let key := match ls.find? (fun l => decide (l.1 ≤ p) && decide (p < l.1 + l.2.1)) with
      | some l => bitsAt l.2.2 4 10
      | none => 0
    let lo := Nat.max a p
    s.underKey key lo (Nat.min (a + n) (p + 65536) - lo)) s

/-- Pixels of a luma row written. -/
def State.putPixels (px a : Nat) : List Nat → State → State
  | [], s => s
  | v :: r, s => State.putPixels px (a + px) r (s.poke a px (if px = 1 then v else v * 64))

/-- R394: luma block n of a frame marked into the output; the pixels are read from `s0`, as they stood. -/
def State.putBlock (d : ToolDesc) (key frame : Nat) (s0 : State) (n : Nat) (s : State) : State :=
  let bx := n % (d.width / 8)
  let by_ := n / (d.width / 8)
  let at_ (x y : Nat) : Nat := (by_ * 8 + y) * d.pitch + (bx * 8 + x) * d.px
  let pix (x y : Nat) : Nat :=
    let v := s0.peek (d.src + at_ x y) d.px
    if d.px = 1 then v else v / 64
  let ps := markBlock key frame d.job d.payload d.alpha (if d.px = 1 then 255 else 1023) n pix
  (List.range 8).foldl (fun s y => s.putPixels d.px (d.dst + at_ 0 y) ((ps.drop (8 * y)).take 8)) s

/-- The die points and stream buffers lose their copies of lines that the unit writes (R315 move 5). -/
def State.gatherRange (a n : Nat) (s : State) : State :=
  ((s.dieLines.filter (fun d => overlaps a n (128 * d.line) 128)).map (·.line)).foldl (fun s l => s.gather l) s

/-- R393, R394: one frame marked. -/
def State.markFrame (d : ToolDesc) (key frame : Nat) (s : State) : State :=
  let s0 := s.openRange d.src d.bytes
  let s1 := State.copyRows s0 d.src d.dst d.pitch (d.width * d.px) (d.height + d.height / 2) ((s.gatherRange d.dst d.bytes).openRange d.dst d.bytes)
  (List.range (d.width / 8 * (d.height / 8))).foldl (fun t n => State.putBlock d key frame s0 n t) s1

/-- R393, R394: the tooling unit processes the descriptor at the head of a VF's ring and writes its status; the frame counter of the
job rises. -/
def execToolingDescriptor (vf : Nat) (s : State) : Out :=
  let r : ToolRing := s.toolRings.look {} vf
  s.unheld <| if r.entries = 0 ∨ r.head = r.tail then .next s
  else
    let a := r.base + 64 * (r.head % r.entries)
    let d := toolDesc (s.peekKey 0 a 64)
    let k : KeySlot := s.keys.look {} d.key
    let frame := (s.job d.job).frame
    let status := if !(s.descOk vf d) then 1 else if k.use != 2 || k.owner != d.job then 2 else 0
    let s1 := if status = 0 then s.markFrame d (k.material.toNat % 2^128) frame.toNat else s
    let s2 := ((s1.claim (a + 40)).pokeKey 0 (a + 40) 1 status)
    let s3 := if (s2.job d.job).resident then s2.updJob d.job (fun j => { j with frame := j.frame + 1 }) else s2
    .next { s3 with toolRings := s3.toolRings.put vf { r with head := (r.head + 1) % r.entries } }

end Sys2Proof.Machine
end

