-- ==== Sys2Proof/Machine/Dispatch.lean ====
section
/-!
DEFINITION. The dispatch of a step's instruction to its meaning, one arm a constructor.
-/

namespace Sys2Proof.Machine

/-- What an instruction does when it acts at the state's site. -/
def exec (i : Instr) (s : State) : Host.Outcome State Fault Refusal :=
  match i with
  | .add d a b => Sys2Proof.Machine.execAdd d a b s
  | .sub d a b => Sys2Proof.Machine.execSub d a b s
  | .mul d a b => Sys2Proof.Machine.execMul d a b s
  | .mulh d a b => Sys2Proof.Machine.execMulh d a b s
  | .mulhu d a b => Sys2Proof.Machine.execMulhu d a b s
  | .div d a b => Sys2Proof.Machine.execDiv d a b s
  | .divu d a b => Sys2Proof.Machine.execDivu d a b s
  | .rem d a b => Sys2Proof.Machine.execRem d a b s
  | .remu d a b => Sys2Proof.Machine.execRemu d a b s
  | .and d a b => Sys2Proof.Machine.execAnd d a b s
  | .or d a b => Sys2Proof.Machine.execOr d a b s
  | .xor d a b => Sys2Proof.Machine.execXor d a b s
  | .andn d a b => Sys2Proof.Machine.execAndn d a b s
  | .shl d a b => Sys2Proof.Machine.execShl d a b s
  | .shr d a b => Sys2Proof.Machine.execShr d a b s
  | .sar d a b => Sys2Proof.Machine.execSar d a b s
  | .min d a b => Sys2Proof.Machine.execMin d a b s
  | .max d a b => Sys2Proof.Machine.execMax d a b s
  | .minu d a b => Sys2Proof.Machine.execMinu d a b s
  | .maxu d a b => Sys2Proof.Machine.execMaxu d a b s
  | .slt d a b => Sys2Proof.Machine.execSlt d a b s
  | .sltu d a b => Sys2Proof.Machine.execSltu d a b s
  | .seq d a b => Sys2Proof.Machine.execSeq d a b s
  | .clz d a => Sys2Proof.Machine.execClz d a s
  | .ctz d a => Sys2Proof.Machine.execCtz d a s
  | .popc d a => Sys2Proof.Machine.execPopc d a s
  | .amadd d a b => Sys2Proof.Machine.execAmadd d a b s
  | .amswp d a b => Sys2Proof.Machine.execAmswp d a b s
  | .amcas d a b => Sys2Proof.Machine.execAmcas d a b s
  | .ammax d a b => Sys2Proof.Machine.execAmmax d a b s
  | .cfgld a => Sys2Proof.Machine.execCfgld a s
  | .qpush a b => Sys2Proof.Machine.execQpush a b s
  | .qpushWt a b => Sys2Proof.Machine.execQpushWt a b s
  | .qpop d a => Sys2Proof.Machine.execQpop d a s
  | .qtry d a => Sys2Proof.Machine.execQtry d a s
  | .spawn a b => Sys2Proof.Machine.execSpawn a b s
  | .qroot d => Sys2Proof.Machine.execQroot d s
  | .wret a => Sys2Proof.Machine.execWret a s
  | .waitq a => Sys2Proof.Machine.execWaitq a s
  | .qchk d a => Sys2Proof.Machine.execQchk d a s
  | .bari a b => Sys2Proof.Machine.execBari a b s
  | .bara a => Sys2Proof.Machine.execBara a s
  | .barx a b => Sys2Proof.Machine.execBarx a b s
  | .barw a => Sys2Proof.Machine.execBarw a s
  | .fence scope => Sys2Proof.Machine.execFence scope s
  | .trap a => Sys2Proof.Machine.execTrap a s
  | .jr a => Sys2Proof.Machine.execJr a s
  | .addi d a imm => Sys2Proof.Machine.execAddi d a imm s
  | .andi d a imm => Sys2Proof.Machine.execAndi d a imm s
  | .ori d a imm => Sys2Proof.Machine.execOri d a imm s
  | .xori d a imm => Sys2Proof.Machine.execXori d a imm s
  | .shli d a sh => Sys2Proof.Machine.execShli d a sh s
  | .shri d a sh => Sys2Proof.Machine.execShri d a sh s
  | .sari d a sh => Sys2Proof.Machine.execSari d a sh s
  | .slti d a imm => Sys2Proof.Machine.execSlti d a imm s
  | .lih d q imm => Sys2Proof.Machine.execLih d q imm s
  | .bfx d a pos widthM1 => Sys2Proof.Machine.execBfx d a pos widthM1 s
  | .bfxu d a pos widthM1 => Sys2Proof.Machine.execBfxu d a pos widthM1 s
  | .bfi d a pos widthM1 => Sys2Proof.Machine.execBfi d a pos widthM1 s
  | .mfs d r => Sys2Proof.Machine.execMfs d r s
  | .mts r a => Sys2Proof.Machine.execMts r a s
  | .waitk mask => Sys2Proof.Machine.execWaitk mask s
  | .ldb d a off => Sys2Proof.Machine.execLdb d a off s
  | .ldh d a off => Sys2Proof.Machine.execLdh d a off s
  | .ldw d a off => Sys2Proof.Machine.execLdw d a off s
  | .ldd d a off => Sys2Proof.Machine.execLdd d a off s
  | .stb v a off => Sys2Proof.Machine.execStb v a off s
  | .sth v a off => Sys2Proof.Machine.execSth v a off s
  | .stw v a off => Sys2Proof.Machine.execStw v a off s
  | .std v a off => Sys2Proof.Machine.execStd v a off s
  | .ldp d a off => Sys2Proof.Machine.execLdp d a off s
  | .stp v a off => Sys2Proof.Machine.execStp v a off s
  | .clrp a off => Sys2Proof.Machine.execClrp a off s
  | .beq a b off => Sys2Proof.Machine.execBeq a b off s
  | .bne a b off => Sys2Proof.Machine.execBne a b off s
  | .blt a b off => Sys2Proof.Machine.execBlt a b off s
  | .bge a b off => Sys2Proof.Machine.execBge a b off s
  | .bltu a b off => Sys2Proof.Machine.execBltu a b off s
  | .bgeu a b off => Sys2Proof.Machine.execBgeu a b off s
  | .loopd n off => Sys2Proof.Machine.execLoopd n off s
  | .jmp off => Sys2Proof.Machine.execJmp off s
  | .jal off => Sys2Proof.Machine.execJal off s
  | .cmd c => Sys2Proof.Machine.execCmd c s
  | .cmdnb c => Sys2Proof.Machine.execCmdnb c s
  | .fadd sl => Sys2Proof.Machine.execFadd sl s
  | .fsub sl => Sys2Proof.Machine.execFsub sl s
  | .fmul sl => Sys2Proof.Machine.execFmul sl s
  | .ffma sl => Sys2Proof.Machine.execFfma sl s
  | .fmin sl => Sys2Proof.Machine.execFmin sl s
  | .fmax sl => Sys2Proof.Machine.execFmax sl s
  | .fcmp sl => Sys2Proof.Machine.execFcmp sl s
  | .frnd sl => Sys2Proof.Machine.execFrnd sl s
  | .fexpx sl => Sys2Proof.Machine.execFexpx sl s
  | .fexpi sl => Sys2Proof.Machine.execFexpi sl s
  | .fexp2f sl => Sys2Proof.Machine.execFexp2f sl s
  | .frcp sl => Sys2Proof.Machine.execFrcp sl s
  | .frsq sl => Sys2Proof.Machine.execFrsq sl s
  | .fclas sl => Sys2Proof.Machine.execFclas sl s
  | .iadd sl => Sys2Proof.Machine.execIadd sl s
  | .isub sl => Sys2Proof.Machine.execIsub sl s
  | .imul sl => Sys2Proof.Machine.execImul sl s
  | .imad sl => Sys2Proof.Machine.execImad sl s
  | .imin sl => Sys2Proof.Machine.execImin sl s
  | .imax sl => Sys2Proof.Machine.execImax sl s
  | .iand sl => Sys2Proof.Machine.execIand sl s
  | .ior sl => Sys2Proof.Machine.execIor sl s
  | .ixor sl => Sys2Proof.Machine.execIxor sl s
  | .ishl sl => Sys2Proof.Machine.execIshl sl s
  | .ishr sl => Sys2Proof.Machine.execIshr sl s
  | .isar sl => Sys2Proof.Machine.execIsar sl s
  | .icmp sl => Sys2Proof.Machine.execIcmp sl s
  | .iclz sl => Sys2Proof.Machine.execIclz sl s
  | .ipopc sl => Sys2Proof.Machine.execIpopc sl s
  | .isel sl => Sys2Proof.Machine.execIsel sl s
  | .cvt sl => Sys2Proof.Machine.execCvt sl s
  | .qnt4 sl => Sys2Proof.Machine.execQnt4 sl s
  | .dqn4 sl => Sys2Proof.Machine.execDqn4 sl s
  | .bfly sl => Sys2Proof.Machine.execBfly sl s
  | .rsum sl => Sys2Proof.Machine.execRsum sl s
  | .rmax sl => Sys2Proof.Machine.execRmax sl s
  | .rmin sl => Sys2Proof.Machine.execRmin sl s
  | .scan sl => Sys2Proof.Machine.execScan sl s
  | .intsc sl => Sys2Proof.Machine.execIntsc sl s
  | .union sl => Sys2Proof.Machine.execUnion sl s
  | .filt sl => Sys2Proof.Machine.execFilt sl s
  | .stopg sl => Sys2Proof.Machine.execStopg sl s
  | .stopx sl => Sys2Proof.Machine.execStopx sl s
  | .cnt sl => Sys2Proof.Machine.execCnt sl s
  | .route sl => Sys2Proof.Machine.execRoute sl s
  | .mux sl => Sys2Proof.Machine.execMux sl s
  | .dup sl => Sys2Proof.Machine.execDup sl s
  | .hold sl => Sys2Proof.Machine.execHold sl s
  | .accu sl => Sys2Proof.Machine.execAccu sl s
  | .drn sl => Sys2Proof.Machine.execDrn sl s
  | .tldi sl => Sys2Proof.Machine.execTldi sl s
  | .trd sl => Sys2Proof.Machine.execTrd sl s
  | .ttr sl => Sys2Proof.Machine.execTtr sl s
  | .xpnd sl => Sys2Proof.Machine.execXpnd sl s
  | .mma sl => Sys2Proof.Machine.execMma sl s
  | .mmas sl => Sys2Proof.Machine.execMmas sl s
  | .mmz sl => Sys2Proof.Machine.execMmz sl s
  | .mrd sl => Sys2Proof.Machine.execMrd sl s
  | .mscl sl => Sys2Proof.Machine.execMscl sl s
  | .const sl => Sys2Proof.Machine.execConst sl s
  | .iter sl => Sys2Proof.Machine.execIter sl s
  | .sink sl => Sys2Proof.Machine.execSink sl s
  | .xlt sl => Sys2Proof.Machine.execXlt sl s
  | .channelDelivery elem entry => Sys2Proof.Machine.execChannelDelivery elem entry s
  | .sld1 c => Sys2Proof.Machine.execSld1 c s
  | .sld2 c => Sys2Proof.Machine.execSld2 c s
  | .sld3 c => Sys2Proof.Machine.execSld3 c s
  | .sst1 c => Sys2Proof.Machine.execSst1 c s
  | .sst2 c => Sys2Proof.Machine.execSst2 c s
  | .sst3 c => Sys2Proof.Machine.execSst3 c s
  | .gath c => Sys2Proof.Machine.execGath c s
  | .scat c => Sys2Proof.Machine.execScat c s
  | .scad c => Sys2Proof.Machine.execScad c s
  | .bmld c => Sys2Proof.Machine.execBmld c s
  | .blkx c => Sys2Proof.Machine.execBlkx c s
  | .copy c => Sys2Proof.Machine.execCopy c s
  | .cpms c => Sys2Proof.Machine.execCpms c s
  | .cpsm c => Sys2Proof.Machine.execCpsm c s
  | .cpss c => Sys2Proof.Machine.execCpss c s
  | .tarm c => Sys2Proof.Machine.execTarm c s
  | .tdis c => Sys2Proof.Machine.execTdis c s
  | .tfir c => Sys2Proof.Machine.execTfir c s
  | .amos c => Sys2Proof.Machine.execAmos c s
  | .tfil c => Sys2Proof.Machine.execTfil c s
  | .tdrn c => Sys2Proof.Machine.execTdrn c s
  | .pref c => Sys2Proof.Machine.execPref c s
  | .lock c => Sys2Proof.Machine.execLock c s
  | .unlk c => Sys2Proof.Machine.execUnlk c s
  | .flsh c => Sys2Proof.Machine.execFlsh c s
  | .xinv c => Sys2Proof.Machine.execXinv c s
  | .xpre c => Sys2Proof.Machine.execXpre c s
  | .fnew c => Sys2Proof.Machine.execFnew c s
  | .fmrg c => Sys2Proof.Machine.execFmrg c s
  | .fmrgPort c => Sys2Proof.Machine.execFmrgPort c s
  | .fscn c => Sys2Proof.Machine.execFscn c s
  | .fprb c => Sys2Proof.Machine.execFprb c s
  | .ftop c => Sys2Proof.Machine.execFtop c s
  | .fcnt c => Sys2Proof.Machine.execFcnt c s
  | .fclr c => Sys2Proof.Machine.execFclr c s
  | .ffre c => Sys2Proof.Machine.execFfre c s
  | .voxl c => Sys2Proof.Machine.execVoxl c s
  | .bkld c => Sys2Proof.Machine.execBkld c s
  | .bkrn c => Sys2Proof.Machine.execBkrn c s
  | .bkrl c => Sys2Proof.Machine.execBkrl c s
  | .cbld c => Sys2Proof.Machine.execCbld c s
  | .brow row => Sys2Proof.Machine.execBrow row s
  | .bldk v => Sys2Proof.Machine.execBldk v s
  | .bldm v => Sys2Proof.Machine.execBldm v s
  | .btt a b c out table => Sys2Proof.Machine.execBtt a b c out table s
  | .bshf n => Sys2Proof.Machine.execBshf n s
  | .eventRecordPost job => Sys2Proof.Machine.execEventRecordPost job s
  | .eventRingControlWrite vf box v => Sys2Proof.Machine.execEventRingControlWrite vf box v s
  | .cancelLaunch job node => Sys2Proof.Machine.execCancelLaunch job node s
  | .cancelGraph job => Sys2Proof.Machine.execCancelGraph job s
  | .cancelPhase job => Sys2Proof.Machine.execCancelPhase job s
  | .cancelJob job => Sys2Proof.Machine.execCancelJob job s
  | .mailboxWrite vf box v => Sys2Proof.Machine.execMailboxWrite vf box v s
  | .jobResidency vf box => Sys2Proof.Machine.execJobResidency vf box s
  | .priorityAging job => Sys2Proof.Machine.execPriorityAging job s
  | .allocatorPlacement act => Sys2Proof.Machine.execAllocatorPlacement act s
  | .preemptionRequest job => Sys2Proof.Machine.execPreemptionRequest job s
  | .stepDeadlineExpiry job => Sys2Proof.Machine.execStepDeadlineExpiry job s
  | .contextRestore job index die => Sys2Proof.Machine.execContextRestore job index die s
  | .graphLaunchNode job => Sys2Proof.Machine.execGraphLaunchNode job s
  | .graphConditionalNode job => Sys2Proof.Machine.execGraphConditionalNode job s
  | .graphLoopNode job => Sys2Proof.Machine.execGraphLoopNode job s
  | .graphEndNode job => Sys2Proof.Machine.execGraphEndNode job s
  | .phaseCompletion job => Sys2Proof.Machine.execPhaseCompletion job s
  | .edgeBufferFree job edge => Sys2Proof.Machine.execEdgeBufferFree job edge s
  | .panelZeroing panel => Sys2Proof.Machine.execPanelZeroing panel s
  | .chunkRelease unit => Sys2Proof.Machine.execChunkRelease unit s
  | .templateFiring t => Sys2Proof.Machine.execTemplateFiring t s
  | .templateDonePush t => Sys2Proof.Machine.execTemplateDonePush t s
  | .depart req => Sys2Proof.Machine.execDepart req s
  | .reachDiePoint req => Sys2Proof.Machine.execReachDiePoint req s
  | .sendHome what => Sys2Proof.Machine.execSendHome what s
  | .serialise req => Sys2Proof.Machine.execSerialise req s
  | .read req => Sys2Proof.Machine.execRead req s
  | .drop what => Sys2Proof.Machine.execDrop what s
  | .defer req => Sys2Proof.Machine.execDefer req s
  | .deferredReadResend req => Sys2Proof.Machine.execDeferredReadResend req s
  | .merge unit => Sys2Proof.Machine.execMerge unit s
  | .bridleControlWrite age v => Sys2Proof.Machine.execBridleControlWrite age v s
  | .powerLimitWrite age p => Sys2Proof.Machine.execPowerLimitWrite age p s
  | .linkDown link => Sys2Proof.Machine.execLinkDown link s
  | .flitReplay link => Sys2Proof.Machine.execFlitReplay link s
  | .packageReset flash => Sys2Proof.Machine.execPackageReset flash s
  | .recoveryImage image => Sys2Proof.Machine.execRecoveryImage image s
  | .spdmRequest req => Sys2Proof.Machine.execSpdmRequest req s
  | .functionLevelReset fn => Sys2Proof.Machine.execFunctionLevelReset fn s
  | .hostWindowAccess acc => Sys2Proof.Machine.execHostWindowAccess acc s
  | .keySlotWrite k => Sys2Proof.Machine.execKeySlotWrite k s
  | .toolingDescriptor vf => Sys2Proof.Machine.execToolingDescriptor vf s
  | .chipWindowWrite die slot v => Sys2Proof.Machine.execChipWindowWrite die slot v s
  | .frameGroupModeWrite group linear => Sys2Proof.Machine.execFrameGroupModeWrite group linear s
  | .registerWrite r v => Sys2Proof.Machine.execRegisterWrite r v s
  | .illegalInstruction w => Sys2Proof.Machine.execIllegalInstruction w s
  | .commandDecodeFault raw => Sys2Proof.Machine.execCommandDecodeFault raw s
  | .jobLeavingResidency job => Sys2Proof.Machine.execJobLeavingResidency job s
  | .cfggo => Sys2Proof.Machine.execCfggo s
  | .cfgnx => Sys2Proof.Machine.execCfgnx s
  | .cfgwt => Sys2Proof.Machine.execCfgwt s
  | .yield => Sys2Proof.Machine.execYield s
  | .snap => Sys2Proof.Machine.execSnap s
  | .halt => Sys2Proof.Machine.execHalt s
  | .nop => Sys2Proof.Machine.execNop s
  | .tileExchange => Sys2Proof.Machine.execTileExchange s
  | .fretSwap => Sys2Proof.Machine.execFretSwap s
  | .commandCompletion => Sys2Proof.Machine.execCommandCompletion s
  | .spillDrainAttempt => Sys2Proof.Machine.execSpillDrainAttempt s
  | .brel => Sys2Proof.Machine.execBrel s
  | .bcmp => Sys2Proof.Machine.execBcmp s
  | .bcmpa => Sys2Proof.Machine.execBcmpa s
  | .bcmpo => Sys2Proof.Machine.execBcmpo s
  | .bwr => Sys2Proof.Machine.execBwr s
  | .btset => Sys2Proof.Machine.execBtset s
  | .btclr => Sys2Proof.Machine.execBtclr s
  | .btnot => Sys2Proof.Machine.execBtnot s
  | .bcnt => Sys2Proof.Machine.execBcnt s
  | .bfst => Sys2Proof.Machine.execBfst s
  | .bend => Sys2Proof.Machine.execBend s
  | .refresh => Sys2Proof.Machine.execRefresh s
  | .retry => Sys2Proof.Machine.execRetry s
  | .resume => Sys2Proof.Machine.execResume s
  | .freeze => Sys2Proof.Machine.execFreeze s
  | .cancel => Sys2Proof.Machine.execCancel s
  | .regionFrozen => Sys2Proof.Machine.execRegionFrozen s
  | .hangDeclaration => Sys2Proof.Machine.execHangDeclaration s
  | .launchLoad => Sys2Proof.Machine.execLaunchLoad s
  | .preemptionHalt => Sys2Proof.Machine.execPreemptionHalt s
  | .contextSave => Sys2Proof.Machine.execContextSave s
  | .scanStep => Sys2Proof.Machine.execScanStep s
  | .bridleAdmission => Sys2Proof.Machine.execBridleAdmission s
  | .bridleWindowEnd => Sys2Proof.Machine.execBridleWindowEnd s
  | .snapshotLatch => Sys2Proof.Machine.execSnapshotLatch s
  | .snapshotExternalTrigger => Sys2Proof.Machine.execSnapshotExternalTrigger s
  | .criticalTemperature => Sys2Proof.Machine.execCriticalTemperature s
  | .hardwareTrip => Sys2Proof.Machine.execHardwareTrip s
  | .fetchFault => Sys2Proof.Machine.execFetchFault s

end Sys2Proof.Machine
end

