-- ==== Sys2Proof/Machine/Issue.lean ====
section
/-!
DEFINITION. How a part of the package takes its turn: cycles that pass (R181, R193, R379), fetch and issue of the sequencer (R39,
R46, R77, R80, R189), the element's choice among its ready slots (R28, R29, R135), the head of a command queue and the commands in
progress (R59, R223), a bank's next word (R283), and the parts that have something to do. `step` calls what stands here.
-/

namespace Sys2Proof.Machine

-- cycles pass -------------------------------------------------------------------------------------

/-- R181: the window counter of an enabled bridle counts; it stands at W until its window's end. -/
def Bridle.pass (n : Nat) (b : Bridle) : Bridle :=
  if b.enabled then { b with window := Nat.min (b.window + n) (bitsAt b.control.toNat 0 16 + 1) } else b

/-- R183, R380: a token at a port of an AGE, of a command or of a slot's firing, is held by the bridle alone. -/
def State.bridleHolds (s : State) (e : Nat) : Bool :=
  let x := s.elem e
  let held (t : Nat × Token) : Bool := x.room t.1 1 && !(x.age.bridle.admitsFrom x.age.bridle.admitted [t])
  s.regionRuns e && (x.age.ports.any held || x.age.places.any (fun p => p.2.active && !p.2.held &&
    (match p.2.outq with
     | [] => false
     | t :: _ => held t)))

/-- R379: the tokens with which an input is tried: a row, a tile and an end of stream. -/
def triedTokens : List Token := [{ rows := [0] }, { tile := true, rows := List.replicate 16 0 }, { kind := .eos }]

/-- R379: slot n of element d is not ready only because its input p is empty: with a token there, and all else as it stands, it would be. -/
def State.lacks (s : State) (d n p : Nat) : Bool :=
  ((s.elem d).chan p).isEmpty && !s.slotReady d n &&
  triedTokens.any (fun t => (s.updElem d (fun x => { x with chans := x.chans.put p [{ tok := t }] })).slotReady d n)

/-- R379: a slot fed by an AGE's port is not ready only because that input is empty. -/
def State.starves (s : State) (e port : Nat) : Bool :=
  ((s.elem e).routesOf port).any (fun r => (List.range 4).any (fun n => s.lacks r.2.dstElem n r.2.dstPort))

/-- R379: the job and the page address of the oldest outstanding read of a place whose output starves a slot. -/
def State.starved (s : State) (e : Nat) : List (Nat × Nat) :=
  (s.elem e).age.places.filterMap (fun p =>
    if p.2.active && (cmdPorts p.2.op p.2.cmd).any (fun q => decide (8 ≤ q) && s.starves e (q - 8)) then
      (s.reqs.find? (fun r => r.agent == .place e p.1 && !r.writes && r.virt)).map (fun r => (r.job, r.va))
    else none)

/-- R379: starved cycles counted; a count that saturates is logged, and the entry's counts begin again. -/
def State.heatStarve (e job va n : Nat) (s : State) : State :=
  match (s.elem e).age.heat.find? (fun x => x.mine job va) with
  | none => s
  | some x =>
    let most := 2^32 - 1
    let total := x.starved.toNat + n
    let logs := (total - 1) / most
    let x1 : Heat := { x with delivered := if logs = 0 then x.delivered else 0, starved := BitVec.ofNat 32 (total - logs * most) }
    let s1 := (List.range logs).foldl (fun s k => s.heatLog { x with delivered := if k = 0 then x.delivered else 0, starved := BitVec.ofNat 32 most }) s
    s1.updAge e (fun a => { a with heat := a.heat.map (fun y => if y.mine job va then x1 else y) })

/-- Whether cycles change an element: its AGE has a heat entry or an enabled bridle. -/
def Elem.counts (x : Elem) : Bool := !x.age.heat.isEmpty || x.age.bridle.enabled

/-- R181, R379, R380: n cycles pass at an AGE. -/
def State.passElem (n e : Nat) (s : State) : State :=
  let s1 := (s.starved e).foldl (fun s x => s.heatStarve e x.1 x.2 n) s
  let s2 := if s.bridleHolds e then
      s1.countPerf (dieOf (panelOf e)) 4 (s.strand (s.strandOf e)).job n
    else s1
  s2.updAge e (fun a => { a with bridle := a.bridle.pass n })

/-- R181, R380: n cycles pass at the ingress of every link virtual channel. -/
def State.passCuts (n : Nat) (s : State) : State :=
  let held := s.elems.flatMap (fun e => e.2.routes.filterMap (fun r => if s.ingressHeld r.2 then some r.2.dstElem else none))
  let s1 := held.foldl (fun s e => s.countPerf (dieOf (panelOf e)) 4 (s.strand (s.strandOf e)).job n) s
  { s1 with cuts := s1.cuts.map (fun (c : Nat × Cut) => (c.1, { c.2 with bridle := c.2.bridle.pass n })) }

/-- R220: a synchronising read that found the deferral table full, or waits to be sent again. -/
def Req.resends (r : Req) : Bool := r.kind == .syncRead && (r.stage == .departed || r.stage == .home)

/-- R194: a memory request of a bank run or of a stitch unit that serves an AGE of a list. -/
def State.unitServes (s : State) (es : List Nat) : Bool :=
  s.banks.any (fun b => b.2.cause == 0 && (match b.2.running with | some r => es.contains r.age | none => false)) ||
  s.stitches.any (fun u => u.2.queue.any (fun o => es.contains o.age))

/-- R183, R194, R220, R310: activity that lasts: a token held by a bridle alone, at a port or at a link's ingress, or a memory request in
service. A deferred read is none, and neither are its resends. -/
def State.inService (s : State) (k : Nat) : Bool :=
  let ps := (s.strand k).panels
  s.elems.any (fun e => (e.2.age.bridle.enabled && ps.contains (panelOf e.1) && s.bridleHolds e.1) ||
    e.2.routes.any (fun r => r.2.link.isSome && ps.contains (panelOf r.2.dstElem) && s.ingressHeld r.2)) ||
  s.reqs.any (fun r => r.stage != .deferred && !r.resends && r.agent.ofStrand k (s.strand k).elems) ||
  s.unitServes (s.strand k).elems

/-- R193, R380: n cycles pass at the stall watch of a strand's region. -/
def State.passStrand (n k : Nat) (s : State) : State :=
  let t := s.strand k
  if !t.onFabric then s
  else if !(s.holdsToken k) || s.inService k then
    (if t.quiet = 0 then s else s.updStrand k (fun t => { t with quiet := 0 }))
  else (s.updStrand k (fun t => { t with quiet := t.quiet + BitVec.ofNat 32 n })).countPerf (dieOf t.lead) 10 t.job n

/-- n fabric cycles pass (log 3). -/
def State.elapse (n : Nat) (s : State) : State :=
  let s1 := ((s.elems.filter (fun e => e.2.counts)).map (·.1)).foldl (fun s e => s.passElem n e) s
  let s2 := (s1.strands.map (·.1)).foldl (fun s k => s.passStrand n k) (if s1.cuts.isEmpty then s1 else s1.passCuts n)
  { s2 with cyc := s2.cyc + BitVec.ofNat 64 n }

-- the sequencer -----------------------------------------------------------------------------------

/-- R189, R197, R188: a strand's sequencer issues while the strand and its region run and no trap stops it. -/
def Strand.issues (t : Strand) : Bool := t.run == .running && t.region.state == .running && !t.region.trap

/-- What a fetch finds. -/
inductive Fetched where
  | word (w : Nat)
  | fault
  | uncorrectable
  /-- its bank's row is held by a bank program (R286) -/
  | held
  deriving DecidableEq, Repr

/-- R39, R210: the line of a panel's stream buffer from which a fetch takes its word: not one that a `FENCE` has passed. -/
def State.fetchHit (s : State) (panel job va : Nat) : Option StreamLine := (s.streamHit panel job va).filter (fun l => !l.fenced)

/-- R39, R77, R190, R210: the word at `spt` of a strand, through the panel's stream buffer, which fetch shares with the AGEs. Where its page is to be
walked while a row is held, it waits (R327). -/
def State.fetch (s : State) (k : Nat) : Fetched :=
  let t := s.strand k
  let va := t.spt.toNat
  if s.walkWaits (.seq k) (dieOf t.lead) t.job va then .held
  else
  match s.checkVirt (.seq k) (dieOf t.lead) t.job va 4 .fetch false with
  | .error _ => .fault
  | .ok l =>
    match (if l.kind = 3 then none else s.fetchHit t.lead t.job va) with
    | some f => .word (bitsAt f.data.toNat (8 * (va % 128)) 32)
    | none =>
      if (s.bankAt (s.bankOf l.pa)).held then .held
      else if s.isBad l.pa 4 then .uncorrectable
      else if l.kind = 3 then .word (s.peekKey l.key l.pa 4)
      else .word (bitsAt ((s.underKey l.key l.pa 4).lineSeen (dieOf t.lead) (l.pa / 128)).toNat (8 * (l.pa % 128)) 32)

/-- R380: a fetch that the stream buffer does not serve, and whose sector the die point does not hold, is an L2 read miss. A word that waits has been
fetched. -/
def State.countFetch (k : Nat) (l : Leaf) (s : State) : State :=
  let t := s.strand k
  if t.waiting || (s.dieLine (dieOf t.lead) (l.pa / 128)).any (fun d => d.holds (l.pa % 128 / 64)) then s
  else s.countPerf (dieOf t.lead) 5 t.job 1

/-- R210, R334: a fetch may leave its line in the stream buffer and the die point, and its leaf in the sequencer's cache; `fill` says whether
(log 2). A line that it hits becomes the most recently used. -/
def State.fetchFill (k : Nat) (s : State) : State :=
  let t := s.strand k
  let va := t.spt.toNat
  let die := dieOf t.lead
  match s.checkVirt (.seq k) die t.job va 4 .fetch false with
  | .error _ => s
  | .ok l =>
    let s1 := s.cacheLeaf (.seq k) die t.job va
    if l.kind = 3 then s1
    else if (s.fetchHit t.lead t.job va).isSome then s1.touchStream t.lead t.job va true
    else if !s.fill then s1.countFetch k l
    else
      let s2 := (s1.countFetch k l).fillDie { home := l.pa / 128 * 128, size := 128, die, policy := l.policy, key := l.key }
      let d : StreamLine := {
        panel := t.lead, job := t.job, line := va / 128, fetch := true
        data := (s.underKey l.key (l.pa / 128 * 128) 128).lineSeen die (l.pa / 128) }
      { s2 with streamLines := putStream d s2.streamLines }

/-- R40-R45, R80: the registers that a word names, by the register fields of its form: a word waits while a load owes one of them (log 2). -/
def wordRegs (w : Nat) : List Nat :=
  let d := bitsAt w 21 5
  let a := bitsAt w 16 5
  let op := bitsAt w 26 6
  if op ≤ 0x07 then [d, a, bitsAt w 11 5]
  else if op = 0x10 ∨ op = 0x14 then [d]
  else if op = 0x15 ∨ op = 0x22 then [a]
  else if op = 0x16 ∨ op = 0x2E ∨ op = 0x30 then []
  else if op = 0x31 then [31]
  else if op = 0x32 ∨ op = 0x33 then [d, (d + 1) % 32]
  else [d, a]

/-- R80: a word must wait for a load's register; `x0` is never owed (R42). -/
def Strand.owes (t : Strand) (w : Nat) : Bool := t.owedRegs.any (fun d => d != 0 && (wordRegs w).contains d)

/-- The state in which a word of strand k executes: one cycle on, with the sequencer and the word as the acting site. -/
def State.issuing (k w : Nat) (s : State) : State :=
  { (s.fetchFill k).elapse 1 with site := { strand := k, word := BitVec.ofNat 32 w } }

/-- The sequencer of strand k takes its turn: it fetches the word at `spt`, decodes and executes it (R38, R46, R77, R190). A word waits for the
registers that loads owe it (R80), and for a held row where its page is to be walked (R327). -/
def State.seqTurn (k : Nat) (s : State) : Out :=
  if !(s.strand k).issues then .next s
  else
    match s.fetch k with
    | .held => .next s
    | .fault => exec .fetchFault (s.issuing k 0)
    | .uncorrectable => .next ((s.issuing k 0).raise 9 0 0 (s.strand k).spt.toNat)
    | .word w =>
      if (s.strand k).owes w then .next (s.issuing k w).wait
      else
        match decodeSeq w with
        | .ok i => if (s.issuing k w).seqWalks i then .next (s.issuing k w).wait else exec i (s.issuing k w)
        | .error _ => exec (.illegalInstruction (BitVec.ofNat 32 w)) (s.issuing k w)

-- elements ----------------------------------------------------------------------------------------

/-- The instruction of a slot. -/
def Elem.slotInstr (el : Elem) (n : Nat) : Option Instr :=
  if el.configured && el.slotMask / 2^n % 2 == 1 then
    match decodeSlot (el.slots.look 0 n).toNat with
    | .ok i => some i
    | .error _ => none
  else none

/-- R29: the slot that fires among the ready ones. -/
def chosenSlot (pass : Nat → Nat) (ready : List Nat) : Option Nat :=
  match ready.find? (fun n => decide (8 ≤ pass n)) with
  | some n => some n
  | none => ready.head?

/-- R29: a slot's pass-over count after a cycle: `fired` is the slot that fires in it. -/
def passAfter (fired : Option Nat) (ready : List Nat) (m pass : Nat) : Nat :=
  if ready.contains m then (match fired with | some n => if m = n then 0 else pass + 1 | none => pass) else 0

/-- R29: the pass-over counts of an element after a cycle. -/
def Elem.passOver (fired : Option Nat) (ready : List Nat) (el : Elem) : Elem :=
  (List.range 4).foldl (fun x m =>
    let p := passAfter fired ready m (x.slot m).pass
    if (x.slot m).pass = p then x else x.updSlot m (fun t => { t with pass := p })) el

/-- R28: the slots of an element that are ready. -/
def State.readySlots (s : State) (e : Nat) : List Nat := (List.range 4).filter (fun n => s.slotReady e n)

/-- One slot of an element takes its turn, the pass-over counts following (R29). -/
def State.slotTurn (e n : Nat) (s : State) : Out :=
  match (s.elem e).slotInstr n with
  | some i =>
    let ready := s.readySlots e
    exec i { s.updElem e (Elem.passOver (if ready.contains n then some n else none) ready) with site := { elem := e, slot := n } }
  | none => .next s

/-- R28, R29, R135: an element takes its turn: a fret swap that stands to be made, else the firing of one ready slot, else an exchange of
its tile registers, which waits for a cycle in which no firing begins. -/
def State.elemTurn (e : Nat) (s : State) : Out :=
  let changes (i : Instr) : Bool := match exec i (s.atSlot e 0) with | .next s1 => s1.elem e != s.elem e | _ => false
  let ready := s.readySlots e
  let idle := s.updElem e (Elem.passOver none ready)
  if changes .fretSwap then exec .fretSwap (idle.atSlot e 0)
  else
    match chosenSlot (fun n => ((s.elem e).slot n).pass) ready with
    | some n => s.slotTurn e n
    | none => if changes .tileExchange then exec .tileExchange (idle.atSlot e 0) else .next idle

-- AGEs --------------------------------------------------------------------------------------------

/-- R59, R223: the head of an AGE's command queue takes its turn. -/
def State.headTurn (e : Nat) (s : State) : Out :=
  match (s.elem e).age.queue with
  | [] => .next s
  | h :: _ =>
    match decodeCmd h.raw.toNat with
    | .ok i => exec i { s with site := { elem := e } }
    | .error _ => exec (.commandDecodeFault h.raw) { s with site := { elem := e } }

/-- R223, R199: the command in a progress place takes its turn; off the fabric only what is owed to memory goes on. -/
def State.placeTurn (e p : Nat) (s : State) : Out :=
  let x := s.place e p
  if !x.active || (parked e && (!x.owed || x.done)) then .next s
  else if x.done then exec .commandCompletion { s with site := { elem := e, place := some p } }
  else
    match decodeCmd x.raw.toNat with
    | .ok i => exec i { s with site := { elem := e, place := some p } }
    | .error _ => .next s

-- banks -------------------------------------------------------------------------------------------

/-- R283, R284: a bank array unit takes its turn: it begins a waiting run, or executes the next word of its program. -/
def State.bankTurn (b : Nat) (s : State) : Out :=
  let x := s.bankAt b
  match x.running with
  | none => .next (s.updBank b Bank.begin_)
  | some r =>
    match (s.programs.look [] r.job)[x.word]? with
    | none => .next s
    | some w =>
      match decodeBank w.toNat with
      | .ok i => exec i { s with site := { bank := b } }
      | .error _ => .next s

-- who has something to do -------------------------------------------------------------------------

/-- The turns that an element's work asks for; of an AGE off the fabric, those of the commands owed to memory (R199). -/
def elemMoves (e : Nat) (x : Elem) : List Move :=
  if parked e then
    let owed := x.age.places.filter (fun p => p.2.active && p.2.owed)
    owed.map (fun p => .place e p.1) ++
    (if owed.isEmpty || x.age.spills.isEmpty then [] else [.event { elem := e } .spillDrainAttempt])
  else
  (if x.configured then [.elem e] else []) ++
  x.routes.filterMap (fun r => if r.2.flight.isEmpty then none else some (.event {} (.channelDelivery e r.1))) ++
  (if x.age.queue.isEmpty then [] else [.head e]) ++
  x.age.places.flatMap (fun p => if p.2.active then [.place e p.1, .event { elem := e, place := some p.1 } .scanStep] else []) ++
  (if x.age.spills.isEmpty then [] else [.event { elem := e } .spillDrainAttempt]) ++
  (if x.age.ports.isEmpty then [] else [.event { elem := e } .bridleAdmission]) ++
  (if x.age.bridle.enabled then [.event { elem := e } .bridleWindowEnd] else [])

/-- The turns that a request of the ordering machine asks for (R315). -/
def reqMoves (r : Req) : List Move :=
  match r.stage with
  | .issued => [.event {} (.depart r.id)]
  | .departed =>
    [.event {} (.read r.id), .event {} (.reachDiePoint r.id), .event {} (.sendHome (.req r.id)), .event {} (.deferredReadResend r.id)]
  | .passed => [.event {} (.sendHome (.req r.id))]
  | .home => [.event {} (.serialise r.id), .event {} (.defer r.id), .event {} (.deferredReadResend r.id)]
  | .deferred => []
  | .returned => []

/-- The turns that a die point's dirty sectors ask for. -/
def lineMoves (d : DieLine) : List Move :=
  (List.range 2).filterMap (fun k => if d.dirty k then some (.event {} (.sendHome (.sector d.die d.line k))) else none)

/-- The turns that a strand's life asks for. -/
def strandMoves (k : Nat) (t : Strand) : List Move :=
  (if t.run = .placed then [.event { strand := k } .launchLoad] else []) ++
  (if t.onFabric && t.region.state != .running then
    [.event { strand := k } .regionFrozen, .event { strand := k } .preemptionHalt, .event { strand := k } .contextSave] else []) ++
  (if t.run = .yielded then [.event { strand := k } .preemptionHalt, .event { strand := k } .contextSave] else []) ++
  (if t.onFabric && t.stallCtl != 0 then [.event { strand := k } .hangDeclaration] else [])

/-- The turns that a resident job asks for. -/
def jobMoves (j : Nat) (x : Job) : List Move :=
  (if x.events.isEmpty then [] else [.event {} (.eventRecordPost j)]) ++
  (if !x.resident then [] else
    (if x.waitFrom.isSome then [.event {} (.priorityAging j), .event {} (.preemptionRequest j)] else []) ++
    x.launches.flatMap (fun l => (List.range Config.dies).map (fun d => .event {} (.allocatorPlacement (.place j l.1 d)))) ++
    (if x.preemptAt.isSome then [.event {} (.stepDeadlineExpiry j)] else []) ++
    ((List.range x.saved.length).zip x.saved).flatMap (fun v =>
      if v.2.failed then [] else (List.range Config.dies).map (fun d => .event {} (.contextRestore j v.1 d))) ++
    [.event {} (.graphLaunchNode j), .event {} (.graphConditionalNode j), .event {} (.graphLoopNode j), .event {} (.graphEndNode j),
     .event {} (.phaseCompletion j), .event {} (.jobLeavingResidency j)] ++
    x.edges.map (fun e => .event {} (.edgeBufferFree j e.1)))

/-- The turns that stitch units, templates, mailboxes and panels ask for. -/
def State.unitMoves (s : State) : List Move :=
  s.banks.filterMap (fun b => if b.2.running.isSome || !b.2.waiting.isEmpty then some (.bank b.1) else none) ++
  s.stitches.flatMap (fun u =>
    (if u.2.queue.isEmpty && u.2.writes.isEmpty then [] else [.event {} (.merge u.1)]) ++
    (if u.2.releases.isEmpty then [] else [.event {} (.chunkRelease u.1)])) ++
  s.templates.flatMap (fun t =>
    (if t.2.armed then [.event {} (.templateFiring t.1)] else []) ++
    (if t.2.pushOwed then [.event {} (.templateDonePush t.1)] else [])) ++
  s.boxes.filterMap (fun m => if m.2.valid then some (.event {} (.jobResidency (m.1 / 16) (m.1 % 16))) else none) ++
  s.panels.filterMap (fun p => if p.2.state = 1 then some (.event {} (.panelZeroing p.1)) else none) ++
  s.cuts.filterMap (fun c => if c.2.bridle.enabled then some (.event { elem := outside + c.1 } .bridleWindowEnd) else none)

/-- R314, R315: every part that may act next. Where no sequencer issues, a cycle passes (log 1). -/
def State.moves (s : State) : List Move :=
  let seqs := (s.strands.filter (fun t => t.2.issues)).map (fun t => Move.seq t.1)
  seqs ++ s.elems.flatMap (fun e => elemMoves e.1 e.2) ++ s.reqs.flatMap reqMoves ++ s.dieLines.flatMap lineMoves ++
  s.strands.flatMap (fun t => strandMoves t.1 t.2) ++ s.unitMoves ++ s.jobs.flatMap (fun j => jobMoves j.1 j.2) ++
  (if s.heatOwed.isEmpty then [] else [.heat]) ++ (if seqs.isEmpty then [.tick 1] else [])

/-- R381: a snapshot's cycle has come. -/
def State.latchDue (s : State) : Bool :=
  match s.snapAt with
  | some p => decide (p.at_.toNat ≤ s.cyc.toNat)
  | none => false

/-- What acts next: a snapshot whose cycle has come, else what the agenda names, else the next part in turn (log 1). -/
def State.nextMove (s : State) : Move :=
  if s.latchDue then .event s.site .snapshotLatch
  else match s.agenda with
    | m :: _ => m
    | [] => s.moves.getD (s.rr % s.moves.length) (.tick 1)

/-- The state in which the next move acts: the agenda's first entry is taken, or the turn passes on. -/
def State.turned (s : State) : State :=
  if s.latchDue then s
  else match s.agenda with
    | _ :: r => { s with agenda := r }
    | [] => { s with rr := s.rr + 1 }

/-- R381: n cycles, or as many as pass before a snapshot's cycle comes. -/
def State.untilLatch (s : State) (n : Nat) : Nat :=
  match s.snapAt with
  | some p => if s.cyc.toNat < p.at_.toNat then Nat.min n (p.at_.toNat - s.cyc.toNat) else n
  | none => n

/-- A move acts. -/
def State.take (m : Move) (s : State) : Out :=
  match m with
  | .seq k => s.seqTurn k
  | .elem e => s.elemTurn e
  | .slot e n => s.slotTurn e n
  | .head e => s.headTurn e
  | .place e p => s.placeTurn e p
  | .bank b => s.bankTurn b
  | .heat => .next s.heatStep
  | .linkToken c t => .next (s.linkToken c t)
  | .linkCredit c => .next (s.linkCredit c)
  | .linkEdge e p r sc n => .next (s.linkEdge e p r sc n)
  | .linkDone e i => .next (s.linkDone e i)
  | .doneTaken e i => .next (s.doneTaken e i)
  | .event w i => exec i { s with site := w }
  | .tick n => .next (s.elapse (s.untilLatch n))

-- a word placed where it runs next ------------------------------------------------------------------

/-- The machine as it stands, ready for its next step to be a move: no snapshot is due, and the move is the next. -/
def State.soon (m : Move) (s : State) : State := { s with agenda := [m], snapAt := if s.latchDue then none else s.snapAt }

/-- The strand whose sequencer issues next: the first that issues, else strand 0. -/
def State.fetchStrand (s : State) : Nat :=
  match s.strands.find? (fun t => t.2.issues) with
  | some t => t.1
  | none => 0

/-- A strand that issues, owes no register and waits for nothing. -/
def Strand.readied (t : Strand) : Strand :=
  { t with run := .running, region := { t.region with state := .running, trap := false }, owedRegs := [], awaits := none, answer := none, waiting := false }

/-- Where the word at a strand's `spt` stands in memory, as a tagged address. -/
def State.fetchHome (s : State) (k : Nat) : Option Nat :=
  let t := s.strand k
  match s.checkVirt (.seq k) (dieOf t.lead) t.job t.spt.toNat 4 .fetch false with
  | .ok l => some l.tag
  | .error _ => none

/-- A job's translation laid out so that its first 128 MiB are the first of the first tier, in a PLAIN writable page (R331-R333). -/
def State.mapFirst (j : Nat) (s : State) : State :=
  let s1 := ((s.pokeKey 0 (16 * 65536) 8 (1 + 17 * 2^18)).pokeKey 0 (17 * 65536) 8 (1 + 18 * 2^18)).pokeKey 0 (18 * 65536) 8 (1 + 2 + 2^14)
  { s1 with roots64 := s1.roots64.put j (BitVec.ofNat 64 (16 + 2^36)), tlbs := s1.tlbs.filter (fun t => t.job != j)
            groupLinear := s1.groupLinear.del 0 }

/-- A strand that issues, with a word at its `spt` that can be fetched. -/
def State.fetchable (s : State) : State :=
  let k := s.fetchStrand
  let s1 := s.updStrand k Strand.readied
  if (s1.fetchHome k).isSome then s1
  else (s1.updStrand k (fun t => { t with spt := 0 })).mapFirst (s1.strand k).job

/-- The sectors of a line that die points have sent home applied there. -/
def State.landSectors (l : Nat) (s : State) : State :=
  let flies (r : Req) : Bool := r.stage == .home && r.isSector && r.home / 128 == l
  let s1 := (s.reqs.filter flies).foldl (fun s r => s.applySector r) s
  { s1 with reqs := s1.reqs.filter (fun r => !flies r) }

/-- A word of 32 bits at the home of a strand's `spt`, with no copy of its line left anywhere, and no row held. -/
def State.placeSeq (w : Nat) (s : State) : State :=
  let k := s.fetchStrand
  let t := s.strand k
  let x := (s.fetchHome k).getD 0
  let a := x % 2^64
  let s1 := ((s.landSectors (a / 128)).gather (a / 128)).pokeTag x 4 w
  { s1 with
    streamLines := s1.streamLines.filter (fun l => !(l.is t.lead t.job (t.spt.toNat / 128)))
    bad := s1.bad.filter (fun b => b < a || a + 4 ≤ b)
    banks := s1.banks.map (fun (b : Nat × Bank) => (b.1, { b.2 with held := false })) }

/-- The element of panel 0 that a slot's opcode suits (R16, R53). -/
def slotElem (code : Nat) : Nat :=
  if 0x60 ≤ code ∧ code ≤ 0x64 then 1 else if 0x40 ≤ code ∧ code ≤ 0x4B then 6 else if code = 0x80 then 7 else 0

/-- A slot word in slot 0 of an element that is configured and has its `GO`. -/
def State.placeSlot (w e : Nat) (s : State) : State :=
  s.updElem e (fun x => { x with
    configured := true, kind := kindAt e, slotMask := if x.slotMask % 2 = 1 then x.slotMask else x.slotMask + 1
    slots := x.slots.put 0 (BitVec.ofNat 64 w), go := true, fault := 0 })

/-- A bank word as the program of a job, which bank 0 runs. -/
def State.placeBank (w : Nat) (s : State) : State :=
  ({ s with programs := s.programs.put 0 [BitVec.ofNat 64 w] } : State).updBank 0 (fun b =>
    { b with running := some { job := 0, lim := 256, rows := [0] }, word := 0, cause := 0, reopen := false })

/-- A stream command at the head of the command queue of element 7, with a shape word of zeros where its op owes one. -/
def State.placeCmd (w : Nat) (s : State) : State :=
  s.updAge 7 (fun a => { a with
    queue := [{ raw := BitVec.ofNat 128 w }] ++ (if owesShape (bitsAt w 120 8) then [{ raw := 0, shape := true }] else []) ++ a.queue })

end Sys2Proof.Machine
end

