-- ==== Sys2Proof/Machine/Step.lean ====
section
/-!
DEFINITION. One step of the package, and the placing of a word where the next step runs it.
-/

namespace Sys2Proof.Machine

/-- One step: the next move acts. With the power removed nothing executes (R396). -/
def step (s : State) : Host.Outcome State Fault Refusal :=
  if s.boot.powered then s.turned.take s.nextMove else .fault .noPower

/-- The state with an instruction where the next step takes it from: a sequencer word at a strand's `spt`, a bank word in a bank
program, a slot word in an element, or a stream command at the head of a command queue (log 27). -/
def State.withFetchWord (s : State) (nbits w : Nat) : State :=
  if nbits ≤ 32 then
    let s1 := (s.fetchable).placeSeq (w % 2^32)
    s1.soon (.seq s1.fetchStrand)
  else if nbits ≤ 64 then
    match decodeBank (w % 2^64) with
    | .ok _ => (s.placeBank (w % 2^64)).soon (.bank 0)
    | .error _ =>
      let e := slotElem (bitsAt w 56 8)
      (s.placeSlot (w % 2^64) e).soon (.slot e 0)
  else ((s.updStrand s.fetchStrand Strand.readied).placeCmd (w % 2^128)).soon (.head 7)

end Sys2Proof.Machine
end

