-- ==== Sys2Proof/Safety.lean ====
section
/-!
DEFINITION. The terms in which claims are stated: what it is that an instruction answers, what it leaves alone (frames), and what counts
as a safe run: memory keeps its canonical form, the model refuses nothing, and the machine stops for want of power alone.
-/

namespace Sys2Proof.Machine

/-- Memory is in its canonical form. -/
def State.memWf (s : State) : Bool := Memory.wf s.mem

/-- An outcome that goes on, or stops as R396 says. -/
def Out.goes : Out → Bool
  | .next _ => true
  | .fault .noPower => true
  | .refused _ => false

/-- No run of n steps from a state meets a refusal. -/
def State.runsOn (n : Nat) (s : State) : Prop :=
  ∀ r, Host.Core.run { State := State, Fault := Fault, Refusal := Refusal, step := step, reset := State.reset } n s ≠ .refused r

/-- The instruction answers a next state, of which P holds. -/
def Answers (i : Instr) (s : State) (P : State → Prop) : Prop := ∃ t, exec i s = .next t ∧ P t

/-- Every byte of memory reads as before. -/
def SameBytes (s t : State) : Prop := ∀ a, memGet t.mem a = memGet s.mem a

/-- Every byte of memory outside n bytes from a up reads as before. -/
def SameBytesBut (a n : Nat) (s t : State) : Prop := ∀ b, (b < a ∨ a + n ≤ b) → memGet t.mem b = memGet s.mem b

/-- Nothing but the acting strand has changed, and no byte of memory. -/
structure OnlySelf (s t : State) : Prop where
  others : ∀ k, k ≠ s.site.strand → t.strand k = s.strand k
  rest : { t with strands := s.strands } = s
  bytes : SameBytes s t

/-- General registers read as before, but for d, which reads v unless it is x0 (R42, R62). -/
def RegsBut (d : Reg) (v : Word) (s t : State) : Prop := ∀ r, t.reg r = if r = d ∧ r ≠ 0 then v else s.reg r

/-- General registers read as before. -/
def SameRegs (s t : State) : Prop := ∀ r, t.reg r = s.reg r

/-- The strand register file, the word pointer and the mark of a wait set aside, two strands are the same. -/
def Strand.alike (a b : Strand) : Prop := { a with x := b.x, spt := b.spt, waiting := b.waiting } = b

/-- A form of the acting strand that writes v to register d, goes on to the next word (R63), and changes nothing else. -/
structure Wrote (d : Reg) (v : Word) (s t : State) : Prop where
  regs : RegsBut d v s t
  spt : t.self.spt = s.self.spt + 4
  strand : t.self.alike s.self
  only : OnlySelf s t

/-- A form of the acting strand that sets `spt` to a, and changes nothing else. -/
structure Jumped (a : BitVec 60) (s t : State) : Prop where
  regs : SameRegs s t
  spt : t.self.spt = a
  strand : t.self.alike s.self
  only : OnlySelf s t

/-- R97: the acting strand's instruction waits: nothing of it has been executed, and `spt` names it. -/
structure Waited (s t : State) : Prop where
  regs : SameRegs s t
  spt : t.self.spt = s.self.spt
  mark : t.self.waiting = true
  strand : t.self.alike s.self
  only : OnlySelf s t

/-- R96, R46, R185: the acting strand took a precise fault: its fault register holds class, cause, word and address; no register,
memory byte, `cpc` or `spt` changed; its region freezes. -/
structure Faulted (cls cause word addr : Nat) (s t : State) : Prop where
  fault : t.self.fault = seqFaultReg cls cause word addr
  regs : SameRegs s t
  spt : t.self.spt = s.self.spt
  cpc : t.self.cpc = s.self.cpc
  kpend : t.self.kpend = s.self.kpend
  w : t.self.w = s.self.w
  counters : t.self.ic = s.self.ic
  frozen : t.self.region.fault = true ∧ (s.self.region.state = .running → t.self.region.state = .freezing)
  others : ∀ k, k ≠ s.site.strand → t.strand k = s.strand k
  elems : t.elems = s.elems
  bytes : SameBytes s t

/-- A form that also changes other parts of the package: the acting strand's registers but d, and `spt`. -/
structure Retired (d : Reg) (v : Word) (s t : State) : Prop where
  regs : RegsBut d v s t
  spt : t.self.spt = s.self.spt + 4
  cpc : t.self.cpc = s.self.cpc
  counters : t.self.ic = s.self.ic
  special : t.self.kpend = s.self.kpend ∧ t.self.w = s.self.w ∧ t.self.proot = s.self.proot ∧ t.self.stack = s.self.stack ∧
    t.self.cpnl = s.self.cpnl ∧ t.self.fault = s.self.fault ∧ t.self.region = s.self.region

/-- The acting strand goes on to the next word with its registers as they were. -/
structure Passed (s t : State) : Prop where
  regs : SameRegs s t
  spt : t.self.spt = s.self.spt + 4
  cpc : t.self.cpc = s.self.cpc
  counters : t.self.ic = s.self.ic
  special : t.self.kpend = s.self.kpend ∧ t.self.w = s.self.w ∧ t.self.proot = s.self.proot ∧ t.self.stack = s.self.stack ∧
    t.self.cpnl = s.self.cpnl ∧ t.self.fault = s.self.fault ∧ t.self.region = s.self.region

/-- The acting strand goes on to the next word with v in register d and the weight w; of strands and elements nothing else changed. -/
structure Went (d : Reg) (v w : Word) (s t : State) : Prop where
  regs : RegsBut d v s t
  spt : t.self.spt = s.self.spt + 4
  weight : t.self.w = w
  strand : ({ t.self with w := s.self.w } : Strand).alike s.self
  others : ∀ k, k ≠ s.site.strand → t.strand k = s.strand k
  elems : t.elems = s.elems

/-- R370: `Give` from a holding w: the exponent given, what is left, and whether a borrow was made, by the lowest set bit of w. -/
def Given (w : Word) (e : Nat) (left : Word) (borrowed : Bool) : Prop :=
  ∃ i, i < 64 ∧ w.getLsbD i = true ∧ (∀ j, j < i → w.getLsbD j = false) ∧
    (w ≠ BitVec.ofNat 64 (2^i) → e = 63 - i ∧ left = w - BitVec.ofNat 64 (2^i) ∧ borrowed = false) ∧
    (w = BitVec.ofNat 64 (2^i) → 0 < i → e = 64 - i ∧ left = BitVec.ofNat 64 (2^(i - 1)) ∧ borrowed = false) ∧
    (w = BitVec.ofNat 64 (2^i) → i = 0 → e = 63 ∧ left = BitVec.ofNat 64 (2^31) ∧ borrowed = true)

/-- R301, R302: the acting strand may use queue q, which is of one of the classes given. -/
structure State.QueueOpen (s : State) (q : Nat) (classes : List Nat) : Prop where
  number : q < 2^10
  valid : (s.queue q).valid = true
  job : (s.queue q).job = s.self.job
  scope : withinScope (s.queue q).scope (q / 256) (s.queue q).homePanel ((s.queue q).homePanel % 8) s.self.lead = true
  cls : (s.queue q).cls ∈ classes

/-- R97, R189: a strand as the freeze of its region begins: a deferred `LDP` of it is withdrawn. -/
def State.withdrawn (s : State) (k : Nat) : Strand :=
  let t := s.strand k
  if ∃ r ∈ s.reqs, r.agent = .seq k ∧ r.kind = .syncRead then { t with awaits := none, answer := none, waiting := false } else t

-- memory --------------------------------------------------------------------------------------------

/-- R80, R252, R286, R313, R339: nothing holds a request that is performed at once, and nothing stands in the queue of the home that it writes. -/
structure State.Performs (s : State) (r : Req) : Prop where
  first : s.earlier r = false
  ageFirst : s.earlierAge r = false
  row : s.homeHeld r = false
  tile : s.tileHolds r = false
  queue : r.writes = true → r.virt = true → s.queuedAt (s.bankOf r.home) = []

/-- R211: no die point holds a dirty sector of a line. -/
def State.CleanLine (s : State) (line : Nat) : Prop := ∀ d ∈ s.dieLines, d.line = line → d.changed = 0

/-- R355: outside n bytes from a up, every byte reads as an access with a key index found it in s; where the page keeps its key that is as s
holds it. -/
def SameBytesUnder (key a n : Nat) (s t : State) : Prop := SameBytesBut a n (s.underKey key a n) t

/-- R315: a die holds no line, in its stream buffers, at its die point, or as a sector on its way home. -/
structure State.OnlyHome (s : State) (die line : Nat) : Prop where
  point : s.dieLine die line = none
  flying : ∀ r ∈ s.reqs, r.stage = .home → r.isSector = true → r.die = die → r.home / 128 ≠ line

/-- R220: no deferred read stands in the machine. -/
def State.NoDeferred (s : State) : Prop := ∀ q ∈ s.reqs, q.stage ≠ .deferred

-- elements ------------------------------------------------------------------------------------------

/-- The tokens standing in an input. -/
def Elem.standing (e : Elem) (p : Nat) : List Token := (e.chan p).map (·.tok)

/-- The tokens travelling on each branch of an output port, branch by branch. -/
def Elem.flights (e : Elem) (p : Nat) : List (List Token) := (e.routesOf p).map (fun r => r.2.flight)

/-- The tokens of a list of emissions that leave on port p, in order. -/
def onPort (p : Nat) (out : List (Nat × Token)) : List Token := (out.filter (fun x => x.1 == p)).map (·.2)

/-- An element without what a firing moves: its inputs, its routes and its bridle's count. -/
def Elem.still (e : Elem) : Elem := { e with chans := [], routes := [], age := { e.age with bridle := {} } }

/-- R28, R88, R129, R133, R164, R182: nothing but its own operands keeps the slot that acts from a firing that emits `out`. -/
structure CanFire (code : Nat) (sl : Slot) (source : Bool) (out : List (Nat × Token)) (s : State) : Prop where
  free : s.slotHeld s.site.elem code sl source = false
  tile : (s.elem s.site.elem).tileWaits s.site.slot sl = false
  room : (s.elem s.site.elem).roomFor out = true
  admits : (s.elem s.site.elem).admits out = true
  good : s.badOperand s.site.elem s.site.slot code sl = none

/-- R28, R130: the acting element fired: one token left the front of an input for each time `eat` names it, `out` travels on every branch
of its ports, and the element is otherwise `el`. Nothing else changed but windows of routes, activity marks and firing counts. -/
structure Fired (el : Elem) (eat : List Nat) (out : List (Nat × Token)) (s t : State) : Prop where
  took : ∀ p, (t.elem s.site.elem).standing p = ((s.elem s.site.elem).standing p).drop (eat.count p)
  sent : ∀ p, (t.elem s.site.elem).flights p = ((s.elem s.site.elem).flights p).map (· ++ onPort p out)
  self : (t.elem s.site.elem).still = el.still
  others : ∀ e, e ≠ s.site.elem → (t.elem e).still = (s.elem e).still ∧ ∀ p, (t.elem e).standing p = (s.elem e).standing p ∧
    (t.elem e).flights p = (s.elem e).flights p
  strands : ∀ k, { t.strand k with quiet := 0 } = { s.strand k with quiet := 0 }
  rest : { t with elems := s.elems, strands := s.strands, perf := s.perf, mem := s.mem } = s

/-- One-beat DATA tokens stand at the heads of the inputs listed. -/
def Elem.rowsAt (e : Elem) (ports : List Nat) : Prop :=
  ∀ p ∈ ports, ∃ t, e.head p = some t ∧ t.kind = .data ∧ t.tile = false

/-- R126-R128, R133: a row form of width b is ready with the operand rows given. -/
structure RowReady (code : Nat) (sl : Slot) (b : Nat) (rows : List Row) (s : State) : Prop where
  heads : (s.elem s.site.elem).rowsAt (slotChannels code sl)
  operands : s.operandRows s.site.elem s.site.slot sl b (pairMode code sl) (slotOperands code sl) = .ok rows
  fire : CanFire code sl false (toPorts sl.outmask (Token.dat 0)) s

/-- R126-R133: a row form fired with result r: it is emitted on every output, written where tw says, and idx advances. -/
structure RowFired (code : Nat) (sl : Slot) (r : Row) (s t : State) : Prop where
  fired : Fired (((s.elem s.site.elem).tileWrite s.site.slot sl r).tick s.site.slot) (slotChannels code sl)
    (toPorts sl.outmask (Token.dat r)) s t
  bytes : SameBytes s t

/-- R29: v is u once a cycle has been counted at element e in which slot `fired` begins a firing, or none: the pass-over count of a ready slot that
does not fire rises where another does, and stands where none does; every other count is 0. -/
structure PassedOver (e : Nat) (fired : Option Nat) (u v : State) : Prop where
  counts : ∀ m, m < 4 → ((v.elem e).slot m).pass = if u.slotReady e m = true then
    (match fired with | some n => if m = n then 0 else ((u.elem e).slot m).pass + 1 | none => ((u.elem e).slot m).pass) else 0
  slots : ∀ m, { (v.elem e).slot m with pass := 0 } = { (u.elem e).slot m with pass := 0 }
  element : { v.elem e with slotSt := [] } = { u.elem e with slotSt := [] }
  others : ∀ d, d ≠ e → v.elem d = u.elem d
  rest : { v with elems := u.elems } = u

-- loads of configurations, and commands -------------------------------------------------------------

/-- What a load of plan p leaves in the elements of the acting strand's set (R87): an ECW taken, channels, loop counters and pass-over counts
at their start, storage kept; of memory only error and ready bits of the weight directories of the set's MXEs may have changed. A set that is
a part of a cut graph is joined to the other parts' elements again (R27). -/
structure LoadedBy (p : LoadPlan) (s t : State) : Prop where
  fresh : ∀ e ∈ s.self.elems, (t.elem e).chans = [] ∧ (t.elem e).slotSt = [] ∧ (t.elem e).age.places = []
  kept : ∀ e ∈ s.self.elems, (t.elem e).ta = (s.elem e).ta ∧ (t.elem e).tl = (s.elem e).tl ∧ (t.elem e).accs = (s.elem e).accs ∧
    (t.elem e).frets = (s.elem e).frets ∧ (t.elem e).occ = (s.elem e).occ
  taken : ∀ i, i < p.ecws.length → let w := p.ecws.getD i (ecwOf 0); let e := s.self.panelAt (i / 64) * 64 + i % 64
    (t.elem e).configured = w.present ∧ (t.elem e).fmt = w.fmt ∧ (t.elem e).slotMask = w.mask ∧ (t.elem e).fretOn = w.fretOn ∧
    (t.elem e).active = w.fretActive ∧ ∀ n, n < 4 → w.has n = true → (t.elem e).slots.look 0 n = BitVec.ofNat 64 (w.slotWord n)
  others : s.partOf s.self = none → ∀ e, e ∉ s.self.elems → t.elem e = s.elem e
  strands : ∀ k, k ≠ s.site.strand → t.strand k = s.strand k
  bytes : ∀ a, (∀ e ∈ s.self.elems, kindAt (e % 64) = .mxe → a < elemHome e + 0x8000 ∨ elemHome e + 0x8200 ≤ a) →
    memGet t.mem a = memGet s.mem a
  rest : { t with strands := s.strands, elems := s.elems, mem := s.mem } = s

/-- A command with fields c and op code `op` stands in place p of the acting AGE and takes its next step there. -/
structure State.Steps (s : State) (p op : Nat) (c : Cmd) : Prop where
  site : s.site.place = some p
  active : (s.place s.site.elem p).active = true
  free : (s.place s.site.elem p).held = false
  going : (s.place s.site.elem p).done = false
  out : (s.place s.site.elem p).outq = []
  fields : (s.place s.site.elem p).cmd = c
  code : (s.place s.site.elem p).op = op
  rows : unitOp op = true → s.rowHeld = false

/-- Place p of the acting AGE is now y; no other place, no strand but its watch's quiet count, and no presence bit has changed. -/
structure Stepped (p : Nat) (y : Place) (s t : State) : Prop where
  place : t.place s.site.elem p = y
  others : ∀ e q, (e ≠ s.site.elem ∨ q ≠ p) → t.place e q = s.place e q
  strands : ∀ k, { t.strand k with quiet := 0 } = { s.strand k with quiet := 0 }
  full : t.full = s.full

/-- R286, R327: the page walk of an element of the command in place p waits for no held bank row. -/
def State.Walks (s : State) (p space : Nat) (a : Int) : Prop :=
  space = 4 → s.walkWaits (.age s.site.elem) (dieOf (panelOf s.site.elem)) (s.strand (s.place s.site.elem p).strand).job a.toNat = false

/-- R78, R190, R226, R227: an element of the command in place p is read at once from where l says. -/
structure State.Reads (s : State) (p space : Nat) (a : Int) (size idx : Nat) (form : AccForm) (l : Loc) : Prop where
  reached : s.checkSpace s.site.elem space a size form false = .ok l
  good : s.isBad l.home size = false
  unblocked : space = 4 → s.spillBlocks s.site.elem p a.toNat size = false
  walk : s.Walks p space a
  prompt : s.prompt = true
  performs : s.Performs (s.placeReq s.site.elem p idx l a.toNat size .read 0)
  heat : (s.elem s.site.elem).age.heat = []

/-- The bytes that such a read returns. -/
def State.valueAt (s : State) (p : Nat) (a : Int) (size idx : Nat) (l : Loc) : Nat :=
  s.readValue (s.placeReq s.site.elem p idx l a.toNat size .read 0)

/-- R219, R226, R227: an element of the command in place p is written at once to where l says, which is neither a SYNC page nor a weight buffer,
and of which no die point holds a dirty sector. -/
structure State.Writes (s : State) (p space : Nat) (a : Int) (size data : Nat) (form : AccForm) (kind : ReqKind) (l : Loc) : Prop where
  reached : s.checkSpace s.site.elem space a size form true = .ok l
  plain : l.virt = true → l.kind ≠ 1
  store : l.home < 2^59
  fits : size ≤ 64
  good : form = .combine → s.isBad l.home size = false
  unblocked : space = 4 → s.spillBlocks s.site.elem p a.toNat size = false
  walk : s.Walks p space a
  prompt : s.prompt = true
  performs : s.Performs (s.placeReq s.site.elem p (s.place s.site.elem p).j3 l a.toNat size kind data)
  clean : s.CleanLine (l.home / 128)

/-- n bytes at a home address now hold v, written under a key index, and no other byte has changed. -/
def Stored (key a n v : Nat) (s t : State) : Prop := t.peek a n = v % 2^(8 * n) ∧ SameBytesUnder key a n s t

/-- R187, R189: place p of the acting AGE is held by a port fault at element idx, and its region freezes; no byte of memory has changed. -/
structure Held (p cls idx addr space : Nat) (s t : State) : Prop where
  place : t.place s.site.elem p = { s.place s.site.elem p with held := true }
  others : ∀ e q, (e ≠ s.site.elem ∨ q ≠ p) → t.place e q = s.place e q
  port : (t.elem s.site.elem).age.port = portFaultReg cls (s.place s.site.elem p).op idx addr space
  frozen : let k := s.strandOf s.site.elem; (t.strand k).region.fault = true ∧
    ((s.strand k).region.state = .running → (t.strand k).region.state = .freezing)
  strands : ∀ k, k ≠ s.strandOf s.site.elem → t.strand k = s.strand k
  bytes : SameBytes s t

/-- Place p of the acting AGE is now y, and nothing else of the package has changed but the parts given as unchanged in `rest`. -/
structure PlaceOnly (p : Nat) (y : Place) (s t : State) : Prop where
  stepped : Stepped p y s t
  bytes : SameBytes s t
  elems : ∀ e, e ≠ s.site.elem → t.elem e = s.elem e
  rest : { t with elems := s.elems } = s

/-- What stands at an engine that acts on its node: its job runs, its phase is open, and header h and node record v are read. -/
structure State.AtNode (s : State) (j h v : Nat) : Prop where
  resident : (s.job j).resident = true
  status : (s.job j).status = 0
  gstate : (s.job j).gstate = 1 ∨ (s.job j).gstate = 2
  going : (s.job j).stopped = false ∧ (s.job j).preempting = false ∧ (s.job j).preemptAt = none
  phase : (s.job j).phaseOpen = true
  rows : s.rowHeld = false
  header : s.graphRecord j (s.job j).graphHdr.toNat = some h
  node : s.graphRecord j (nodeAddr h (s.job j).gnode) = some v

end Sys2Proof.Machine
end

