-- ==== Sys2Proof/Certificates/Slice0/Obligations.lean ====
section
/-!
DEFINITION. The statements for the provers, each an obligation with the rule of the manual that it formalises. `Answers i s P` says that
the instruction answers a next state of which P holds.
-/

open Sys2Proof Sys2Proof.Machine

-- sequencer: integer forms, control transfer, system registers ------------------------------------------

/-- R68, R62, R63: every ALU form writes its result of a = x[xa] and b = x[xb] to x[xd] (a write to x0 is discarded), adds 4 to `spt`, and changes
nothing else. The products are taken of the operands extended to 128 bits. R68, R69: division truncates towards zero and its remainder takes the sign
of a; by zero every division form writes all ones; and −2^63 by −1 gives −2^63 and remainder 0. No form traps. -/
def Obligations.AluFormsWriteTheirResult : Prop :=
  (∀ (s : State) (d a b : Reg), let x := s.reg a; let y := s.reg b
     Answers (.add d a b) s (Wrote d (x + y) s) ∧
     Answers (.sub d a b) s (Wrote d (x - y) s) ∧
     Answers (.mul d a b) s (Wrote d ((x.signExtend 128 * y.signExtend 128).extractLsb' 0 64) s) ∧
     Answers (.mulh d a b) s (Wrote d ((x.signExtend 128 * y.signExtend 128).extractLsb' 64 64) s) ∧
     Answers (.mulhu d a b) s (Wrote d ((x.setWidth 128 * y.setWidth 128).extractLsb' 64 64) s) ∧
     Answers (.and d a b) s (Wrote d (x &&& y) s) ∧
     Answers (.or d a b) s (Wrote d (x ||| y) s) ∧
     Answers (.xor d a b) s (Wrote d (x ^^^ y) s) ∧
     Answers (.andn d a b) s (Wrote d (x &&& ~~~y) s) ∧
     Answers (.shl d a b) s (Wrote d (x <<< (y &&& 63)) s) ∧
     Answers (.shr d a b) s (Wrote d (x >>> (y &&& 63)) s) ∧
     Answers (.sar d a b) s (Wrote d (BitVec.ofInt 64 (x.toInt / 2 ^ (y &&& 63).toNat)) s) ∧
     Answers (.min d a b) s (Wrote d (BitVec.ofInt 64 (Min.min x.toInt y.toInt)) s) ∧
     Answers (.max d a b) s (Wrote d (BitVec.ofInt 64 (Max.max x.toInt y.toInt)) s) ∧
     Answers (.minu d a b) s (Wrote d (BitVec.ofNat 64 (Min.min x.toNat y.toNat)) s) ∧
     Answers (.maxu d a b) s (Wrote d (BitVec.ofNat 64 (Max.max x.toNat y.toNat)) s) ∧
     Answers (.slt d a b) s (Wrote d (if x.toInt < y.toInt then 1 else 0) s) ∧
     Answers (.sltu d a b) s (Wrote d (if x.toNat < y.toNat then 1 else 0) s) ∧
     Answers (.seq d a b) s (Wrote d (if x = y then 1 else 0) s)) ∧
  (∀ (s : State) (d a b : Reg), let x := s.reg a; let y := s.reg b
     (y = 0 →
       Answers (.div d a b) s (Wrote d 0xFFFFFFFFFFFFFFFF s) ∧ Answers (.divu d a b) s (Wrote d 0xFFFFFFFFFFFFFFFF s) ∧
       Answers (.rem d a b) s (Wrote d 0xFFFFFFFFFFFFFFFF s) ∧ Answers (.remu d a b) s (Wrote d 0xFFFFFFFFFFFFFFFF s)) ∧
     (y ≠ 0 →
       Answers (.divu d a b) s (Wrote d (BitVec.ofNat 64 (x.toNat / y.toNat)) s) ∧
       Answers (.remu d a b) s (Wrote d (BitVec.ofNat 64 (x.toNat % y.toNat)) s) ∧
       ∃ q r : Int, x.toInt = q * y.toInt + r ∧ r.natAbs < y.toInt.natAbs ∧ (r ≠ 0 → (0 < r ↔ 0 < x.toInt)) ∧
         Answers (.div d a b) s (Wrote d (BitVec.ofInt 64 q) s) ∧ Answers (.rem d a b) s (Wrote d (BitVec.ofInt 64 r) s)))

/-- R70-R73: the one-register, immediate and bit-field forms, each bit by bit or by its arithmetic meaning. `LIH`, `BFX`, `BFXU` and `BFI` hold for
every field that lies in the word (R46). -/
def Obligations.ImmediateAndFieldFormsWriteTheirResult : Prop :=
  ∀ (s : State) (d a : Reg) (imm : BitVec 16) (sh : BitVec 6) (q : BitVec 2), let x := s.reg a
    Answers (.clz d a) s (fun t => ∃ n : Nat, n ≤ 64 ∧ Wrote d (BitVec.ofNat 64 n) s t ∧ (∀ k, 64 - n ≤ k → x.getLsbD k = false) ∧
      (n < 64 → x.getLsbD (63 - n) = true)) ∧
    Answers (.ctz d a) s (fun t => ∃ n : Nat, n ≤ 64 ∧ Wrote d (BitVec.ofNat 64 n) s t ∧ (∀ k, k < n → x.getLsbD k = false) ∧
      (n < 64 → x.getLsbD n = true)) ∧
    Answers (.popc d a) s (Wrote d (BitVec.ofNat 64 ((List.range 64).filter (fun k => x.getLsbD k)).length) s) ∧
    Answers (.addi d a imm) s (Wrote d (x + imm.signExtend 64) s) ∧
    Answers (.andi d a imm) s (Wrote d (x &&& imm.setWidth 64) s) ∧
    Answers (.ori d a imm) s (Wrote d (x ||| imm.setWidth 64) s) ∧
    Answers (.xori d a imm) s (Wrote d (x ^^^ imm.setWidth 64) s) ∧
    Answers (.shli d a sh) s (Wrote d (x <<< sh) s) ∧
    Answers (.shri d a sh) s (Wrote d (x >>> sh) s) ∧
    Answers (.sari d a sh) s (Wrote d (BitVec.ofInt 64 (x.toInt / 2 ^ sh.toNat)) s) ∧
    Answers (.slti d a imm) s (Wrote d (if x.toInt < imm.toInt then 1 else 0) s) ∧
    (∃ v : Word, (∀ k, k < 64 → v.getLsbD k =
        if 16 * q.toNat ≤ k ∧ k < 16 * q.toNat + 16 then imm.getLsbD (k - 16 * q.toNat) else (s.reg d).getLsbD k) ∧
      Answers (.lih d q imm) s (Wrote d v s)) ∧
    ∀ (pos widthM1 : BitVec 6), pos.toNat + widthM1.toNat + 1 ≤ 64 → let w := widthM1.toNat + 1
      (∃ v : Word, (∀ k, k < 64 → v.getLsbD k = x.getLsbD (pos.toNat + Min.min k (w - 1))) ∧
        Answers (.bfx d a pos widthM1) s (Wrote d v s)) ∧
      (∃ v : Word, (∀ k, k < 64 → v.getLsbD k = (decide (k < w) && x.getLsbD (pos.toNat + k))) ∧
        Answers (.bfxu d a pos widthM1) s (Wrote d v s)) ∧
      (∃ v : Word, (∀ k, k < 64 → v.getLsbD k =
          if pos.toNat ≤ k ∧ k < pos.toNat + w then x.getLsbD (k - pos.toNat) else (s.reg d).getLsbD k) ∧
        Answers (.bfi d a pos widthM1) s (Wrote d v s))

/-- R74, R41: a conditional branch goes 4 × SignExtend(off16) on when its condition holds and to the next word otherwise, and changes nothing else.
R75, R76, R41, R46: `LOOPD` counts down and is taken while its counter is not zero; `JMP` and `JAL` go to the target of off26, `JAL` with the next
word's address in x31; `JR` goes to x[xa][59:0] where bits [1:0] are zero, and takes the illegal-instruction fault where not. -/
def Obligations.BranchesLoopsAndJumpsTransferControl : Prop :=
  (∀ (s : State) (a b : Reg) (off : BitVec 16), let x := s.reg a; let y := s.reg b
     let there := s.self.spt + (4 * off.signExtend 60); let next := s.self.spt + 4
     Answers (.beq a b off) s (Jumped (if x = y then there else next) s) ∧
     Answers (.bne a b off) s (Jumped (if x = y then next else there) s) ∧
     Answers (.blt a b off) s (Jumped (if x.toInt < y.toInt then there else next) s) ∧
     Answers (.bge a b off) s (Jumped (if y.toInt ≤ x.toInt then there else next) s) ∧
     Answers (.bltu a b off) s (Jumped (if x.toNat < y.toNat then there else next) s) ∧
     Answers (.bgeu a b off) s (Jumped (if y.toNat ≤ x.toNat then there else next) s)) ∧
  (∀ (s : State), 
     (∀ (n : BitVec 2) (off : BitVec 16), let c := s.self.icn n.toNat
       Answers (.loopd n off) s (fun t =>
         t.self.icn n.toNat = c - (if c = 0 then 0 else 1) ∧
         (∀ m : BitVec 2, m ≠ n → t.self.icn m.toNat = s.self.icn m.toNat) ∧
         t.self.spt = (if 1 < c.toNat then s.self.spt + 4 * off.signExtend 60 else s.self.spt + 4) ∧
         { t.self with ic := s.self.ic, spt := s.self.spt, waiting := s.self.waiting } = s.self ∧ SameRegs s t ∧ OnlySelf s t)) ∧
     (∀ off : BitVec 26,
       Answers (.jmp off) s (Jumped (s.self.spt + 4 * off.signExtend 60) s) ∧
       Answers (.jal off) s (fun t => RegsBut 31 ((s.self.spt + 4).setWidth 64) s t ∧ t.self.spt = s.self.spt + 4 * off.signExtend 60 ∧
         t.self.alike s.self ∧ OnlySelf s t)) ∧
     ∀ a : Reg, (s.reg a &&& 3 = 0 → Answers (.jr a) s (Jumped ((s.reg a).setWidth 60) s)) ∧
       (s.reg a &&& 3 ≠ 0 → Answers (.jr a) s (Faulted 1 0 s.selfWord 0 s)))

/-- R65-R67, R46: `MFS` writes the value of the system register that R66 lays out; `MTS` writes `IC0`-`IC3` and a `CPNL` below the number of panels of
the set; a larger `CPNL` and every read-only register take the illegal-instruction fault. -/
def Obligations.SystemRegistersReadAndWrite : Prop :=
  ∀ (s : State) (d a : Reg), let t0 := s.self
    Answers (.mfs d .sqid) s (Wrote d (BitVec.ofNat 64 (t0.lead % 512 + (t0.width - 1) % 16 * 2^9 + (t0.height - 1) % 8 * 2^13)) s) ∧
    Answers (.mfs d .jobn) s (Wrote d (BitVec.ofNat 64 (t0.job % 64 + (s.job t0.job).priority % 8 * 2^8)) s) ∧
    Answers (.mfs d .rpli) s (Wrote d (t0.replica.setWidth 64) s) ∧
    Answers (.mfs d .rpln) s (Wrote d (t0.replicas.setWidth 64) s) ∧
    Answers (.mfs d .cyc) s (Wrote d s.cyc s) ∧
    Answers (.mfs d .cpc) s (Wrote d (t0.cpc.setWidth 64) s) ∧
    Answers (.mfs d .spt) s (Wrote d (t0.spt.setWidth 64) s) ∧
    (∀ n, Answers (.mfs d (.ic n)) s (Wrote d ((t0.icn n.toNat).setWidth 64) s)) ∧
    Answers (.mfs d .wgt) s (Wrote d t0.w s) ∧
    Answers (.mfs d .proot) s (Wrote d (t0.proot.setWidth 64) s) ∧
    Answers (.mfs d .kpend) s (Wrote d (t0.kpend.setWidth 64) s) ∧
    Answers (.mfs d .cpnl) s (Wrote d (t0.cpnl.setWidth 64) s) ∧
    (∀ n : BitVec 2, Answers (.mts (.ic n) a) s (fun t =>
      t.self.icn n.toNat = (s.reg a).setWidth 32 ∧ (∀ m : BitVec 2, m ≠ n → t.self.icn m.toNat = t0.icn m.toNat) ∧
      t.self.spt = t0.spt + 4 ∧ { t.self with ic := t0.ic, spt := t0.spt, waiting := t0.waiting } = t0 ∧ SameRegs s t ∧ OnlySelf s t)) ∧
    ((s.reg a).toNat % 2^32 < t0.width * t0.height → t0.width * t0.height ≤ 128 → Answers (.mts .cpnl a) s (fun t =>
      t.self.cpnl.toNat = (s.reg a).toNat % 2^32 ∧ t.self.spt = t0.spt + 4 ∧
      { t.self with cpnl := t0.cpnl, spt := t0.spt, waiting := t0.waiting } = t0 ∧ SameRegs s t ∧ OnlySelf s t)) ∧
    (t0.width * t0.height ≤ (s.reg a).toNat % 2^32 → Answers (.mts .cpnl a) s (Faulted 1 0 s.selfWord 0 s)) ∧
    ∀ r : SysReg, r.writable = false → Answers (.mts r a) s (Faulted 1 0 s.selfWord 0 s)

-- sequencer: memory ---------------------------------------------------------------------------------------

/-- R79, R80, R78, R185: `LDB`, `LDH`, `LDW` and `LDD` zero-extend the 1, 2, 4 or 8 bytes at x[xa] + SignExtend(off16) into x[xd] and change no byte
of memory and no presence. Where the load is performed at once the bytes are those that the die sees; where it is not, its request joins the issue
queue and the register is owed. An access that fails a check takes the fault of the first check that fails. R315, R211, R355: where nothing of the
line stands at its die point or on its way home from there, and for a stream read its panel's buffer holds none, a read returns the bytes at the home
under its page's key; where the die point holds the line's sector, a read that is not taken at the home returns the die point's. Choices of the model
that it rests on: log 2, 4, 83. -/
def Obligations.LoadsReadTheNearestCopy : Prop :=
  (∀ (s : State) (d a : Reg) (off : BitVec 16), let va := s.seqAddr a off
     ∀ f ∈ [((Instr.ldb d a off), 1), ((Instr.ldh d a off), 2), ((Instr.ldw d a off), 4), ((Instr.ldd d a off), 8)],
       (∀ l, s.seqCheck va f.2 .load false = .ok l →
         let r := s.seqReq l va f.2 .read 0 (.reg s.site.strand d.toNat)
         (s.prompt = true → s.Performs r → Answers f.1 s (fun t =>
           Retired d (BitVec.ofNat 64 (s.readValue r)) s t ∧ (s.fill = false → t.reqs = s.reqs) ∧ t.full = s.full ∧ SameBytes s t)) ∧
         (s.prompt = false → Answers f.1 s (fun t =>
           Passed s t ∧ t.reqs = s.reqs ++ [r] ∧ t.self.owedRegs = s.self.owedRegs ++ [d.toNat] ∧ t.full = s.full ∧ SameBytes s t))) ∧
       (∀ e, s.seqCheck va f.2 .load false = .error e → Answers f.1 s (Faulted e.seqClass 0 s.selfWord va s))) ∧
  (∀ (s : State) (r : Req), r.streams = false → r.home % r.size = 0 → (r.size = 1 ∨ r.size = 2 ∨ r.size = 4 ∨ r.size = 8 ∨ r.size = 64) →
     ((r.virt = true → s.OnlyHome r.die (r.home / 128)) → (r.virt = false → r.key = 0 ∧ s.seals = []) →
       s.readValue r = s.peekKey r.key r.home r.size) ∧
     (∀ d, r.virt = true → r.regionKind ≠ 3 → r.atHome = false → s.dieLine r.die (r.home / 128) = some d → d.holds (r.home % 128 / 64) = true →
       s.readValue r = bitsAt d.data.toNat (8 * (r.home % 128)) (8 * r.size)))

/-- R79, R355: `STB`, `STH`, `STW` and `STD` write the low 1, 2, 4 or 8 bytes of the register named at x[xa] + SignExtend(off16), under the page's
key, and no other byte: the home address of the bytes stored is the leaf's. (A dirty sector of the same line is written back first, R315; the frame is
said where there is none.) Registers and presence stand. R84, R42, R190: an atomic reads the 8-byte word at x[xa] at its home, writes the new value
there, and then the old one to x[xd]; `AMCAS` compares with x[xd] as it was. Nothing else of memory changes, and presence stands. Choices of the model
that it rests on: log 2, 4. -/
def Obligations.StoresAndAtomicsWriteTheirBytes : Prop :=
  (∀ (s : State) (v a : Reg) (off : BitVec 16), let va := s.seqAddr a off
     ∀ f ∈ [((Instr.stb v a off), 1), ((Instr.sth v a off), 2), ((Instr.stw v a off), 4), ((Instr.std v a off), 8)],
       (∀ l, s.seqCheck va f.2 .store true = .ok l →
         let r := s.seqReq l va f.2 .write (s.reg v).toNat .none
         (s.prompt = true → s.Performs r → Answers f.1 s (fun t =>
           Passed s t ∧ t.peek l.pa f.2 = (s.reg v).toNat % 2^(8 * f.2) ∧ (s.CleanLine (l.pa / 128) → SameBytesUnder l.key l.pa f.2 s t) ∧
           t.full = s.full ∧ t.reqs = s.reqs)) ∧
         (s.prompt = false → Answers f.1 s (fun t => Passed s t ∧ t.reqs = s.reqs ++ [r] ∧ t.full = s.full ∧ SameBytes s t))) ∧
       (∀ e, s.seqCheck va f.2 .store true = .error e → Answers f.1 s (Faulted e.seqClass 0 s.selfWord va s))) ∧
  (∀ (s : State) (d a b : Reg) (l : Leaf), let va := (s.reg a).toNat; let y := s.reg b
     s.seqCheck va 8 .atomic true = .ok l → s.prompt = true → s.CleanLine (l.pa / 128) → let old := s.peekKey l.key l.pa 8
     ∀ f ∈ [((Instr.amadd d a b), AmoOp.add64, (BitVec.ofNat 64 old + y).toNat),
            ((Instr.amswp d a b), AmoOp.swp64, y.toNat),
            ((Instr.amcas d a b), AmoOp.cas64, if old = (s.reg d).toNat then y.toNat else old),
            ((Instr.ammax d a b), AmoOp.max64, if (BitVec.ofNat 64 old).toInt ≤ y.toInt then y.toNat else old)],
       s.Performs { s.seqReq l va 8 (.amo f.2.1) y.toNat (.reg s.site.strand d.toNat) with expect := s.reg d } →
       Answers f.1 s (fun t => Retired d (BitVec.ofNat 64 old) s t ∧ t.peek l.pa 8 = f.2.2 ∧ SameBytesUnder l.key l.pa 8 s t ∧
         t.full = s.full ∧ t.reqs = s.reqs))

/-- R81-R83: `LDP` of a full word returns its value and leaves presence; of an empty word it waits in the word's deferral set; `STP` to an empty word
writes it and sets it full; to a full word it takes the presence fault and changes neither; `CLRP` empties the word and zeroes it. R82, R220: a
performed `STP` answers a read deferred on its word: the waiting sequencer gets the value. R85, R312, R39: `FENCE` passes once the strand's earlier
writes are performed at the scope and its loads have returned, and drops the fetch lines of its panel and job, so that no fetch there finds a line
that stood before; until then it waits. Choices of the model that it rests on: log 2, 4. -/
def Obligations.PresenceFormsAndFencesOrder : Prop :=
  (∀ (s : State) (d a : Reg) (off : BitVec 16) (l : Leaf), let va := s.seqAddr a off; let y := (s.reg d).toNat
     s.prompt = true → s.self.awaits = none → s.CleanLine (l.pa / 128) → s.NoDeferred →
     (let r := s.seqReq l va 8 .syncRead 0 (.await s.site.strand)
      s.seqCheck va 8 .presence false = .ok l → s.earlier r = false → s.homeHeld r = false →
       (s.isFull l.pa = true → Answers (.ldp d a off) s (fun t => Retired d (BitVec.ofNat 64 (s.peekKey l.key l.pa 8)) s t ∧ t.full = s.full ∧
         t.reqs = s.reqs ∧ SameBytes s t)) ∧
       (s.isFull l.pa = false → Answers (.ldp d a off) s (fun t => SameRegs s t ∧ t.self.spt = s.self.spt ∧ t.self.waiting = true ∧
         t.self.awaits = some r.id ∧ t.full = s.full ∧ SameBytes s t ∧
         t.reqs = s.reqs ++ [{ r with stage := if s.deferralFull r then .home else .deferred }]))) ∧
     (let r := s.seqReq l va 8 .stp y (.await s.site.strand)
      s.seqCheck va 8 .presence true = .ok l → s.performedAt (.seq s.site.strand) 3 = true → s.Performs r →
       (s.isFull l.pa = false → Answers (.stp d a off) s (fun t => Passed s t ∧ t.peek l.pa 8 = y ∧ SameBytesUnder l.key l.pa 8 s t ∧
         (∀ w, t.isFull w = if w / 8 = l.pa / 8 then true else s.isFull w))) ∧
       (s.isFull l.pa = true → Answers (.stp d a off) s (fun t => Faulted 7 0 s.selfWord va s t ∧ t.full = s.full))) ∧
     (s.seqCheck va 8 .presence true = .ok l → s.Performs (s.seqReq l va 8 .clrp 0 .none) →
       Answers (.clrp a off) s (fun t => Passed s t ∧ t.peek l.pa 8 = 0 ∧ SameBytesUnder l.key l.pa 8 s t ∧
         (∀ w, t.isFull w = if w / 8 = l.pa / 8 then false else s.isFull w)))) ∧
  (∀ (s : State) (d a : Reg) (off : BitVec 16) (l : Leaf) (q : Req) (k : Nat), let va := s.seqAddr a off; let y := s.reg d
     s.prompt = true → s.self.awaits = none → s.CleanLine (l.pa / 128) → s.seqCheck va 8 .presence true = .ok l →
     s.performedAt (.seq s.site.strand) 3 = true → s.Performs (s.seqReq l va 8 .stp y.toNat (.await s.site.strand)) →
     s.isFull l.pa = false → s.reqs = [q] → q.stage = .deferred → q.kind = .syncRead → q.home = l.pa → q.size = 8 → q.dest = .await k → q.key = l.key →
     k ≠ s.site.strand → (s.strand k).awaits = some q.id →
     Answers (.stp d a off) s (fun t => t.reqs = [] ∧ (t.strand k).answer = some (true, y))) ∧
  (∀ (s : State) (scope : Scope), let k := Agent.seq s.site.strand
     (s.performedAt k scope.code = true → s.readsReturned k = true → Answers (.fence scope) s (fun t => Passed s t ∧ SameBytes s t ∧
       t.full = s.full ∧ t.reqs = s.reqs ∧
       (∀ va, t.fetchHit s.self.lead s.self.job va = none) ∧
       t.streamLines = (s.streamLines.filter (fun l => !(l.fetch && l.panel == s.self.lead && l.job == s.self.job))).map (fun l =>
         if l.panel = s.self.lead ∧ l.job = s.self.job then { l with fenced := true } else l))) ∧
     ((s.performedAt k scope.code = false ∨ s.readsReturned k = false) → Answers (.fence scope) s (Waited s)))

-- sequencer: control, queues, weights, barriers ------------------------------------------------------------

/-- R94, R92, R381, R93: `NOP` and a `WAITK` of clear tokens go on; `WAITK` waits while a token of its mask is pending; `SNAP` triggers the job's
snapshot for 64 cycles on (or joins the pending one); `TRAP` posts a software event that names its own word, carries x[xa], and leaves the sequencer
stopped. R46, R77, R96, R185: a word that is no instruction takes the illegal-instruction fault, class 1, with the word in the fault register; a word
that cannot be fetched takes the fetch fault, class 2. Either is precise: `cpc`, `spt`, registers, tokens, weight and memory stand. Choices of the
model that it rests on: log 3, 17. -/
def Obligations.ControlFormsRetireWaitOrFault : Prop :=
  (∀ (s : State) (a : Reg) (mask : BitVec 8),
     Answers .nop s (Jumped (s.self.spt + 4) s) ∧
     (s.self.kpend &&& mask = 0 → Answers (.waitk mask) s (Jumped (s.self.spt + 4) s)) ∧
     (s.self.kpend &&& mask ≠ 0 → Answers (.waitk mask) s (Waited s)) ∧
     Answers .snap s (fun t => Passed s t ∧ SameBytes s t ∧ (∀ k, k ≠ s.site.strand → t.strand k = s.strand k) ∧
       { t with strands := s.strands, snapAt := s.snapAt } = s ∧
       ∃ p, t.snapAt = some p ∧ s.self.job ∈ p.jobs ∧ p.at_ = (match s.snapAt with | none => s.cyc + 64 | some q => q.at_)) ∧
     Answers (.trap a) s (fun t => SameRegs s t ∧ t.self.spt = s.self.spt + 4 ∧ SameBytes s t ∧
       t.self.region = { s.self.region with trap := true } ∧
       ({ t.self with region := s.self.region } : Strand).alike s.self ∧ (∀ k, k ≠ s.site.strand → t.strand k = s.strand k) ∧
       { t with strands := s.strands, jobs := s.jobs } = s ∧
       t.job s.self.job = { s.job s.self.job with events := (s.job s.self.job).events ++
         [eventRecord 1 s.self.job s.self.lead s.self.cpc.toNat s.self.spt.toNat (s.reg a).toNat] })) ∧
  (∀ (s : State) (w : BitVec 32),
     Answers (.illegalInstruction w) s (Faulted 1 0 w.toNat 0 s) ∧ Answers .fetchFault s (Faulted 2 0 0 0 s))

/-- R302, R303, R370: a push appends its message to the ring of a queue that its strand may use and that has room, once earlier writes are performed
at the queue's scope and no bank row is held where it has a spill ring; a weighted push gives by the lowest set bit of w, and a borrow raises the
root; with no weight to give it takes the protection fault; with no room it waits; a queue that it may not use is the protection fault. R303, R305,
R378: a push that finds the ring full, or messages spilled, once the refill that is due has been made, writes its message to the tail of the spill
ring; where that write fails its checks the push takes the fault and pushes nothing. Choices of the model that it rests on: log 2, 17, 31, 104, 127. -/
def Obligations.PushesAppendOrSpill : Prop :=
  (∀ (s : State) (a b : Reg), let q := (s.reg a).toNat; let d := s.queue q
     ∀ f ∈ [((Instr.qpush a b), false, [0, 2]), ((Instr.qpushWt a b), true, [0, 1]), ((Instr.spawn a b), true, [1])],
       (s.QueueOpen q f.2.2 →
         (d.spillCount = 0 → d.count < d.depth → (d.spillCap = 0 ∨ s.rowHeld = false) → s.performedAt (.seq s.site.strand) d.scope = true → (f.2.1 = true → s.self.w ≠ 0) →
           Answers f.1 s (fun t => ∃ e left borrowed, (f.2.1 = true → Given s.self.w e left borrowed) ∧
             (f.2.1 = false → left = s.self.w ∧ borrowed = false) ∧ Went 0 0 left s t ∧
             t.peek (s.ringAddr q ((d.head + d.count) % d.depth)) 16 =
               message (s.reg b) (if f.2.1 then some (e, s.self.proot.toNat) else none) ∧
             SameBytesBut (s.ringAddr q ((d.head + d.count) % d.depth)) 16 s t ∧
             t.queue q = { d with count := d.count + 1 } ∧ (∀ p, p ≠ q → t.queue p = s.queue p) ∧
             (∀ r, t.root r = if borrowed = true ∧ r = s.self.proot.toNat then
               { s.root r with expected := (s.root r).expected + BitVec.ofNat 96 (2^32) } else s.root r) ∧
             { t with strands := s.strands, queues := s.queues, roots := s.roots, mem := s.mem } = s)) ∧
         (d.depth ≤ d.count → d.spillCap ≤ d.spillCount → Answers f.1 s (Waited s)) ∧
         (d.spillCount = 0 → d.count < d.depth → (d.spillCap = 0 ∨ s.rowHeld = false) → f.2.1 = true → s.self.w = 0 → Answers f.1 s (Faulted 6 0 s.selfWord q s))) ∧
       (¬ s.QueueOpen q f.2.2 → Answers f.1 s (Faulted 6 0 s.selfWord q s))) ∧
  (∀ (s : State) (a b : Reg), let q := (s.reg a).toNat; let u := s.refill q; let d := u.queue q
     let va := d.spillVa.toNat + 16 * ((d.spillHead + d.spillCount) % d.spillCap)
     s.QueueOpen q [0, 1] → s.self.w ≠ 0 → s.performedAt (.seq s.site.strand) (s.queue q).scope = true → s.rowHeld = false →
     d.spillCount < d.spillCap → (d.spillCount ≠ 0 ∨ d.depth ≤ d.count) → (d.depth ≤ (s.queue q).count → u = s) ∧
     (∀ l, u.checkVirt (.die (q / 256)) (q / 256) d.job va 16 .store true = .ok l → u.queuedAt (u.bankOf l.pa) = [] →
       Answers (.qpushWt a b) s (fun t => ∃ e left borrowed, Given s.self.w e left borrowed ∧ Went 0 0 left s t ∧
         t.peek l.pa 16 = message (s.reg b) (some (e, s.self.proot.toNat)) ∧ (u.CleanLine (l.pa / 128) → SameBytesUnder l.key l.pa 16 u t) ∧
         t.queue q = { d with spillCount := d.spillCount + 1, spillHomes := d.spillHomes ++ [l.tag] } ∧ ∀ p, p ≠ q → t.queue p = s.queue p)) ∧
     (∀ e, u.checkVirt (.die (q / 256)) (q / 256) d.job va 16 .store true = .error e →
       Answers (.qpushWt a b) s (Faulted e.seqClass 0 s.selfWord va s)))

/-- R304: `QPOP` and `QTRY` take the oldest message: its payload goes to x[xd], its weight into w, and the pop acquires at the queue's scope; a
message held under another root takes the protection fault and stays. Of an empty queue `QPOP` waits, and `QTRY` writes all ones and changes nothing
else. Choices of the model that it rests on: log 17, 31, 104. -/
def Obligations.PopsTakeTheOldestMessage : Prop :=
  ∀ (s : State) (d a : Reg), let q := (s.reg a).toNat; let u := s.queue q; let m := s.peek (s.ringAddr q u.head) 16
    s.QueueOpen q [0, 1, 2] → u.bound = none → u.spillCount = 0 →
    (u.count ≠ 0 → (m / 2^70 % 2 = 1 → m / 2^71 % 2^10 = s.self.proot.toNat) →
      ∀ i ∈ [(Instr.qpop d a), (Instr.qtry d a)], Answers i s (fun t =>
        Went d (BitVec.ofNat 64 m) (s.self.w + (if m / 2^70 % 2 = 1 then BitVec.ofNat 64 (2^(63 - m / 2^64 % 64)) else 0)) s t ∧
        t.queue q = { u with head := (u.head + 1) % u.depth, count := u.count - 1 } ∧ (∀ p, p ≠ q → t.queue p = s.queue p) ∧
        t.streamLines = (if u.scope = 0 then s.streamLines
          else s.streamLines.filter (fun l => !(l.panel == s.self.lead && l.job == s.self.job))) ∧
        { t with strands := s.strands, queues := s.queues, streamLines := s.streamLines } = s)) ∧
    (u.count ≠ 0 → m / 2^70 % 2 = 1 → m / 2^71 % 2^10 ≠ s.self.proot.toNat →
      ∀ i ∈ [(Instr.qpop d a), (Instr.qtry d a)], Answers i s (fun t => Faulted 6 0 s.selfWord q s t ∧ t.queues = s.queues)) ∧
    (u.count = 0 → Answers (.qpop d a) s (Waited s) ∧ Answers (.qtry d a) s (Wrote d (BitVec.allOnes 64) s))

/-- R374, R375: `QROOT` pushes (PROOT, w), takes a free root of the lead panel's die with 1.0 issued under it, and writes its number; with 8 entries
on the stack it takes the protection fault, and with no root free it waits. `WRET` moves x[xa] from w to the root's returned register; more than w is
the protection fault. R376, R377: `WAITQ` of the nested root under PROOT returns w; where the root is then quiet it releases it and pops the stack,
and otherwise it waits with w zero. `QCHK` writes expected − returned of a root of its job in the format of w, 2.0 and more as all ones. Choices of
the model that it rests on: log 17, 22, 29, 30, 100. -/
def Obligations.RootsAreOpenedAwaitedAndRead : Prop :=
  (∀ (s : State) (d a : Reg), let u := s.self; let base := 256 * dieOf u.lead
     (u.stack.length < 8 → (∃ n, n < 256 ∧ (s.root (base + n)).kind = 0) → Answers (.qroot d) s (fun t => ∃ r, base ≤ r ∧ r < base + 256 ∧
       (s.root r).kind = 0 ∧ RegsBut d (BitVec.ofNat 64 r) s t ∧ t.self.spt = u.spt + 4 ∧ t.self.stack = (u.proot, u.w) :: u.stack ∧
       t.self.proot = BitVec.ofNat 10 r ∧ t.self.w = 0x8000000000000000 ∧
       ({ t.self with w := u.w, proot := u.proot, stack := u.stack } : Strand).alike u ∧
       t.root r = { expected := 2^64, returned := 0, kind := 2, job := u.job, parent := u.proot, waiter := false } ∧
       (∀ p, p ≠ r → t.root p = s.root p) ∧ { t with strands := s.strands, roots := s.roots } = s ∧
       ∀ k, k ≠ s.site.strand → t.strand k = s.strand k)) ∧
     (u.stack.length < 8 → (∀ n, n < 256 → (s.root (base + n)).kind ≠ 0) → Answers (.qroot d) s (Waited s)) ∧
     (8 ≤ u.stack.length → Answers (.qroot d) s (Faulted 6 0 s.selfWord u.proot.toNat s)) ∧
     ((s.reg a).toNat ≤ u.w.toNat → s.performedAt (.seq s.site.strand) 3 = true → Answers (.wret a) s (fun t =>
       Went 0 0 (u.w - s.reg a) s t ∧
       (∀ p, t.root p = if p = u.proot.toNat then { s.root p with returned := (s.root p).returned + BitVec.ofNat 96 ((s.reg a).toNat * 2) }
         else s.root p) ∧ { t with strands := s.strands, roots := s.roots } = s)) ∧
     (u.w.toNat < (s.reg a).toNat → Answers (.wret a) s (Faulted 6 0 s.selfWord u.proot.toNat s))) ∧
  (∀ (s : State) (d a : Reg), let u := s.self; let r := (s.reg a).toNat
     let back := (s.root r).returned + BitVec.ofNat 96 (u.w.toNat * 2)
     (r = u.proot.toNat → (s.root r).kind = 2 → s.performedAt (.seq s.site.strand) 3 = true →
       (∀ p w rest, u.stack = (p, w) :: rest → back = (s.root r).expected → Answers (.waitq a) s (fun t => SameRegs s t ∧
         t.self.spt = u.spt + 4 ∧ t.self.proot = p ∧ t.self.w = w ∧ t.self.stack = rest ∧
         ({ t.self with w := u.w, proot := u.proot, stack := u.stack } : Strand).alike u ∧
         (∀ p, t.root p = if p = r then {} else s.root p) ∧
         t.streamLines = s.streamLines.filter (fun l => !(l.panel == u.lead && l.job == u.job)) ∧
         { t with strands := s.strands, roots := s.roots, streamLines := s.streamLines } = s)) ∧
       (back ≠ (s.root r).expected → Answers (.waitq a) s (fun t => SameRegs s t ∧ t.self.spt = u.spt ∧ t.self.waiting = true ∧
         t.self.w = 0 ∧ t.self.stack = u.stack ∧ ({ t.self with w := u.w } : Strand).alike u ∧
         (∀ p, t.root p = if p = r then { s.root r with returned := back, waiter := true } else s.root p) ∧
         { t with strands := s.strands, roots := s.roots } = s))) ∧
     ((r ≠ u.proot.toNat ∨ (s.root r).kind ≠ 2) → Answers (.waitq a) s (Faulted 6 0 s.selfWord r s)) ∧
     (r < 2^10 → (s.root r).kind ≠ 0 → (s.root r).job = u.job → let diff := ((s.root r).expected - (s.root r).returned).toNat
       Answers (.qchk d a) s (fun t => Went d (if diff < 2^65 then BitVec.ofNat 64 (diff / 2) else BitVec.allOnes 64) u.w s t ∧
         t.streamLines = s.streamLines.filter (fun l => !(l.panel == u.lead && l.job == u.job)) ∧
         { t with strands := s.strands, streamLines := s.streamLines } = s)) ∧
     (r < 2^10 → ((s.root r).kind = 0 ∨ (s.root r).job ≠ u.job) → Answers (.qchk d a) s (Faulted 6 0 s.selfWord r s)))

/-- R359-R361: `BARI` claims or resets a barrier for the arrivals and scope of x[xb], with nothing outstanding of an earlier phase; a valid barrier
keeps its phase. N = 0 frees a valid barrier between phases that nothing waits on. A choice of the model that it rests on: log 22. -/
def Obligations.BarriersAreClaimedAndFreed : Prop :=
  ∀ (s : State) (a b : Reg), let h := (s.reg a).toNat; let v := (s.reg b).toNat; let k := h / 2^7 % 4 * 128 + h % 2^7
    let x := s.barrier k; let n := v % 2^16; let scope := v / 2^16 % 8; let u := s.self
    let mine : Prop := x.job = u.job ∧ withinScope x.scope (k / 128) x.home (clusterOf x.home) u.lead = true
    let between : Prop := x.outstanding = x.n ∧ x.pending = 0
    let only (y : Barrier) (t : State) : Prop := Passed s t ∧ (∀ j, t.barrier j = if j = k then y else s.barrier j) ∧
      (∀ j, j ≠ s.site.strand → t.strand j = s.strand j) ∧ { t with strands := s.strands, barriers := s.barriers } = s
    h < 2^10 → v < 2^19 → scope ≤ 3 →
    (n ≠ 0 → (x.valid = true → mine ∧ between) → (k / 128 = dieOf u.lead ∨ 2 ≤ scope) → Answers (.bari a b) s (only
      { valid := true, job := u.job, scope, home := u.lead % 128, n, outstanding := n, pending := 0,
        phase := x.valid && x.phase, waiting := x.waiting, issuer := some s.site.strand })) ∧
    (n = 0 → x.valid = true → mine → between → x.waiting = [] → Answers (.bari a b) s (only { x with valid := false })) ∧
    (x.valid = true → (¬ mine ∨ ¬ between) → Answers (.bari a b) s (Faulted 6 0 s.selfWord h s)) ∧
    (n = 0 → (x.valid = false ∨ x.waiting ≠ []) → Answers (.bari a b) s (Faulted 6 0 s.selfWord h s)) ∧
    (n ≠ 0 → k / 128 ≠ dieOf u.lead → scope < 2 → Answers (.bari a b) s (Faulted 6 0 s.selfWord h s))

/-- R362-R364: `BARA` and `BARX` count one arrival, and `BARX` its bytes, once earlier writes are performed at the scope; with nothing outstanding and
no byte pending the phase completes. Until then they wait; an arrival that then finds none outstanding takes the protection fault. `BARW` passes where
the phase differs from P, and waits, marked, where not; no other strand's mark changes. A choice of the model that it rests on: log 22. -/
def Obligations.BarriersCountAndRelease : Prop :=
  ∀ (s : State) (a b : Reg), let h := (s.reg a).toNat; let k := h / 2^7 % 4 * 128 + h % 2^7; let x := s.barrier k; let u := s.self
    let only (y : Barrier) (t : State) : Prop := (∀ j, t.barrier j = if j = k then y else s.barrier j) ∧
      (∀ j, j ≠ s.site.strand → t.strand j = s.strand j) ∧
      { t with strands := s.strands, barriers := s.barriers, streamLines := s.streamLines } = s
    h < 2^10 → x.valid = true → x.job = u.job → withinScope x.scope (k / 128) x.home (clusterOf x.home) u.lead = true →
    (∀ f ∈ [((Instr.bara a), 0), ((Instr.barx a b), (s.reg b).toNat)], f.2 < 2^47 →
      (x.outstanding ≠ 0 → s.performedAt (.seq s.site.strand) x.scope = true → let pending := x.pending + BitVec.ofNat 48 f.2
        Answers f.1 s (fun t => Passed s t ∧ t.streamLines = s.streamLines ∧
          only (if x.outstanding = 1 ∧ pending = 0 then { x with phase := !x.phase, outstanding := x.n, pending := 0 }
            else { x with outstanding := x.outstanding - 1, pending := pending }) t)) ∧
      (s.performedAt (.seq s.site.strand) x.scope = false → Answers f.1 s (Waited s)) ∧
      (x.outstanding = 0 → s.performedAt (.seq s.site.strand) x.scope = true → Answers f.1 s (Faulted 6 0 s.selfWord h s))) ∧
    (2^47 ≤ (s.reg b).toNat → Answers (.barx a b) s (Faulted 6 0 s.selfWord h s)) ∧
    (x.phase ≠ decide (h / 2^9 % 2 = 1) → Answers (.barw a) s (fun t => Passed s t ∧ only { x with waiting := x.waiting.filter (fun j => j != s.site.strand) } t ∧
      t.streamLines = (if x.scope = 0 then s.streamLines
        else s.streamLines.filter (fun l => !(l.panel == u.lead && l.job == u.job))))) ∧
    (x.phase = decide (h / 2^9 % 2 = 1) → Answers (.barw a) s (fun t => SameRegs s t ∧ t.self.spt = u.spt ∧ t.self.waiting = true ∧
      t.self.alike u ∧ only { x with waiting := if s.site.strand ∈ x.waiting then x.waiting else s.site.strand :: x.waiting } t ∧ t.streamLines = s.streamLines))

-- sequencer: commands, configuration, the end of a strand ------------------------------------------------------

/-- R90, R297, R12, R13: `CMD` and `CMDNB` wait for their mask and for the token that they mark; they put the pair of registers at the tail of the
queue of the AGE at (7, row) of panel `CPNL` and mark the token. A queue of 16 takes 14 words, and two more of the signal class or a shape word. Where
it cannot accept, `CMD` waits and `CMDNB` writes 1; a `CMDNB` that queues writes 0. -/
def Obligations.CommandsAreQueued : Prop :=
  ∀ (s : State) (c : Qc), let u := s.self; let e := u.ageAt u.cpnl.toNat c.row.toNat; let q := (s.elem e).age
    let raw : BitVec 128 := BitVec.ofNat 128 ((s.reg c.xs).toNat + (s.reg (c.xs + 1)).toNat * 2^64)
    let op := raw.toNat / 2^120; let signal : Prop := op = 0x24 ∨ op = 0x25 ∨ op = 0x26
    let room : Prop := q.queue.length < 14 ∨ (q.queue.length < 16 ∧ (q.shapeOwed = true ∨ signal))
    let bits : BitVec 8 := if c.named then BitVec.ofNat 8 (2^c.token.toNat) else 0
    (u.kpend &&& c.wait ≠ 0 → Answers (.cmd c) s (Waited s) ∧ Answers (.cmdnb c) s (Waited s)) ∧
    (u.kpend &&& bits ≠ 0 → Answers (.cmd c) s (Waited s) ∧ Answers (.cmdnb c) s (Waited s)) ∧
    (u.kpend &&& c.wait = 0 → u.kpend &&& bits = 0 →
      (room → ∀ f ∈ [((Instr.cmd c), false), ((Instr.cmdnb c), true)], Answers f.1 s (fun t =>
        (∀ r, t.reg r = if f.2 = true ∧ r = c.xs then 0 else s.reg r) ∧ t.self.spt = u.spt + 4 ∧ t.self.kpend = u.kpend ||| bits ∧
        ({ t.self with kpend := u.kpend, handles := u.handles } : Strand).alike u ∧
        (∀ n, (c.named = false ∨ n ≠ c.token.toNat) → t.self.handles.look 0 n = u.handles.look 0 n) ∧ (∀ k, k ≠ s.site.strand → t.strand k = s.strand k) ∧
        (t.elem e).age.queue = q.queue ++ [{ raw, token := if c.named then some c.token.toNat else none, shape := q.shapeOwed }] ∧
        (t.elem e).age.shapeOwed = (!q.shapeOwed && (op == 0x02 || op == 0x03 || op == 0x06 || op == 0x07)) ∧
        { t.elem e with age := { (t.elem e).age with queue := q.queue, shapeOwed := q.shapeOwed } } = s.elem e ∧
        (∀ n, n ≠ e → t.elem n = s.elem n) ∧ { t with strands := s.strands, elems := s.elems } = s)) ∧
      (¬ room → Answers (.cmd c) s (Waited s) ∧ Answers (.cmdnb c) s (Wrote c.xs 1 s)))

/-- R86, R88, R27: `CFGWT` waits for the drain. `CFGGO` issues `GO` to every configured element of the set and to no other, and changes nothing else;
in a part of a cut graph it waits until every part is loaded. R87, R96: `CFGLD` of a record that passes every check loads its image on the drained
set, sets `cpc` to the record and goes on; no element has `GO`. The first check that fails is the configuration fault with its cause, or the access
fault, and changes nothing. While a bank row is held the load waits (R286). R89: `CFGNX` loads the record that the present one names, issues `GO`, and
goes to its script; a fault leaves `cpc` and `spt`; with no next record it performs `HALT`. Choices of the model that it rests on: log 21, 57, 87,
104. -/
def Obligations.ConfigurationsAreLoadedAndStarted : Prop :=
  (∀ (s : State),
     (s.drained s.site.strand = true → Answers .cfgwt s (Jumped (s.self.spt + 4) s)) ∧
     (s.drained s.site.strand = false → Answers .cfgwt s (Waited s) ∧ (∀ a, Answers (.cfgld a) s (Waited s)) ∧ Answers .cfgnx s (Waited s)) ∧
     ((∃ p, s.partOf s.self = some p ∧ s.groupLoaded p.group = false) → Answers .cfggo s (Waited s)) ∧
     ((∀ p, s.partOf s.self = some p → s.groupLoaded p.group = true) →
      Answers .cfggo s (fun t => Passed s t ∧ SameBytes s t ∧ (∀ k, k ≠ s.site.strand → t.strand k = s.strand k) ∧
       (∀ e, t.elem e = if e ∈ s.self.elems ∧ (s.elem e).configured = true then { s.elem e with go := true } else s.elem e) ∧
       { t with strands := s.strands, elems := s.elems } = s))) ∧
  (∀ (s : State) (a : Reg), let u := s.self; let at_ := if a = 0 then u.cpc.toNat else (s.reg a).toNat % 2^60
     s.drained s.site.strand = true → (s.rowHeld = true → Answers (.cfgld a) s (Waited s)) ∧ (s.rowHeld = false →
     (∀ p, s.loadCheck s.site.strand at_ = .ok p → Answers (.cfgld a) s (fun t => LoadedBy p s t ∧ SameRegs s t ∧
       t.self.cpc = BitVec.ofNat 60 at_ ∧ t.self.spt = u.spt + 4 ∧ ({ t.self with cpc := u.cpc } : Strand).alike u ∧
       ∀ e ∈ u.elems, (t.elem e).go = false)) ∧
     (∀ n, s.loadCheck s.site.strand at_ = .error (.cause n) → Answers (.cfgld a) s (Faulted 8 n s.selfWord at_ s)) ∧
     (∀ e va, s.loadCheck s.site.strand at_ = .error (.access e va) → Answers (.cfgld a) s (Faulted e.seqClass 0 s.selfWord va s)))) ∧
  (∀ (s : State) (v : Nat), let u := s.self; let k := s.site.strand
     s.drained k = true → s.rowHeld = false → s.readVirtNat (.seq k) (dieOf u.lead) u.job u.cpc.toNat 32 = .ok v → let n := v / 2^128 % 2^60
     (n ≠ 0 → (∀ p, s.loadCheck k n = .ok p → Answers .cfgnx s (fun t => LoadedBy p s t ∧ SameRegs s t ∧ t.self.cpc = BitVec.ofNat 60 n ∧
         t.self.spt = BitVec.ofNat 60 (p.record.image + p.record.script) ∧ ({ t.self with cpc := u.cpc } : Strand).alike u ∧
         ∀ e ∈ u.elems, (t.elem e).go = (t.elem e).configured)) ∧
       (∀ c, s.loadCheck k n = .error (.cause c) → Answers .cfgnx s (Faulted 8 c s.selfWord n s))) ∧
     (n = 0 → exec .cfgnx s = exec .halt s))

/-- R95, R17, R222, R366: `HALT` waits for the drain, its tokens, its writes and its loads; then the strand's weight returns to its root, its page set
is freed to zeroing, and its launch has one replica fewer to wait for. R19, R94: `YIELD` goes on in a strand that is not carried, where a pending
pre-emption now halts the job; a carried strand ends its part in the phase: its weight returns, it goes to the next word, and its launch waits for one
replica fewer; with an open nested root it takes the protection fault. Choices of the model that it rests on: log 53, 66. -/
def Obligations.HaltAndYieldEndTheStrand : Prop :=
  (∀ (s : State), let u := s.self; let k := s.site.strand; let l : Launch := (s.job u.job).launches.look {} u.node
     let settled : Prop := s.drained k = true ∧ u.kpend = 0 ∧ s.performedAt (.seq k) 3 = true ∧ s.readsReturned (.seq k) = true
     (settled → Answers .halt s (fun t => t.self.run = .complete ∧ t.self.w = 0 ∧ t.self.stack = [] ∧
       (∀ j, j ≠ k → t.strand j = s.strand j) ∧ (∀ p, t.panels.look {} p = if p ∈ u.panels then { s.panels.look {} p with state := 1 }
         else s.panels.look {} p) ∧
       (u.stack = [] → SameBytes s t ∧ ∀ r, t.root r = if r = u.proot.toNat then
         { s.root r with returned := (s.root r).returned + BitVec.ofNat 96 (u.w.toNat * 2) } else s.root r) ∧
       (l.left ≠ 0 → let m : Launch := (t.job u.job).launches.look {} u.node
         m.left = l.left - 1 ∧ m.complete = (l.complete || l.left == 1)))) ∧
     (¬ settled → Answers .halt s (Waited s))) ∧
  (∀ (s : State), let u := s.self; let k := s.site.strand; let l : Launch := (s.job u.job).launches.look {} u.node
     let settled : Prop := s.drained k = true ∧ u.kpend = 0 ∧ s.performedAt (.seq k) 3 = true ∧ s.readsReturned (.seq k) = true
     (u.carried = false → (s.job u.job).preemptAt = none → Answers .yield s (Jumped (u.spt + 4) s)) ∧
     (u.carried = false → (s.job u.job).preemptAt.isSome = true → u.onFabric = true → Answers .yield s (fun t => SameRegs s t ∧ SameBytes s t ∧
       t.self.spt = u.spt + 4 ∧ t.self.w = u.w ∧ t.self.kpend = u.kpend ∧ (t.self.region.state = if u.region.state = .running then .freezing
         else u.region.state) ∧ (∀ j, (s.strand j).job ≠ u.job → t.strand j = s.strand j) ∧ t.elems = s.elems ∧
       t.job u.job = { s.job u.job with preempting := true, preemptAt := none })) ∧
     (u.carried = true → u.stack ≠ [] → Answers .yield s (Faulted 6 0 s.selfWord u.proot.toNat s)) ∧
     (u.carried = true → u.stack = [] → settled → Answers .yield s (fun t => SameRegs s t ∧ t.self.spt = u.spt + 4 ∧ t.self.w = 0 ∧
       t.self.run = .yielded ∧ ({ t.self with w := u.w, run := u.run } : Strand).alike u ∧ SameBytes s t ∧ t.elems = s.elems ∧
       (∀ j, j ≠ k → t.strand j = s.strand j) ∧ (∀ r, t.root r = if r = u.proot.toNat then
         { s.root r with returned := (s.root r).returned + BitVec.ofNat 96 (u.w.toNat * 2) } else s.root r) ∧
       (l.left ≠ 0 → ((t.job u.job).launches.look {} u.node : Launch).left = l.left - 1))) ∧
     (u.carried = true → u.stack = [] → ¬ settled → Answers .yield s (Waited s)))

-- elements: row forms ------------------------------------------------------------------------------------------

/-- R136-R140, R126-R133: a floating-point form whose operand rows stand ready fires: it takes one token from each input that it names, sends on every
output the row of its results, each rounded once in the mode of the slot, and advances idx. Choices of the model that it rests on: log 5, 6, 14, 15. -/
def Obligations.FpFormsFire : Prop :=
  ∀ (s : State) (sl : Slot) (t : FFmt) (rows : List Row), let el := s.elem s.site.elem; let m := slotMode sl; let v := t.read
    numOf el.fmt = some (.flt t) →
    (∀ f ∈ ([(0x10, .fadd sl, fun a b _ => t.sum m (v a) (v b)),
        (0x11, .fsub sl, fun a b _ => t.sumZ m (zeroOf m (v a) (v b)) (v a) (v b).neg),
        (0x12, .fmul sl, fun a b _ => t.ofVal m false ((v a).mul (v b))),
        (0x13, .ffma sl, fun a b c => t.sum m ((v a).mul (v b)) (v c)),
        (0x14, .fmin sl, fun a b _ => t.min a b),
        (0x15, .fmax sl, fun a b _ => t.max a b),
        (0x16, .fcmp sl, fun a b _ => if fcmpHolds t sl.imm.toNat a b then 2^t.bits - 1 else 0),
        (0x17, .frnd sl, fun a _ _ => t.rnd m a),
        (0x18, .fexpx sl, fun a _ _ => t.expx el.fmt a),
        (0x19, .fexpi sl, fun a b _ => t.expi m a b),
        (0x1D, .fclas sl, fun a _ _ => fclass t a)] : List (Nat × Instr × (Nat → Nat → Nat → Nat))),
      RowReady f.1 sl t.bits rows s → Answers f.2.1 s (RowFired f.1 sl (laneWise f.1 sl t.bits f.2.2 rows) s)) ∧
    (t = fp32 → ∀ f ∈ ([(0x1A, .fexp2f sl, fexp2), (0x1B, .frcp sl, frcp), (0x1C, .frsq sl, frsq)] : List (Nat × Instr × (Nat → Nat))),
      RowReady f.1 sl 32 rows s → Answers f.2.1 s (RowFired f.1 sl (laneWise f.1 sl 32 (fun a _ _ => f.2.2 a) rows) s))

/-- R141, R100: an integer form whose operand rows stand ready fires with the exact result reduced to the format, by SAT or modulo; the bit forms act
in every format that has elements. R100: an exact result reduced to a format: without SAT it is congruent modulo 2^n and in range; with SAT it is
clamped to the format's least and greatest value. -/
def Obligations.IntFormsFireReduced : Prop :=
  (∀ (s : State) (sl : Slot) (rows : List Row), let el := s.elem s.site.elem
     (∀ i : IFmt, numOf el.fmt = some (.int i) → let v := i.val; let red := i.reduce (slotSat sl)
       ∀ f ∈ ([(0x20, .iadd sl, fun a b _ => red (v a + v b)),
         (0x21, .isub sl, fun a b _ => red (v a - v b)),
         (0x22, .imul sl, fun a b _ => red (v a * v b)),
         (0x23, .imad sl, fun a b c => red (v a * v b + v c)),
         (0x24, .imin sl, fun a b _ => if v a ≤ v b then a else b),
         (0x25, .imax sl, fun a b _ => if v a ≤ v b then b else a),
         (0x29, .ishl sl, fun a b _ => shiftLeft i (slotSat sl) a b),
         (0x2A, .ishr sl, fun a b _ => if i.n ≤ b % 2^i.n then 0 else a % 2^i.n / 2^(b % 2^i.n)),
         (0x2B, .isar sl, fun a b _ => shiftArith i a b),
         (0x2C, .icmp sl, fun a b _ => if icmpHolds i sl.imm.toNat a b then 2^i.n - 1 else 0),
         (0x2D, .iclz sl, fun a _ _ => leadingZeros i.n a),
         (0x2E, .ipopc sl, fun a _ _ => setBits i.n a)] : List (Nat × Instr × (Nat → Nat → Nat → Nat))),
       RowReady f.1 sl i.n rows s → Answers f.2.1 s (RowFired f.1 sl (laneWise f.1 sl i.n f.2.2 rows) s)) ∧
     (∀ t : Machine.Num, numOf el.fmt = some t →
       ∀ f ∈ ([(0x26, .iand sl, fun a b _ => a &&& b), (0x27, .ior sl, fun a b _ => a ||| b), (0x28, .ixor sl, fun a b _ => a ^^^ b),
         (0x2F, .isel sl, fun a b c => if c ≠ 0 then a else b)] : List (Nat × Instr × (Nat → Nat → Nat → Nat))),
       RowReady f.1 sl t.bits rows s → Answers f.2.1 s (RowFired f.1 sl (laneWise f.1 sl t.bits f.2.2 rows) s))) ∧
  (∀ (i : IFmt) (v : Int), 1 ≤ i.n →
     i.reduce false v < 2^i.n ∧ i.reduce true v < 2^i.n ∧
     (i.val (i.reduce false v) - v) % (2^i.n : Int) = 0 ∧ i.min ≤ i.val (i.reduce false v) ∧ i.val (i.reduce false v) ≤ i.max ∧
     i.val (i.reduce true v) = (if v < i.min then i.min else if i.max < v then i.max else v))

/-- R146, R147, R162, R145: a reduction of one token emits the result of the fixed tree in element 0; `SCAN` emits the inclusive prefix from its carry
and keeps the last; `XPND` emits the expansion of its operand; `BFLY` within a token adds and subtracts at its stride, and across two tokens sends
sums on its lower output and differences on its higher. R146, R124, R133: in segment mode a reduction folds each token into its carry and emits
nothing; a `STOP` closes the fibre: the carry, or the identity of an empty fibre, goes out before it, and idx and carry reset. A choice of the model
that it rests on: log 15. -/
def Obligations.ReductionsScansAndButterfliesFire : Prop :=
  (∀ (s : State) (sl : Slot) (t : Machine.Num) (rows : List Row), let el := s.elem s.site.elem; let n := s.site.slot
     numOf el.fmt = some t →
     (sl.imm.toNat % 2 = 0 → ∀ f ∈ ([(0x38, .rsum sl), (0x39, .rmax sl), (0x3A, .rmin sl)] : List (Nat × Instr)),
       RowReady f.1 sl t.bits rows s → Answers f.2 s (RowFired f.1 sl
         (packRow t.bits [treeSum (reduceTwo t f.1 (slotMode sl)) (512 / t.bits).log2 (rowElems t.bits (rows.getD 0 0))]) s)) ∧
     (RowReady 0x3B sl t.bits rows s →
       let p := prefixFrom (reduceTwo t 0x38 (slotMode sl)) t.canon ((el.slot n).carry.map BitVec.toNat) (rowElems t.bits (rows.getD 0 0))
       Answers (.scan sl) s (fun u => SameBytes s u ∧ Fired
         (((el.updSlot n (fun x => { x with carry := p.2.map (BitVec.ofNat 64) })).tileWrite n sl (packRow t.bits p.1)).tick n)
         (slotChannels 0x3B sl) (toPorts sl.outmask (Token.dat (packRow t.bits p.1))) s u)) ∧
     (RowReady 0x53 { sl with mod := 8 } t.bits rows s → sl.mod = 0 →
       Answers (.xpnd sl) s (RowFired 0x53 { sl with mod := 8 } (rows.getD 0 0) s)) ∧
     ∀ f : FFmt, t = .flt f → let k := sl.imm.toNat % 8
       (2^k ≠ 512 / f.bits → RowReady 0x33 sl f.bits rows s → Answers (.bfly sl) s
         (RowFired 0x33 sl (packRow f.bits (butterfly f (slotMode sl) k (rowElems f.bits (rows.getD 0 0)))) s)) ∧
       (2^k = 512 / f.bits → el.rowsAt (slotChannels 0x33 sl) → s.operandRows s.site.elem n sl f.bits false [sl.in0, sl.in1] = .ok rows →
         ∀ p q, maskPorts sl.outmask = [p, q] →
         let x := rowElems f.bits (rows.getD 0 0); let z := rowElems f.bits (rows.getD 1 0)
         let out := [(p, Token.dat (packRow f.bits ((x.zip z).map (fun y => f.add (slotMode sl) y.1 y.2)))),
           (q, Token.dat (packRow f.bits ((x.zip z).map (fun y => f.sub (slotMode sl) y.1 y.2))))]
         CanFire 0x33 sl false out s → Answers (.bfly sl) s (fun u => SameBytes s u ∧ Fired (el.tick n) (slotChannels 0x33 sl) out s u))) ∧
  (∀ (s : State) (sl : Slot) (t : Machine.Num) (tok : Token), let el := s.elem s.site.elem; let n := s.site.slot; let p := sl.in0.toNat
     numOf el.fmt = some t → sl.imm.toNat % 2 = 1 → p < 8 → slotXi sl = false → el.head p = some tok →
     ∀ f ∈ ([(0x38, .rsum sl), (0x39, .rmax sl), (0x3A, .rmin sl)] : List (Nat × Instr)),
       (tok.kind = .data → tok.tile = false → CanFire f.1 sl false [] s →
         let r := reduceRow t f.1 (slotMode sl) tok.row
         let v := match (el.slot n).carry with | none => r | some c => reduceTwo t f.1 (slotMode sl) c.toNat r
         Answers f.2 s (fun u => SameBytes s u ∧
           Fired ((el.updSlot n (fun x => { x with carry := some (BitVec.ofNat 64 v) })).tick n) [p] [] s u)) ∧
       (∀ k, tok.kind = .stop k →
         let v := match (el.slot n).carry with | some c => c.toNat | none => reduceIdentity t f.1
         let out := toPorts sl.outmask (Token.dat (packRow t.bits [v])) ++ toPorts sl.outmask tok
         CanFire f.1 sl false out s → Answers f.2 s (fun u => SameBytes s u ∧
           Fired (el.updSlot n (fun x => { x with idx := 0, carry := none })) [p] out s u)))

/-- R142-R144, R134, R98: `CVT` takes the rows that fill its output rows, converts every element and packs them; `QNT4` takes six rows of FP32 and
sends one group of 96 quantised elements; `DQN4` sends the rows of the 96 values of a group. Choices of the model that it rests on: log 16, 18. -/
def Obligations.ConversionFormsFire : Prop :=
  ∀ (s : State) (sl : Slot) (rows : List Row), let el := s.elem s.site.elem; let n := s.site.slot; let p := sl.in0.toNat
    p < 8 → slotXi sl = false →
    (∀ src dst, numOf (sl.imm.toNat % 256) = some src → numOf el.fmt = some dst →
      let ns := 512 / src.bits; let nd := 512 / dst.bits; let g := Nat.gcd ns nd
      rows.length = nd / g → (∃ rest, el.standing p = rows.map Token.dat ++ rest) →
      let outs := (chunksOf nd (ns / g) ((rowsElems src.bits rows).map (convert src dst (slotMode sl) (slotSat sl)))).map (packRow dst.bits)
      let out := outs.flatMap (fun x => toPorts sl.outmask (Token.dat x))
      CanFire 0x30 sl false out s → Answers (.cvt sl) s (fun u => SameBytes s u ∧
        Fired ((el.tileWrite n sl (outs.getD 0 0)).tick n) (List.replicate (nd / g) p) out s u)) ∧
    (isBlk el.fmt = true → rows.length = 6 → (∃ rest, el.standing p = rows.map Token.dat ++ rest) →
      let r := quantGroup el.fmt (slotMode sl) (rowsElems 32 rows) 96
      CanFire 0x31 sl false (toPorts sl.outmask (Token.dat r)) s → Answers (.qnt4 sl) s (fun u => SameBytes s u ∧
        Fired ((el.tileWrite n sl r).tick n) (List.replicate 6 p) (toPorts sl.outmask (Token.dat r)) s u)) ∧
    (isBlk el.fmt = true → ∀ tok, el.head p = some tok → tok.kind = .data → tok.tile = false →
      let t : FFmt := if sl.imm.toNat % 4 = 0 then fp32 else if sl.imm.toNat % 4 = 1 then fp16 else bf16
      let vs := (groupVals el.fmt tok.row.toNat).map (t.ofVal (slotMode sl) false)
      let out := (chunksOf (512 / t.bits) (96 / (512 / t.bits)) vs).flatMap (fun l => toPorts sl.outmask (Token.dat (packRow t.bits l)))
      CanFire 0x32 sl false out s → Answers (.dqn4 sl) s (fun u => SameBytes s u ∧ Fired (el.tick n) [p] out s u))

/-- R133: the general control rule. Where the same control token stands at every input that a form names, one firing takes it from each, sends it on
every output, and resets idx and carry. R164, R186, R189, R133: a firing that would fault does not begin. Where control and data, or two kinds of
control, stand at the inputs of a form, the element records cause 1 with the lowest input that holds a control token, where a tile token stands for a
row, cause 4, and where an index selects no valid entry, cause 3: no token moves, and the region freezes. Choices of the model that it rests on: log
32, 33, 98. -/
def Obligations.ControlPassesAndFaultsAreRecorded : Prop :=
  (∀ (s : State) (sl : Slot) (tok : Token), let el := s.elem s.site.elem
     tok.kind.isControl = true →
     let passes (code : Nat) (i : Instr) : Prop := slotChannels code sl ≠ [] → (∀ p ∈ slotChannels code sl, el.head p = some tok) →
       CanFire code sl false (toPorts sl.outmask tok) s → Answers i s (fun u => SameBytes s u ∧
         Fired (el.updSlot s.site.slot (fun x => { x with idx := 0, carry := none })) (slotChannels code sl) (toPorts sl.outmask tok) s u)
     (∀ f, numOf el.fmt = some (.flt f) → passes 0x10 (.fadd sl) ∧ passes 0x11 (.fsub sl) ∧ passes 0x12 (.fmul sl) ∧ passes 0x13 (.ffma sl) ∧
       passes 0x14 (.fmin sl) ∧ passes 0x15 (.fmax sl) ∧ passes 0x16 (.fcmp sl) ∧ passes 0x17 (.frnd sl) ∧ passes 0x18 (.fexpx sl) ∧
       passes 0x19 (.fexpi sl) ∧ passes 0x1A (.fexp2f sl) ∧ passes 0x1B (.frcp sl) ∧ passes 0x1C (.frsq sl) ∧ passes 0x1D (.fclas sl) ∧
       passes 0x33 (.bfly sl)) ∧
     (∀ i, numOf el.fmt = some (.int i) → passes 0x20 (.iadd sl) ∧ passes 0x21 (.isub sl) ∧ passes 0x22 (.imul sl) ∧ passes 0x23 (.imad sl) ∧
       passes 0x24 (.imin sl) ∧ passes 0x25 (.imax sl) ∧ passes 0x29 (.ishl sl) ∧ passes 0x2A (.ishr sl) ∧ passes 0x2B (.isar sl) ∧
       passes 0x2C (.icmp sl) ∧ passes 0x2D (.iclz sl) ∧ passes 0x2E (.ipopc sl)) ∧
     (∀ t, numOf el.fmt = some t → passes 0x26 (.iand sl) ∧ passes 0x27 (.ior sl) ∧ passes 0x28 (.ixor sl) ∧ passes 0x2F (.isel sl) ∧
       passes 0x3B (.scan sl) ∧ (sl.imm.toNat % 2 = 0 → passes 0x38 (.rsum sl) ∧ passes 0x39 (.rmax sl) ∧ passes 0x3A (.rmin sl))) ∧
     (isBlk el.fmt = true → passes 0x32 (.dqn4 sl)) ∧
     (passes 0x42 (.filt sl) ∧ passes 0x46 (.route sl) ∧ passes 0x48 (.dup sl) ∧ passes 0x50 (.tldi sl) ∧ passes 0x51 (.trd sl) ∧
       passes 0x62 (.mmz sl) ∧ passes 0x64 (.mscl sl) ∧ passes 0x70 (.const sl) ∧ passes 0x80 (.xlt sl))) ∧
  (∀ (s : State) (sl : Slot) (f : FFmt), let el := s.elem s.site.elem; let n := s.site.slot; let ports := slotChannels 0x10 sl
     numOf el.fmt = some (.flt f) → s.slotHeld s.site.elem 0x10 sl false = false → el.tileWaits n sl = false →
     (∀ p ∈ ports, (el.head p).isSome = true) →
     let faulted (cause chan detail : Nat) (t : State) : Prop :=
       (∀ e, t.elem e = if e = s.site.elem then
         { el with fault := elemFaultReg cause n (some chan) (el.slot n).idx detail } else s.elem e) ∧ SameBytes s t ∧
       (t.strand (s.strandOf s.site.elem)).region.fault = true ∧
       ((s.strand (s.strandOf s.site.elem)).region.state = .running → (t.strand (s.strandOf s.site.elem)).region.state = .freezing) ∧
       ∀ k, k ≠ s.strandOf s.site.elem → t.strand k = s.strand k
     (∀ p, el.heads ports = .mismatch p → Answers (.fadd sl) s (faulted 1 p 0)) ∧
     (∀ p, el.heads ports = .data → el.wrongShape ports true = some p → Answers (.fadd sl) s (faulted 4 p 0)) ∧
     (∀ p i, el.rowsAt ports → s.operandRows s.site.elem n sl f.bits (pairMode 0x10 sl) (slotOperands 0x10 sl) = .error (p, i) →
       el.roomFor (toPorts sl.outmask {}) = true → Answers (.fadd sl) s (faulted 3 p i)))

-- elements: sparse and stream control forms ----------------------------------------------------------------------

/-- R148: `INTSC` and `UNION` join two streams of pairs in rising coordinates. The lower coordinate is taken first, and `UNION` emits it with the
other value absent; equal coordinates are taken together and emitted with both; the same control token on both passes. A choice of the model that it
rests on: log 96. -/
def Obligations.JoinsMergeByCoordinate : Prop :=
  ∀ (s : State) (sl : Slot) (a b : Token), let el := s.elem s.site.elem; let n := s.site.slot
    let pa := sl.in0.toNat; let pb := sl.in1.toNat; let both := if pa < pb then [pa, pb] else [pb, pa]
    pa < 8 → pb < 8 → pa ≠ pb → el.head pa = some a → el.head pb = some b →
    let newA : Prop := ∀ l : BitVec 32, (el.slot n).last0 = some l → l.toNat < lane a.row 0
    let newB : Prop := ∀ l : BitVec 32, (el.slot n).last1 = some l → l.toNat < lane b.row 0
    let noteA (e : Elem) : Elem := e.updSlot n (fun x => { x with last0 := some (BitVec.ofNat 32 (lane a.row 0)) })
    let noteB (e : Elem) : Elem := e.updSlot n (fun x => { x with last1 := some (BitVec.ofNat 32 (lane b.row 0)) })
    let pairA : Prop := a.kind = .data ∧ a.tile = false
    let pairB : Prop := b.kind = .data ∧ b.tile = false
    let fires (code : Nat) (i : Instr) (e : Elem) (eat : List Nat) (out : List (Nat × Token)) : Prop :=
      CanFire code sl false out s → Answers i s (fun t => SameBytes s t ∧ Fired e eat out s t)
    (pairA → newA → (pairB ∧ lane a.row 0 < lane b.row 0 ∨ b.kind.isControl = true ∧ b.tile = false) →
      fires 0x40 (.intsc sl) (noteA el) [pa] [] ∧
      fires 0x41 (.union sl) (noteA el) [pa] (tripleOut sl (lane a.row 0) (some (lane a.row 1)) none)) ∧
    (pairB → newB → (pairA ∧ lane b.row 0 < lane a.row 0 ∨ a.kind.isControl = true ∧ a.tile = false) →
      fires 0x40 (.intsc sl) (noteB el) [pb] [] ∧
      fires 0x41 (.union sl) (noteB el) [pb] (tripleOut sl (lane b.row 0) none (some (lane b.row 1)))) ∧
    (pairA → pairB → newA → newB → lane a.row 0 = lane b.row 0 →
      let out := tripleOut sl (lane a.row 0) (some (lane a.row 1)) (some (lane b.row 1))
      fires 0x40 (.intsc sl) (noteB (noteA el)) both out ∧ fires 0x41 (.union sl) (noteB (noteA el)) both out) ∧
    (a = b → a.kind.isControl = true →
      let e := el.updSlot n (fun x => { x with idx := 0, carry := none, last0 := none, last1 := none })
      fires 0x40 (.intsc sl) e both (toPorts sl.outmask a) ∧ fires 0x41 (.union sl) e both (toPorts sl.outmask a))

/-- R149, R153, R155: `FILT` passes or drops each pair by its test; `ROUTE` sends each token on the one output that its select names, and a select
that names none is the route-select fault; `DUP` sends each token imm16[2:0] + 1 times. R150-R152: `STOPG` counts tokens and sends a `STOP` after each
imm16[11:0] + 1, and before `EOS` closes a run begun; `STOPX` lowers `STOP` levels and drops those that reach none; `CNT` sends the count of each
fibre at its `STOP`, lowering the levels above it. Choices of the model that it rests on: log 19, 32, 96. -/
def Obligations.FilterRouteStopAndCountFire : Prop :=
  (∀ (s : State) (sl : Slot) (a b : Token), let el := s.elem s.site.elem; let n := s.site.slot
     let pa := sl.in0.toNat; let pb := sl.in1.toNat; let i := sl.imm.toNat; let ps := maskPorts sl.outmask
     pa < 8 → el.head pa = some a → a.kind = .data →
     let fires (code : Nat) (i : Instr) (eat : List Nat) (out : List (Nat × Token)) : Prop :=
       CanFire code sl false out s → Answers i s (fun t => SameBytes s t ∧ Fired (el.tick n) eat out s t)
     (a.tile = false → i % 4 ≠ 0 → fires 0x42 (.filt sl) [pa] (if lane1Nonzero el.fmt (lane a.row 1) then toPorts sl.outmask a else [])) ∧
     fires 0x48 (.dup sl) [pa] ((List.replicate (i % 8 + 1) ()).flatMap (fun _ => toPorts sl.outmask a)) ∧
     (sl.in1 = 9 → a.tile = false → let sel := lane a.row 0 / 2^(i % 32) % 2^(i / 32 % 8)
       (∀ p, ps[sel]? = some p → fires 0x46 (.route sl) [pa] [(p, a)]) ∧
       (ps[sel]? = none → s.slotHeld s.site.elem 0x46 sl false = false → el.tileWaits n sl = false → Answers (.route sl) s (fun t =>
         (t.elem s.site.elem).fault = elemFaultReg 6 n (some pa) (el.slot n).idx sel ∧ SameBytes s t ∧
         (t.elem s.site.elem).standing pa = el.standing pa))) ∧
     (pb < 8 → pa ≠ pb → el.head pb = some b → b.kind = .data → b.tile = false → let both := if pa < pb then [pa, pb] else [pb, pa]
       (i % 4 = 0 → fires 0x42 (.filt sl) both (if lane b.row 0 ≠ 0 then toPorts sl.outmask a else [])) ∧
       ∀ p, ps[lane b.row 0]? = some p → fires 0x46 (.route sl) both [(p, a)])) ∧
  (∀ (s : State) (sl : Slot) (t : Token), let el := s.elem s.site.elem; let n := s.site.slot; let p := sl.in0.toNat; let i := sl.imm.toNat
     el.head p = some t →
     let fires (code : Nat) (i : Instr) (e : Elem) (out : List (Nat × Token)) : Prop :=
       CanFire code sl false out s → Answers i s (fun u => SameBytes s u ∧ Fired e [p] out s u)
     let run := (el.slot n).run; let put (v : Nat) : Elem := el.updSlot n (fun x => { x with run := v })
     let all (u : Token) := toPorts sl.outmask u; let stop := Token.ctl (.stop (i / 4096 % 4))
     let count := all (Token.dat (packRow 32 [(el.slot n).cnt.toNat])); let zero := el.updSlot n (fun x => { x with cnt := 0, seen := false })
     (t.kind = .data → run ≠ i % 4096 → fires 0x43 (.stopg sl) (put (run + 1)) (all t)) ∧
     (t.kind = .data → run = i % 4096 → fires 0x43 (.stopg sl) (put 0) (all t ++ all stop)) ∧
     (t.kind = .eos → fires 0x43 (.stopg sl) (put 0) ((if run = 0 then [] else all stop) ++ all t)) ∧
     (∀ k, t.kind = .stop k → fires 0x43 (.stopg sl) (put 0) (all t) ∧
       fires 0x44 (.stopx sl) el (if k ≤ i % 4 then [] else all (Token.ctl (.stop (k - i % 4)))) ∧
       fires 0x45 (.cnt sl) zero (count ++ if 2 ≤ k then all (Token.ctl (.stop (k - 1))) else [])) ∧
     ((∀ k, t.kind ≠ .stop k) → fires 0x44 (.stopx sl) el (all t)) ∧
     (t.kind = .data → fires 0x45 (.cnt sl) (el.updSlot n (fun x => { x with cnt := x.cnt + 1, seen := true })) []) ∧
     (t.kind = .eos → fires 0x45 (.cnt sl) zero ((if (el.slot n).seen = true then count else []) ++ all t)))

/-- R154, R156, R163: `MUX` takes a select and one token from the input that it names; `HOLD` latches a token, sends it for each DATA token of in1,
and frees the latch at a `STOP` of its level or an `EOS`; `SINK` takes whatever comes. R163: `CONST` sends its immediate in every element for each
DATA token; `ITER`, a source, sends imm16 + 1 tokens that count elements from zero, and then one `EOS`; where the element's format has elements. R335,
R333, R214: `XLT` sends for each 8-byte address its leaf's attributes, with the physical address where the job's root allows, or a code with bit 63
set: 1 out of range, 2 no valid entry, 3 unpopulated, 4 not writable. It never faults. Choices of the model that it rests on: log 19, 20, 96. -/
def Obligations.MuxHoldSinkConstIterAndXltFire : Prop :=
  (∀ (s : State) (sl : Slot) (a b : Token), let el := s.elem s.site.elem; let n := s.site.slot
     let pa := sl.in0.toNat; let pb := sl.in1.toNat; let ps := sl.in2.toNat
     let fires (code : Nat) (i : Instr) (e : Elem) (eat : List Nat) (out : List (Nat × Token)) : Prop :=
       CanFire code sl false out s → Answers i s (fun t => SameBytes s t ∧ Fired e eat out s t)
     (el.head pa = some a → fires 0x72 (.sink sl) el [pa] []) ∧
     (∀ c, ps < 8 → el.head ps = some c → c.kind.isControl = true → fires 0x47 (.mux sl) el [ps] (toPorts sl.outmask c)) ∧
     (∀ c, el.head ps = some c → c.kind = .data → c.tile = false → ps < 8 →
       (lane c.row 0 = 0 → pa < 8 → pa ≠ ps → el.head pa = some a → fires 0x47 (.mux sl) el (if pa < ps then [pa, ps] else [ps, pa])
         (toPorts sl.outmask a)) ∧
       (lane c.row 0 = 1 → pb < 8 → pb ≠ ps → el.head pb = some b → fires 0x47 (.mux sl) el (if pb < ps then [pb, ps] else [ps, pb])
         (toPorts sl.outmask b))) ∧
     ((el.slot n).latch = none → pa < 8 → el.head pa = some a → a.kind = .data → a.tile = false →
       fires 0x49 (.hold sl) (el.updSlot n (fun x => { x with latch := some a })) [pa] []) ∧
     (∀ held, (el.slot n).latch = some held → pb < 8 → el.head pb = some b →
       (b.kind = .data → fires 0x49 (.hold sl) el [pb] (toPorts sl.outmask held)) ∧
       (∀ k, b.kind = .stop k → fires 0x49 (.hold sl)
         (if 1 ≤ sl.imm.toNat % 4 ∧ sl.imm.toNat % 4 ≤ k then el.updSlot n (fun x => { x with latch := none }) else el) [pb]
         (toPorts sl.outmask b)) ∧
       (b.kind = .eos → fires 0x49 (.hold sl) (el.updSlot n (fun x => { x with latch := none })) [pb] (toPorts sl.outmask b)))) ∧
  (∀ (s : State) (sl : Slot) (t : Token), let el := s.elem s.site.elem; let n := s.site.slot; let st := el.slot n; let p := sl.in0.toNat
     el.fmt < 0x20 →
     (p < 8 → el.head p = some t → t.kind = .data → let out := toPorts sl.outmask (Token.dat (splat el.fmt (immElem el.fmt sl.imm)))
       CanFire 0x70 sl false out s → Answers (.const sl) s (fun u => SameBytes s u ∧ Fired (el.tick n) [p] out s u)) ∧
     (st.ended = false → st.emitted ≤ sl.imm.toNat → let b := (numOrU32 el.fmt).bits
       let row := packRow b ((List.range (512 / b)).map (fun j => countElem el.fmt (st.emitted * (512 / b) + j)))
       CanFire 0x71 sl true (toPorts sl.outmask (Token.dat row)) s → Answers (.iter sl) s (fun u => SameBytes s u ∧
         Fired (el.updSlot n (fun x => { x with emitted := x.emitted + 1 })) [] (toPorts sl.outmask (Token.dat row)) s u)) ∧
     (st.ended = false → sl.imm.toNat < st.emitted → CanFire 0x71 sl true (toPorts sl.outmask (Token.ctl .eos)) s →
       Answers (.iter sl) s (fun u => SameBytes s u ∧
         Fired (el.updSlot n (fun x => { x with ended := true })) [] (toPorts sl.outmask (Token.ctl .eos)) s u)) ∧
     (st.ended = true → Answers (.iter sl) s (fun u => u = s))) ∧
  (∀ (s : State) (sl : Slot) (t : Token), let e := s.site.elem; let el := s.elem e; let p := sl.in0.toNat
     let k := s.strand (s.strandOf e)
     p < 8 → el.head p = some t → t.kind = .data → t.tile = false → s.tlbs = [] → s.rowHeld = false →
     let one (va : Nat) : Nat :=
       if 2^60 ≤ va then 2^63 + 1
       else match s.walk k.job va with
         | none => 2^63 + 2
         | some (x, big) =>
           let l := leafOf x big va
           if s.populated l.pa = false then 2^63 + 3
           else if sl.imm.toNat % 2 = 1 ∧ l.writable = false then 2^63 + 4
           else (if (s.roots64.look 0 k.job).toNat / 2^37 % 2 = 1 then l.pa else 0) + l.kind * 2^52 +
             (if l.writable then 2^54 else 0) + (if l.egress then 2^55 else 0) + l.policy * 2^56
     let out := toPorts sl.outmask (Token.dat (packRow 64 ((rowElems 64 t.row).map one)))
     CanFire 0x80 sl false out s → Answers (.xlt sl) s (fun u => SameBytes s u ∧ Fired (el.tick s.site.slot) [p] out s u))

/-- R157, R158: `ACCU` adds a pair into the entry of its coordinate in the element's store, or puts it there where the entry is free, and changes no
other byte; a coordinate outside its window is the range fault. `DRN` sends the occupied entries in rising coordinates, clearing each, and the control
token when none is left. -/
def Obligations.AccumulateAndDrainFire : Prop :=
  ∀ (s : State) (sl : Slot) (t : Token), let e := s.site.elem; let el := s.elem e; let p := sl.in0.toNat
    let base := 2048 * (sl.imm.toNat % 4096); let c := lane t.row 0; let v := lane t.row 1; let at_ := elemHome e + 4 * (c - base)
    p < 8 → el.head p = some t → slotXi sl = false →
    (t.kind = .data → t.tile = false → base ≤ c → c < base + 2048 →
      (el.occ.look false (c - base) = true → s.isBad (elemHome e + 64 * ((c - base) / 16)) 64 = false → CanFire 0x4A sl false [] s →
        Answers (.accu sl) s (fun u => Fired el [p] [] s u ∧ SameBytesBut at_ 4 s u ∧
          u.peek at_ 4 = accuCombine (sl.imm.toNat / 4096) (s.peek at_ 4) v % 2^32)) ∧
      (el.occ.look false (c - base) = false → CanFire 0x4A sl false [] s →
        Answers (.accu sl) s (fun u => Fired { el with occ := el.occ.put (c - base) true } [p] [] s u ∧ SameBytesBut at_ 4 s u ∧
          u.peek at_ 4 = v))) ∧
    (t.kind = .data → t.tile = false → (c < base ∨ base + 2048 ≤ c) → s.slotHeld e 0x4A sl false = false →
      el.tileWaits s.site.slot sl = false → Answers (.accu sl) s (fun u => SameBytes s u ∧
        (u.elem e).fault = elemFaultReg 5 s.site.slot (some p) (el.slot s.site.slot).idx c ∧ (u.elem e).standing p = el.standing p)) ∧
    (t.kind.isControl = true → sl.imm.toNat < 32768 →
      (∀ i x r, el.occ = (i, true) :: r → x = s.peek (elemHome e + 4 * i) 4 → s.isBad (elemHome e + 64 * (i / 16)) 64 = false →
        let out := toPorts sl.outmask (Token.dat (packRow 32 [base + i, x]))
        CanFire 0x4B sl false out s → Answers (.drn sl) s (fun u => Fired { el with occ := el.occ.del i } [] out s u ∧
          SameBytesBut (elemHome e + 4 * i) 4 s u ∧ u.peek (elemHome e + 4 * i) 4 = 0)) ∧
      ((∀ x ∈ el.occ, x.2 = false) → CanFire 0x4B sl false (toPorts sl.outmask t) s →
        Answers (.drn sl) s (fun u => SameBytes s u ∧ Fired el [p] (toPorts sl.outmask t) s u)))

-- elements: tile registers and the matrix engine ------------------------------------------------------------------

/-- R159-R161: `TLDI` fills the tile register, or one row of it, once the rows are not valid; `TRD` sends the array or a row, and an `XCHG` behind it
where asked; `TTR` loads the transpose of the array. R161: the tile that `TTR` loads has row r, lane j of what `ta` holds in row j, lane r. -/
def Obligations.TileFormsFire : Prop :=
  (∀ (s : State) (sl : Slot) (t : Token), let e := s.site.elem; let el := s.elem e; let n := s.site.slot; let p := sl.in0.toNat
     let i := sl.imm.toNat; let full : Tab Bool := (List.range 16).map (fun r => (r, true))
     let clear : Prop := ∀ x ∈ el.tlValid, x.2 = false
     let fires (code : Nat) (i : Instr) (e : Elem) (out : List (Nat × Token)) : Prop :=
       CanFire code sl false out s → Answers i s (fun t => SameBytes s t ∧ Fired e [p] out s t)
     p < 8 → el.head p = some t → t.kind = .data →
     (i / 16 % 2 = 0 → t.tile = true → clear → fires 0x50 (.tldi sl)
       (({ el with tl := rowTable t.rows, tlValid := full } : Elem).tick n) []) ∧
     (i / 16 % 2 = 1 → t.tile = false → el.tlValid.look false (i % 16) = false → fires 0x50 (.tldi sl)
       (({ el with tl := el.tl.put (i % 16) t.row, tlValid := el.tlValid.put (i % 16) true } : Elem).tick n) []) ∧
     (let token := if i / 16 % 2 = 1 then Token.dat (el.ta.look 0 (i % 16)) else Token.tileOf ((List.range 16).map (fun r => el.ta.look 0 r))
      (∀ r, s.isBad (taKey e r) 1 = false) →
        fires 0x51 (.trd sl) (el.tick n) (toPorts sl.outmask token ++ if i / 64 % 2 = 1 then toPorts sl.outmask (Token.ctl .xchg) else [])) ∧
     (clear → (∀ r, s.isBad (taKey e r) 1 = false) → fires 0x52 (.ttr sl)
       { el with tl := rowTable (transposed ((List.range 16).map (fun r => el.ta.look 0 r))), tlValid := full } [])) ∧
  (∀ (rs : List Row) (r j : Nat), r < 16 → j < 16 →
     lane (Tab.look 0 (rowTable (transposed rs)) r) j = lane (rs.getD j 0) r)

/-- R290, R291, R292: the oldest token travelling on a route arrives at the back of its destination input, with the branch that brought it; the tokens
behind it keep their order. R135: an `XCHG` at the head of an input of a CE or MXE is taken by the element once every row of `tl` is valid: `ta` and
`tl` change places, the valid bits clear, and the token goes no further; a fret swap token makes the bank that it names active. Otherwise each waits.
A choice of the model that it rests on: log 47. -/
def Obligations.TokensArriveAndExchangesAreTaken : Prop :=
  (∀ (s : State) (e m : Nat) (r : Route) (t : Token) (rest : List Token), let el := s.elem e
     el.routes.look r m = r → Tab.has el.routes m = true → (∀ x ∈ el.routes, x.1 = m → x.2 = r) → r.flight = t :: rest → r.dstElem ≠ e →
     let arrived (u : State) : Prop :=
       (u.elem r.dstElem).chan r.dstPort = (s.elem r.dstElem).chan r.dstPort ++ [{ tok := t, src := e, entry := m }] ∧
       (∀ q, q ≠ r.dstPort → (u.elem r.dstElem).chan q = (s.elem r.dstElem).chan q) ∧
       (u.elem e).routes = el.routes.map (fun x => if x.1 = m then (x.1, { r with flight := rest }) else x) ∧
       { u.elem e with routes := el.routes } = el ∧ { u.elem r.dstElem with chans := (s.elem r.dstElem).chans } = s.elem r.dstElem ∧
       (∀ k, k ≠ e → k ≠ r.dstElem → u.elem k = s.elem k)
     (r.link = none → Answers (.channelDelivery e m) s (fun u => arrived u ∧ { u with elems := s.elems } = s)) ∧
     -- R182, R310, R389: at the ingress of a link virtual channel the bridle meters the token, and a link that is down holds it
     ∀ c, r.link = some c → r.dstElem < 32768 → let b := (s.cut c).bridle
       let held : Prop := (∃ l, (s.cut c).link = some l ∧ s.linksDown.contains l = true) ∨ b.admitsFrom b.admitted [(r.dstPort, t)] = false
       (¬ held → Answers (.channelDelivery e m) s (fun u => arrived u ∧ (u.cut c).bridle = b.meter [(r.dstPort, t)] ∧
         (∀ x, x ≠ c → u.cut x = s.cut x) ∧ SameBytes s u)) ∧
       (held → Answers (.channelDelivery e m) s (fun u => u = s))) ∧
  (∀ (s : State) (p : Nat) (t : Token), let e := s.site.elem; let el := s.elem e
     p < 8 → el.head p = some t → (el.kind = .ce ∨ el.kind = .mxe) →
     let only (q : Nat) (x : Elem) (u : State) : Prop := SameBytes s u ∧ u.strands = s.strands ∧ (u.elem e).still = x.still ∧
       (∀ q', (u.elem e).standing q' = (el.standing q').drop (if q' = q then 1 else 0)) ∧
       ∀ k, k ≠ e → (u.elem k).still = (s.elem k).still ∧ ∀ q', (u.elem k).standing q' = (s.elem k).standing q'
     (t.kind = .xchg → (∀ q, q < p → ∀ u, el.head q = some u → u.kind ≠ .xchg) →
       ((∀ r, r < 16 → el.tlValid.look false r = true) → Answers .tileExchange s (only p { el with ta := el.tl, tl := el.ta, tlValid := [] })) ∧
       ((∃ r, r < 16 ∧ el.tlValid.look false r = false) → Answers .tileExchange s (fun u => u = s))) ∧
     (t.kind = .swap → (∀ q, q < p → ∀ u, el.head q = some u → u.kind ≠ .swap) →
       Answers .fretSwap s (only p { el with active := t.row.toNat % 2 == 1 })))

/-- R172-R174, R117, R168: `MMA` and `MMAS` multiply a tile, or for `MMAS` the array `ta`, by a ready weight entry and add the exact sum of products,
rounded once, into each element of the accumulator, which the slot then owns; an A tile is consumed with its last K-block. R117, R121: an accumulator
element after a firing is the exact sum of the old value and all products of its row and column, rounded once: the sub-blocks that true flags let the
firing skip change no bit of it. Choices of the model that it rests on: log 12, 33. -/
def Obligations.MatrixFiringsAccumulateExactly : Prop :=
  (∀ (s : State) (sl : Slot) (b : List FVal), let e := s.site.elem; let el := s.elem e; let n := s.site.slot
     let p := sl.in0.toNat; let q := sl.in1.toNat; let st := el.slot n; let i := sl.imm.toNat
     let k := i / 4096 % 4; let acc := el.acc k; let blk : Prop := 0x20 ≤ el.fmt; let h := if 0x20 ≤ el.fmt then 0 else st.idx.toNat % 2
     (acc.owned = true → acc.owner = n) → s.mmaSpaced e = true →
     let word (entry : Nat) := s.peek (entryAddr e entry) 8
     let ready (entry : Nat) : Prop := entry < 64 ∧ entryError (word entry) = false ∧ entryReady (word entry) = true ∧
       s.mmaBad e k (wentryOf (word entry)) = false ∧ s.bTile e (wentryOf (word entry)) = .ok b
     let flags (entry : Nat) : BitVec 128 :=
       if (wentryOf (word entry)).enc = 2 then tileFlags (kDepth el.fmt) b / 2^64 * 2^64 else el.wflags.look 0 entry
     let after (rows : List Row) (entry : Nat) : Elem :=
       let a : Acc := { vals := mmaAcc el.fmt h rows b (flags entry) (if acc.owned then acc.vals else []), owned := true, owner := n }
       ({ el.setAcc k a with mmaAt := some s.cyc } : Elem).tick n
     let eaten := if h = 1 ∨ blk then [p] else []
     (∀ t, p < 8 → el.head p = some t → t.kind = .data → t.tile = true → slotXi sl = false →
       (let entry := i % 64 + st.idx.toNat % (i / 64 % 64 + 1)
        ready entry → CanFire 0x60 sl false [] s →
         Answers (.mma sl) s (fun u => SameBytes s u ∧ Fired (after t.rows entry) eaten [] s u)) ∧
       ∀ c, q < 8 → q ≠ p → el.head q = some c → c.kind = .data → c.tile = false → ready (lane c.row 0) → CanFire 0x61 sl false [] s →
         Answers (.mmas sl) s (fun u => SameBytes s u ∧ Fired (after t.rows (lane c.row 0)) (q :: eaten) [] s u)) ∧
     ∀ c, sl.in0 = 8 → (∀ r, s.isBad (taKey e r) 1 = false) → q < 8 → el.head q = some c → c.kind = .data → c.tile = false →
       ready (lane c.row 0) → CanFire 0x61 sl false [] s → Answers (.mmas sl) s (fun u => SameBytes s u ∧
         Fired (after ((List.range 16).map (fun r => el.ta.look 0 r)) (lane c.row 0)) [q] [] s u)) ∧
  (∀ (fmt h : Nat) (rows : List Row) (b : List FVal) (flags : BitVec 128) (acc : Tab (BitVec 32)) (m n : Nat), m < 16 → n < 16 →
     let at_ (k : Nat) : FVal := b.getD (16 * k + n) (.fin false 0 0)
     (∀ q, q < 4 → (flagsAt flags n q).1 = true → ∀ j, j < 16 → ∃ neg x, at_ (16 * q + j) = .fin neg 0 x) →
     (∀ q, q < 4 → (flagsAt flags n q).2 = true → ∀ j, j < 16 → ∃ neg v x, at_ (16 * q + j) = .fin neg v x) →
     ((mmaAcc fmt h rows b flags acc).look 0 (16 * m + n)).toNat = exactSum (fp32.read (acc.look 0 (16 * m + n)).toNat ::
       (aRow fmt h (rows.getD m 0)).zipIdx.map (fun x => x.1.mul (at_ x.2))) % 2^32)

/-- R176, R177: `MRD` sends an accumulator's tile at a `STOP` of its level, clearing it where asked, and passes the control token; `MMZ` frees an
accumulator; `MSCL` multiplies each column of an accumulator by a lane of its operand. -/
def Obligations.AccumulatorsAreReadClearedAndScaled : Prop :=
  ∀ (s : State) (sl : Slot) (t : Token), let e := s.site.elem; let el := s.elem e; let p := sl.in0.toNat; let i := sl.imm.toNat
    let acc := el.acc (i % 4); let tile := Token.tileOf ((List.range 16).map (fun m => packRow 32 ((List.range 16).map (fun n =>
      (acc.vals.look 0 (16 * m + n)).toNat))))
    p < 8 → el.head p = some t →
    (∀ j, t.kind = .stop j → slotChannels 0x63 sl = [p] → (∀ q ∈ maskPorts sl.outmask, el.room q 2 = true) →
      (i / 16 % 4 ≤ j → s.isBad (accKey e (i % 4)) 1 = false →
        let out := toPorts sl.outmask tile ++ toPorts sl.outmask t
        CanFire 0x63 sl false out s → Answers (.mrd sl) s (fun u => SameBytes s u ∧
          Fired ((if i / 4 % 2 = 1 then el.setAcc (i % 4) {} else el).resetMma (matrixChannels 0x63 sl)) [p] out s u)) ∧
      (j < i / 16 % 4 → CanFire 0x63 sl false (toPorts sl.outmask t) s → Answers (.mrd sl) s (fun u => SameBytes s u ∧
        Fired (el.resetMma (matrixChannels 0x63 sl)) [p] (toPorts sl.outmask t) s u))) ∧
    (t.kind = .data → t.tile = false →
      (CanFire 0x62 sl false [] s → Answers (.mmz sl) s (fun u => SameBytes s u ∧
        Fired ((el.setAcc (i % 4) {}).tick s.site.slot) [p] [] s u)) ∧
      (s.isBad (accKey e (i % 4)) 1 = false → CanFire 0x64 sl false [] s → Answers (.mscl sl) s (fun u => SameBytes s u ∧
        Fired ((el.setAcc (i % 4) (if acc.owned = true then { acc with vals := (List.range 256).map (fun j =>
          (j, BitVec.ofNat 32 (fp32.mul (slotMode sl) (acc.vals.look 0 j).toNat (lane t.row (j % 16))))) } else acc)).tick s.site.slot)
          [p] [] s u)))

-- stream commands -------------------------------------------------------------------------------------------------

/-- R223, R237, R322, R357: a command at the head of its queue starts in the first free place when its region runs, its ports are free and have their
`GO`, its edges hold a token each, and the tile that it moves is in its state, which changes with the start; it takes a token from every incoming
edge. A command of depth 2 or 3 takes its shape word with it and clears that word's token. Choices of the model that it rests on: log 28, 87. -/
def Obligations.CommandsStart : Prop :=
  ∀ (s : State) (c : Cmd) (h : QEntry) (rest : List QEntry) (p : Nat), let e := s.site.elem; let el := s.elem e; let a := el.age
    let k := s.strandOf e
    s.site.place = none → a.queue = h :: rest → s.regionRuns e = true → a.freePlace = some p → (el.configured = true → el.go = true) →
    s.edgesReady e = true → s.fireReady e = false → (∀ y ∈ s.elems, y.2.age.completed.contains y.2.age.doneNext = false) →
    (∀ b, barrierOf c.fused.toNat (dieOf (panelOf e)) = some b → (s.barrier b).valid = true ∧ (s.barrier b).job = (s.strand k).job) →
    let free (op : Nat) : Prop := ∀ q ∈ cmdPorts op c, q ∉ a.busyPorts
    let started (queue : List QEntry) (shape : BitVec 128) (token : Option Nat) (t : State) : Prop :=
      (t.elem e).age.queue = queue ∧ (t.elem e).age.started = a.started + 1 ∧
      (t.elem e).age.places = a.places.put p
        { active := true, strand := k, raw := h.raw, token := h.token, seq := a.started, shape := shape } ∧
      (t.elem e).age.doneIn = a.doneIn.map (fun d => (d.1, if d.2.valid = true then { d.2 with count := d.2.count - 1 } else d.2)) ∧
      (∀ n, n ≠ e → t.elem n = s.elem n) ∧ SameBytes s t ∧ t.reqs = s.reqs ∧
      ∀ j, t.strand j = if j = k then { s.strand k with kpend := match token with
        | some n => (s.strand k).kpend &&& ~~~ BitVec.ofNat 8 (2^n) | none => (s.strand k).kpend } else s.strand j
    (∀ f ∈ ([(0x01, .sld1 c), (0x05, .sst1 c), (0x10, .gath c), (0x11, .scat c), (0x12, .scad c), (0x13, .bmld c), (0x14, .blkx c),
        (0x20, .copy c), (0x21, .cpms c), (0x22, .cpsm c), (0x23, .cpss c), (0x24, .tarm c), (0x25, .tdis c), (0x26, .tfir c),
        (0x28, .amos c), (0x30, .pref c), (0x31, .lock c), (0x32, .unlk c), (0x33, .flsh c), (0x38, .xinv c), (0x39, .xpre c),
        (0x40, .fnew c), (0x41, .fmrg c), (0x41, .fmrgPort c), (0x42, .fscn c), (0x43, .fprb c), (0x44, .ftop c), (0x45, .fcnt c),
        (0x46, .fclr c), (0x47, .ffre c), (0x48, .voxl c), (0x50, .bkld c), (0x51, .bkrn c), (0x52, .bkrl c), (0x58, .cbld c)] :
        List (Nat × Instr)), free f.1 → Answers f.2 s (started rest 0 none)) ∧
    -- the tile that a command moves is filling or draining from its start on
    (let moves (want now : Nat) (i : Instr) : Prop := ∀ l m, s.checkChip e (c.port.toNat / 16) c.count.toNat 64 = .ok l →
        tileKey l.home = some m → s.tiles.look 0 m = want → Answers i s (fun t => started rest 0 none t ∧
          ∀ n, t.tiles.look 0 n = if n = m then now else s.tiles.look 0 n)
     (free 0x2C → moves 0 1 (.tfil c)) ∧ (free 0x2D → moves 2 3 (.tdrn c))) ∧
    (∀ w more, rest = w :: more →
      ∀ f ∈ ([(0x02, .sld2 c), (0x03, .sld3 c), (0x06, .sst2 c), (0x07, .sst3 c)] : List (Nat × Instr)),
      free f.1 → (f.1 = 0x02 ∨ f.1 = 0x06 → w.raw.toNat / 2^64 % 2^64 = 0) → Answers f.2 s (started more w.raw w.token))

/-- R236-R238, R245, R228: a load of depth 1, 2 or 3 (`CPMS` has depth 1) reads its elements at addr + j0·size + j1·s1 + j2·s2, passes rows of 64
bytes on as DATA tokens in order, packs smaller elements from lane 0 up, and ends with `EOS`. R231, R118: a reduce-class load sends the fixed tree of
its banks' partials, or the operator's value of no element, and then `EOS`. R240: `GATH` takes a row of indices, reads the element of each at addr +
index·size, sends zero for the index of all ones, and sends the 16 elements of 4 bytes as one row. Choices of the model that it rests on: log 2, 7,
51, 55, 121. -/
def Obligations.LoadsReducesAndGathersStream : Prop :=
  (∀ (s : State) (c : Cmd) (p : Nat), let x := s.place s.site.elem p; let size := c.bytes; let n0 := c.count.toNat
     ∀ f ∈ ([(1, 0x01, .sld1 c), (2, 0x02, .sld2 c), (3, 0x03, .sld3 c), (1, 0x21, .cpms c)] : List (Nat × Nat × Instr)),
     s.Steps p f.2.1 c → c.flag 3 = false → x.phase ≠ 1 → (s.elem s.site.elem).age.heat = [] →
     let sh := x.shape.toNat
     let n1 := if f.1 = 1 then 1 else sh / 2^40 % 2^24; let s1 := if f.1 = 1 then 0 else sint 40 (sh % 2^40)
     let n2 := if f.1 = 3 then sh / 2^104 % 2^24 else 1; let s2 := if f.1 = 3 then sint 40 (sh / 2^64 % 2^40) else 0
     let a : Int := (c.addr.toNat : Int) + (x.j0 * size : Nat) + x.j1 * s1 + x.j2 * s2
     (x.runs ≠ n1 * n2 → x.next ≠ (x.runs + 1) * n0 → Tab.has x.got x.next = false → x.j3 < n1 * n2 * n0 →
       ∀ l, s.Reads p c.space.toNat a size x.j3 .streamRead l → Answers f.2.2 s (fun t => SameBytes s t ∧ ∃ y, Stepped p y s t ∧
         y.got.look 0 x.j3 = BitVec.ofNat 512 (s.valueAt p a size x.j3 l) ∧ Tab.has y.got x.j3 = true ∧
         (∀ m, m ≠ x.j3 → y.got.look 0 m = x.got.look 0 m) ∧ y.j3 = x.j3 + 1 ∧ y.next = x.next ∧ y.outq = [] ∧ y.runs = x.runs)) ∧
     (x.runs ≠ n1 * n2 → x.next ≠ (x.runs + 1) * n0 → Tab.has x.got x.next = true → c.fused = 0 → c.flag 1 = false → c.flag 2 = false →
       let v := (x.got.look 0 x.next).toNat % 2^(8 * size)
       Answers f.2.2 s (fun t => SameBytes s t ∧ ∃ y, Stepped p y s t ∧ y.next = x.next + 1 ∧ y.runData = true ∧ y.j3 = x.j3 ∧
         (size = 64 → y.outq = [(c.portLow, Token.dat (BitVec.ofNat 512 v))]) ∧
         (size < 64 → (x.packN + 1) * size ≠ 64 → y.outq = [] ∧ y.packN = x.packN + 1 ∧
           y.pack = BitVec.ofNat 512 (x.pack.toNat + v * 2^(8 * size * x.packN))) ∧
         (size < 64 → (x.packN + 1) * size = 64 → x.tileRows = [] → y.packN = 0 ∧ y.pack = 0 ∧
           y.outq = [(c.portLow, Token.dat (BitVec.ofNat 512 (x.pack.toNat + v * 2^(8 * size * x.packN))))]))) ∧
     (x.runs = n1 * n2 → isReduce c.fused.toNat = false → Answers f.2.2 s (fun t => SameBytes s t ∧
       Stepped p { x with outq := [(c.portLow, Token.ctl .eos)], phase := 1 } s t))) ∧
  (∀ (s : State) (c : Cmd) (p : Nat), let x := s.place s.site.elem p; let f := c.fused.toNat
     s.Steps p 0x01 c → x.phase ≠ 1 → x.runs = 1 → isReduce f = true → c.flag 2 = false → x.packVas = [] →
     let v := (combineTree (reduceOp f) 14 (x.parts.map (fun b => (b.1, b.2.toNat)))).getD
       (if f = 3 then 0xFF800000 else if f = 4 then 0x7F800000 else 0)
     Answers (.sld1 c) s (fun t => SameBytes s t ∧
       Stepped p { x with outq := [(c.portLow, Token.dat (packRow 32 [v])), (c.portLow, Token.ctl .eos)], phase := 1 } s t)) ∧
  (∀ (s : State) (c : Cmd) (p : Nat), let e := s.site.elem; let x := s.place e p; let size := c.bytes
     s.Steps p 0x10 c → x.phase ≠ 1 → c.flag 0 = false → c.flag 3 = false → c.fused = 0 → (s.elem e).age.heat = [] →
     (∀ r rest, x.pairs = [] → x.inq = r :: rest → Answers (.gath c) s (fun t => SameBytes s t ∧
       Stepped p { x with inq := rest, pairs := (List.range 16).map (fun j => BitVec.ofNat 64 (lane r j)) } s t)) ∧
     (x.next < x.pairs.length → let i := (x.pairs.getD x.next 0).toNat; let a : Int := (c.addr.toNat : Int) + (i * size : Nat)
       (i = 0xFFFFFFFF → Answers (.gath c) s (fun t => SameBytes s t ∧ Stepped p { x with next := x.next + 1 } s t)) ∧
       (i ≠ 0xFFFFFFFF → ∀ l, s.Reads p c.space.toNat a size x.next .streamRead l → Answers (.gath c) s (fun t => SameBytes s t ∧
         ∃ y, Stepped p y s t ∧ y.got.look 0 x.next = BitVec.ofNat 512 (s.valueAt p a size x.next l) ∧
           Tab.has y.got x.next = true ∧ (∀ m, m ≠ x.next → y.got.look 0 m = x.got.look 0 m) ∧ y.next = x.next + 1))) ∧
     (x.pairs.length = 16 → x.next = 16 → size = 4 →
       (∀ k, k < 16 → (x.pairs.getD k 0).toNat = 0xFFFFFFFF ∨ Tab.has x.got k = true) → Answers (.gath c) s (fun t => SameBytes s t ∧
       ∃ y, Stepped p y s t ∧ { y with outVas := x.outVas, packVas := x.packVas } =
         { x with pairs := [], got := [], vas := [], full := [], next := 0, outq := [(c.portLow, Token.dat (packRow 32
           ((List.range 16).map (fun k => if (x.pairs.getD k 0).toNat = 0xFFFFFFFF then 0 else (x.got.look 0 k).toNat % 2^32))))] })))

/-- R239, R241, R245, R247, R233: a store writes the element in hand at addr + j0·size + j1·s1 + j2·s2, `CPSM` at its next element, `SCAT` and `SCAD`
the value of a pair at addr + 4·coordinate, and `AMOS` its atomic there, whose old value goes out with the coordinate; a combine-class write leaves
the combination of the old value and the new. R239, R229, R245: a store takes the rows of a DATA token, and `CPSS` sends every token on; a store that
has met its `EOS` with all its writes performed replies the number of elements written, with bit 63 set where DATA was left over. Choices of the model
that it rests on: log 2, 61. -/
def Obligations.StreamWritesStoreTheirElements : Prop :=
  (∀ (s : State) (c : Cmd) (p : Nat), let x := s.place s.site.elem p; let size := c.bytes; let f := c.fused.toNat; let n0 := c.count.toNat
     let form (size : Nat) : AccForm := if isCombine f then .combine else .streamWrite size
     let after (size old v : Nat) : Nat := match f with
       | 0x10 => fp32.add .rne old v | 0x11 => (old + v) % 2^32 | 0x12 => fp32.max old v | 0x13 => fp32.min old v | _ => v % 2^(8 * size)
     let kind : ReqKind := match f with
       | 0x10 => .amo .addf | 0x11 => .amo .addi | 0x12 => .amo .maxf | 0x13 => .amo .minf | _ => .write
     (∀ g ∈ ([(1, 0x05, .sst1 c), (2, 0x06, .sst2 c), (3, 0x07, .sst3 c)] : List (Nat × Nat × Instr)), s.Steps p g.2.1 c →
       ∀ v rest l, x.cur = v :: rest → let sh := x.shape.toNat
       let s1 := if g.1 = 1 then 0 else sint 40 (sh % 2^40); let s2 := if g.1 = 3 then sint 40 (sh / 2^64 % 2^40) else 0
       let a : Int := (c.addr.toNat : Int) + (x.j0 * size : Nat) + x.j1 * s1 + x.j2 * s2; let d := scaled f v.toNat
       (isCombine f = true → size = 4 ∧ d < 2^32) → s.Writes p c.space.toNat a size d (form size) kind l →
       Answers g.2.2 s (fun t => Stored l.key l.home size (after size (s.peekKey l.key l.home size) d) s t ∧ ∃ y, Stepped p y s t ∧
         y.written = x.written + 1 ∧ y.j3 = x.j3 + 1 ∧ (x.j0 + 1 < n0 → y.cur = rest ∧ y.j0 = x.j0 + 1 ∧ y.j1 = x.j1 ∧ y.j2 = x.j2))) ∧
     (s.Steps p 0x22 c → x.eos = false → x.written ≠ n0 → ∀ v rest l, x.cur = v :: rest →
       (isCombine f = true → size = 4 ∧ v.toNat < 2^32) →
       s.Writes p c.space.toNat ((c.addr.toNat + x.written * size : Nat) : Int) size v.toNat (form size) kind l →
       Answers (.cpsm c) s (fun t => Stored l.key l.home size (after size (s.peekKey l.key l.home size) v.toNat) s t ∧ ∃ y, Stepped p y s t ∧
         y.cur = rest ∧ y.written = x.written + 1)) ∧
     (∀ g ∈ ([(0x11, .scat c), (0x12, .scad c)] : List (Nat × Instr)), s.Steps p g.1 c → ∀ r rest l, x.inq = r :: rest →
       let d := scaled f (lane r 1)
       d < 2^32 → s.Writes p c.space.toNat ((c.addr.toNat : Int) + (4 * lane r 0 : Nat)) 4 d (form 4) kind l →
       Answers g.2 s (fun t => Stored l.key l.home 4 (after 4 (s.peekKey l.key l.home 4) d) s t ∧ ∃ y, Stepped p y s t ∧ y.inq = rest ∧
         y.written = x.written + 1)) ∧
     (s.Steps p 0x28 c → x.phase ≠ 1 → Tab.has x.got x.next = false → ∀ r rest l, x.inq = r :: rest → let v := lane r 1
       s.Writes p c.space.toNat ((c.addr.toNat : Int) + (4 * lane r 0 : Nat)) 4 v .combine (.amo (amosOp c)) l →
       let old := s.peekKey l.key l.home 4
       let new := match c.flags.toNat with
         | 0 => (old + v) % 2^32 | 1 => v | 2 => if sint 32 old ≤ sint 32 v then v else old | 3 => if sint 32 old ≤ sint 32 v then old else v
         | 4 => if old ≤ v then v else old | 5 => old ||| v | _ => old &&& v
       Answers (.amos c) s (fun t => Stored l.key l.home 4 new s t ∧ ∃ y, Stepped p y s t ∧ y.inq = rest ∧
         y.got.look 0 x.j3 = BitVec.ofNat 512 old ∧ y.pairs = x.pairs ++ [BitVec.ofNat 64 (lane r 0)]))) ∧
  (∀ (s : State) (c : Cmd) (p : Nat) (tok : Token), let e := s.site.elem; let x := s.place e p
     s.regionStands e = false →
     let took (q : Nat) (y : Place) (t : State) : Prop := SameBytes s t ∧ Stepped p y s t ∧
       (∀ m, (t.elem e).standing m = ((s.elem e).standing m).drop (if m = q then 1 else 0))
     (∀ g ∈ ([(0x05, .sst1 c), (0x06, .sst2 c), (0x07, .sst3 c)] : List (Nat × Instr)), s.Steps p g.1 c → x.cur = [] → x.inq = [] →
       (x.eos = false → (s.elem e).head (c.portLow - 8) = some tok →
         (tok.kind = .data → Answers g.2 s (took (c.portLow - 8) { x with inq := tok.rows })) ∧
         (tok.kind = .eos → Answers g.2 s (took (c.portLow - 8) { x with eos := true }))) ∧
       (x.eos = true → s.writesDone e p = true → Answers g.2 s (fun t => SameBytes s t ∧ Stepped p { x with
         done := true, reply := BitVec.ofNat 64 (x.written % 2^48 + if x.surplus = true then 2^63 else 0) } s t))) ∧
     (s.Steps p 0x23 c → x.phase ≠ 2 → x.eos = false → x.packVas = [] → (c.count.toNat = 0 ∨ x.sent ≠ c.count.toNat) → (s.elem e).head c.portMid = some tok →
       Answers (.cpss c) s (took c.portMid { x with outq := [(c.portLow, tok)], eos := tok.kind == .eos })) ∧
     (s.Steps p 0x23 c → x.phase ≠ 2 → x.eos = false → c.count.toNat ≠ 0 → x.sent = c.count.toNat →
       Answers (.cpss c) s (fun t => SameBytes s t ∧ Stepped p { x with outq := [(c.portLow, Token.ctl .eos)], phase := 2 } s t)))

/-- R244, R242, R273: `COPY` reads every granule at its distance before it writes the first, and then writes them in order; `BMLD` reads a chunk's
offset, its bitmap and its stored elements. R248, R338, R339: `TFIL` reads 16 rows and writes them to its tile, which is then full; `TDRN` reads a
tile's rows and writes them out, and leaves the tile free, or full where it is kept. Choices of the model that it rests on: log 2, 57. -/
def Obligations.CopiesAndTilesMoveTheirBytes : Prop :=
  (∀ (s : State) (c : Cmd) (p : Nat), let e := s.site.elem; let x := s.place e p; let g := c.bytes
     let n := c.port.toNat * 16 + c.flags.toNat + 1
     (s.Steps p 0x20 c → c.addr.toNat % g = 0 →
       (x.phase = 0 → x.j3 < n → let a : Int := (c.addr.toNat : Int) + sint 27 c.count.toNat * g + (x.j3 * g : Nat)
         ∀ l, s.Reads p c.space.toNat a g x.j3 .streamRead l → Answers (.copy c) s (fun t => SameBytes s t ∧ ∃ y, Stepped p y s t ∧
           y.phase = 0 ∧ y.got.look 0 x.j3 = BitVec.ofNat 512 (s.valueAt p a g x.j3 l) ∧ Tab.has y.got x.j3 = true ∧ y.j3 = x.j3 + 1)) ∧
       (x.phase = 0 → x.j3 = n → (∀ k, k < n → Tab.has x.got k = true) → Answers (.copy c) s (fun t => SameBytes s t ∧
         Stepped p { x with phase := 2, j0 := 0, j3 := 0, next := 0, vas := [] } s t)) ∧
       (x.phase = 2 → x.next < n → Tab.has x.full x.next = false → c.fused = 0 →
         ∀ l, s.Writes p c.space.toNat ((c.addr.toNat + x.next * g : Nat) : Int) g (x.got.look 0 x.next).toNat (.streamWrite g) .write l →
         Answers (.copy c) s (fun t => Stored l.key l.home g (x.got.look 0 x.next).toNat s t ∧ ∃ y, Stepped p y s t ∧ y.phase = 2 ∧
           y.next = x.next + 1)) ∧
       (x.phase = 2 → x.next = n → s.writesDone e p = true → Answers (.copy c) s (fun t => SameBytes s t ∧
         Stepped p { x with done := true, reply := 0 } s t))) ∧
     (s.Steps p 0x13 c → (s.elem e).age.heat = [] →
       let entry := c.addr.toNat + 4 * x.runs
       (x.phase = 0 → x.runs ≠ c.count.toNat → Tab.has x.got bmEntry = false → x.walked = 0 →
         ∀ l, s.Reads p c.space.toNat (entry : Int) 4 bmEntry .streamRead l → Answers (.bmld c) s (fun t => SameBytes s t ∧ ∃ y, Stepped p y s t ∧
           y.got.look 0 bmEntry = BitVec.ofNat 512 (s.valueAt p (entry : Int) 4 bmEntry l) ∧ y.walked = 1)) ∧
       (x.phase = 0 → x.runs ≠ c.count.toNat → Tab.has x.got bmEntry = true → Answers (.bmld c) s (fun t => SameBytes s t ∧
         ∃ y, Stepped p y s t ∧ y.phase = 2 ∧ y.result = entry + (x.got.look 0 bmEntry).toNat % 2^32 ∧ y.walked = 0)) ∧
       (x.phase = 2 → (x.result - entry) % 16 = 0 → x.walked < 4 → let a := x.result + 4 * x.walked; let i := bmMap + x.walked
         ∀ l, s.Reads p c.space.toNat (a : Int) 4 i .streamRead l → Answers (.bmld c) s (fun t => SameBytes s t ∧ ∃ y, Stepped p y s t ∧
           y.got.look 0 i = BitVec.ofNat 512 (s.valueAt p (a : Int) 4 i l) ∧ y.walked = x.walked + 1 ∧ y.phase = 2)) ∧
       (x.phase = 2 → (x.result - entry) % 16 = 0 → x.walked = 4 → (∀ k, k < 4 → Tab.has x.got (bmMap + k) = true) →
         Answers (.bmld c) s (fun t => SameBytes s t ∧ ∃ y, Stepped p y s t ∧ y.phase = 3 ∧ y.walked = 0 ∧
           y.shape = BitVec.ofNat 128 (packBits 32 ((List.range 4).map (fun k => (x.got.look 0 (bmMap + k)).toNat))))) ∧
       (x.phase = 0 → x.runs = c.count.toNat → Answers (.bmld c) s (fun t => SameBytes s t ∧
         Stepped p { x with outq := [(c.portLow, Token.ctl .eos)], phase := 1 } s t)))) ∧
  (∀ (s : State) (c : Cmd) (p k : Nat) (l : Loc), let e := s.site.elem; let x := s.place e p
     s.checkChip e (c.port.toNat / 16) c.count.toNat 64 = .ok l → tileKey l.home = some k →
     (x.next = 16 → Tab.has x.got 16 = false → s.writesDone e p = true →
       (s.Steps p 0x2C c → Answers (.tfil c) s (fun t => SameBytes s t ∧ Stepped p { x with done := true, reply := 0 } s t ∧
         ∀ m, t.tiles.look 0 m = if m = k then 2 else s.tiles.look 0 m)) ∧
       (s.Steps p 0x2D c → Answers (.tdrn c) s (fun t => SameBytes s t ∧ Stepped p { x with done := true, reply := 0 } s t ∧
         ∀ m, t.tiles.look 0 m = if m = k then (if c.flag 0 = true then 2 else 0) else s.tiles.look 0 m))) ∧
     (Tab.has x.got x.next = false → x.walked < 16 → x.walked = x.next → ∀ m,
       let reads (op : Nat) (i : Instr) (space a : Nat) : Prop :=
         s.Reads p space ((a + 64 * x.next : Nat) : Int) 64 x.next .streamRead m → s.Steps p op c → Answers i s (fun t => SameBytes s t ∧
           ∃ y, Stepped p y s t ∧ y.walked = x.walked + 1 ∧ y.next = x.next ∧
             y.got.look 0 x.next = BitVec.ofNat 512 (s.valueAt p ((a + 64 * x.next : Nat) : Int) 64 x.next m))
       reads 0x2C (.tfil c) c.space.toNat c.addr.toNat ∧ reads 0x2D (.tdrn c) (c.port.toNat / 16) c.count.toNat) ∧
     (Tab.has x.got x.next = true → c.fused = 0 → ∀ m, let v := (x.got.look 0 x.next).toNat
       let writes (op : Nat) (i : Instr) (space a : Nat) : Prop :=
         s.Writes p space ((a + 64 * x.next : Nat) : Int) 64 v (.streamWrite 64) .write m → s.Steps p op c → Answers i s (fun t =>
           Stored m.key m.home 64 v s t ∧ ∃ y, Stepped p y s t ∧ y.next = x.next + 1)
       writes 0x2C (.tfil c) (c.port.toNat / 16) c.count.toNat ∧ writes 0x2D (.tdrn c) c.space.toNat c.addr.toNat))

-- templates, lines, translations, frets ----------------------------------------------------------------------------

/-- R341, R342, R343, R246, R307, R344: `TARM` reads the four words of its block one after another; of an owned entry it then takes the block's
command, trigger and done queue, the offset of its panel, and binds the trigger; `TDIS` disarms and unbinds; `TFIR` replies 1 for an entry that is not
armed, and otherwise fires it in a free place of its AGE and waits for that firing; a message in the bound queue fires an armed entry and is consumed;
a firing that has ended pushes the entry's number to its done queue once there is room. Each names an entry that its job owns, or is held with class
3. Choices of the model that it rests on: log 56, 57. -/
def Obligations.TemplatesAreArmedFiredAndDisarmed : Prop :=
  ∀ (s : State) (c : Cmd) (p n : Nat), let e := s.site.elem; let x := s.place e p; let a := c.addr.toNat; let u := s.template n
    let owned : Prop := u.owned = true ∧ u.owner = (s.strand x.strand).job
    let unbound (m : Nat) : Option Nat :=
      if u.trigValid = true ∧ u.trigger = m ∧ (s.queue m).bound = some n then none else (s.queue m).bound
    let entry (v : Template) (t : State) : Prop := ∀ m, t.template m = if m = n then v else s.template m
    let ended (t : State) : Prop := Stepped p { x with done := true, reply := 0 } s t ∧ SameBytes s t ∧
      { t with elems := s.elems, templates := s.templates, queues := s.queues } = s
    let launches (q : Nat) : Prop := u.armed = true ∧ u.firing = false ∧ u.dormant = false ∧ s.regionRuns u.age = true ∧
      (∀ m ∈ cmdPorts (u.snapshot.toNat / 2^120) (cmdFields u.snapshot.toNat), m ∉ (s.elem u.age).age.busyPorts) ∧
      ((s.elem u.age).configured = true → (s.elem u.age).go = true) ∧ (s.elem u.age).age.freePlace = some q ∧
      barrierOf (cmdFields u.snapshot.toNat).fused.toNat (dieOf (panelOf u.age)) = none
    let firing : Place := { active := true, strand := u.strand, raw := u.snapshot, template := some n }
    (s.Steps p 0x24 c → n = c.count.toNat % 256 →
      let armed (v : Nat) (t : State) : Prop := let q := v / 2^128 % 2^10; let trig : Bool := v / 2^138 % 2 == 1
        ended t ∧ entry { u with
          snapshot := BitVec.ofNat 128 v, trigger := q, trigValid := trig, doneQ := v / 2^139 % 2^10, doneValid := v / 2^149 % 2 == 1
          age := e, offset := ((s.strand x.strand).offsetOf (panelOf e)).getD 0, strand := x.strand, armed := true, dormant := false } t ∧
        ∀ m, t.queue m = { s.queue m with
          bound := if trig = true ∧ m = q then some n else unbound m
          template := if trig = true ∧ m = q then n else (s.queue m).template }
      (x.phase = 2 → u.firing = true → Answers (.tarm c) s (· = s)) ∧
      (x.phase = 2 → u.firing = false → Answers (.tarm c) s (armed (packBits 64 (x.pairs.map BitVec.toNat)))) ∧
      (x.phase ≠ 2 → s.pullWaits e a 32 = false →
        (∀ k, s.checkSpace e 4 (a : Int) 32 .streamRead false = .error k → Answers (.tarm c) s (Held p k 0 a 4 s)) ∧
        (∀ l, s.checkSpace e 4 (a : Int) 32 .streamRead false = .ok l → let i := x.pairs.length
          (i < 4 → (∀ k, s.pull e (a + 8 * i) 8 .streamRead = .error k → Answers (.tarm c) s (Held p k 0 a 4 s)) ∧
            ∀ w, s.pull e (a + 8 * i) 8 .streamRead = .ok w →
              Answers (.tarm c) s (PlaceOnly p { x with pairs := x.pairs ++ [BitVec.ofNat 64 w] } s)) ∧
          (4 ≤ i → let v := packBits 64 (x.pairs.map BitVec.toNat)
           let queues := s.blockQueues n (s.strand x.strand).job (s.strand x.strand).lead v
          (¬ owned → Answers (.tarm c) s (Held p 3 0 a 4 s)) ∧
          (owned → blockOk v = false → Answers (.tarm c) s (Held p 1 0 a 4 s)) ∧
          (owned → blockOk v = true → queues = false → Answers (.tarm c) s (Held p 3 0 a 4 s)) ∧
          (owned → blockOk v = true → queues = true → u.firing = true → Answers (.tarm c) s (PlaceOnly p { x with phase := 2 } s)) ∧
          (owned → blockOk v = true → queues = true → u.firing = false → Answers (.tarm c) s (armed v)))))) ∧
    (s.Steps p 0x25 c → n = c.count.toNat % 256 →
      (¬ owned → Answers (.tdis c) s (Held p 3 0 0 0 s)) ∧
      (owned → u.firing = true → Answers (.tdis c) s (· = s)) ∧
      (owned → u.firing = false → u.armed = false → Answers (.tdis c) s (fun t => ended t ∧ t.templates = s.templates ∧ t.queues = s.queues)) ∧
      (owned → u.firing = false → u.armed = true → Answers (.tdis c) s (fun t => ended t ∧
        entry { u with armed := false } t ∧ ∀ m, t.queue m = { s.queue m with bound := unbound m }))) ∧
    (s.Steps p 0x26 c → n = c.count.toNat % 256 →
      (x.phase ≠ 2 → ¬ owned → Answers (.tfir c) s (Held p 3 0 0 0 s)) ∧
      (x.phase ≠ 2 → owned → u.armed = false → Answers (.tfir c) s (PlaceOnly p { x with done := true, reply := 1 } s)) ∧
      (∀ q, x.phase ≠ 2 → owned → launches q → Answers (.tfir c) s (fun t => t.place e p = { x with phase := 2 } ∧
        t.place u.age q = firing ∧ (∀ k m, (k ≠ e ∨ m ≠ p) → (k ≠ u.age ∨ m ≠ q) → t.place k m = s.place k m) ∧
        entry { u with firing := true, fired := some (e, p) } t ∧ SameBytes s t ∧ { t with elems := s.elems, templates := s.templates } = s)) ∧
      (x.phase = 2 → u.fired = some (e, p) → Answers (.tfir c) s (· = s)) ∧
      (x.phase = 2 → u.fired ≠ some (e, p) → Answers (.tfir c) s (PlaceOnly p { x with done := true, reply := 0 } s))) ∧
    (∀ q m, u.trigValid = true → u.trigger = m → (s.queue m).bound = some n → (s.queue m).spillCount = 0 → (s.queue m).count ≠ 0 → launches q →
      Answers (.templateFiring n) s (fun t => t.place u.age q = firing ∧ (∀ k i, (k ≠ u.age ∨ i ≠ q) → t.place k i = s.place k i) ∧
        entry { u with firing := true, fired := none } t ∧ SameBytes s t ∧
        (∀ i, t.queue i = if i = m then { s.queue m with head := ((s.queue m).head + 1) % (s.queue m).depth, count := (s.queue m).count - 1 }
          else s.queue i) ∧ { t with elems := s.elems, templates := s.templates, queues := s.queues } = s)) ∧
    (u.trigValid = true → (s.queue u.trigger).spillCount = 0 → (s.queue u.trigger).count = 0 → Answers (.templateFiring n) s (· = s)) ∧
    (let m := u.doneQ; let d := s.queue m; u.pushOwed = true →
      (d.valid = true → d.spillCount = 0 → d.count < d.depth → (d.spillCap = 0 ∨ s.rowHeld = false) → let at_ := s.ringAddr m ((d.head + d.count) % d.depth)
        Answers (.templateDonePush n) s (fun t => entry { u with pushOwed := false, firing := false } t ∧ t.peek at_ 16 = n % 2^128 ∧
          SameBytesBut at_ 16 s t ∧ (∀ i, t.queue i = if i = m then { d with count := d.count + 1 } else s.queue i) ∧
          { t with mem := s.mem, templates := s.templates, queues := s.queues } = s)) ∧
      (d.valid = false → Answers (.templateDonePush n) s (fun t => entry { u with pushOwed := false, firing := false } t ∧
        { t with templates := s.templates } = s)) ∧
      (d.valid = true → d.depth ≤ d.count → d.spillCap ≤ d.spillCount → Answers (.templateDonePush n) s (· = s)))

/-- R213, R249-R251: `LOCK` locks the next line for its job where R213 lets it, filled, and counts it, else counts a failure; `UNLK` releases a line
that its job has locked; neither changes a byte that an agent sees. `PREF` and `FLSH` go through their lines without a fault; a flushed line's changed
bytes stand at its home. At the end of the range they complete with their counts, `LOCK` once the write-backs that it caused are performed. R336,
R337: `XINV` purges every cached translation of its range and every stream-buffer line of it, and then waits until no access made under one is still
to be performed, purging again what such an access left; `XPRE` walks the next page of its range, installs a valid leaf for its AGE and its die, and
counts it. R346: `CBLD` reads its words one after another, then waits while its bank is the active one of its target; then the bank holds the words
read, valid, and zero and invalid from there up, and with S it sends a swap token that carries B; at its end the bank has its record and the CRC-32 of
the bytes, which it replies. A target outside the set, or no CE and no MXE, is class 2. Choices of the model that it rests on: log 2, 57, 58, 63. -/
def Obligations.LinesTranslationsAndFretBanks : Prop :=
  (∀ (s : State) (c : Cmd) (p : Nat), let e := s.site.elem; let x := s.place e p; let a := c.addr.toNat + 128 * x.j3; let n := c.count.toNat
     let die := dieOf (panelOf e); let job := (s.strand x.strand).job
     let room (m : Nat) : Prop := (s.dieLine die m).isSome = true ∨
       (s.dieLines.filter (fun d => d.die == die && l2Set d.line == l2Set m)).length < 16
     let moved (y : Place) (t : State) : Prop := Stepped p { y with j0 := x.j0 + 1, j3 := x.j3 + 1 } s t ∧ SameBytes s t
     let lines (m : Nat) (t : State) : Prop :=
       (∀ d k, (d ≠ die ∨ k ≠ m) → t.dieLine d k = s.dieLine d k ∧ t.lineSeen d k = s.lineSeen d k)
     let quotas (t : State) : Prop :=
       ∀ d j, (d ≠ die ∨ j ≠ job) → j < 64 → job < 64 → t.quota d j = s.quota d j
     (x.j3 = n →
       (s.Steps p 0x31 c → (∀ r ∈ s.reqs, r.isSector = true → BitVec.ofNat 64 r.id ∉ x.pairs) → Answers (.lock c) s (PlaceOnly p { x with
         done := true, reply := BitVec.ofNat 64 (x.written % 2^32 + x.walked % 2^32 * 2^32) } s)) ∧
       (s.Steps p 0x32 c → Answers (.unlk c) s (PlaceOnly p { x with done := true, reply := BitVec.ofNat 64 (x.written % 2^32) } s)) ∧
       (s.Steps p 0x30 c → Answers (.pref c) s (PlaceOnly p { x with done := true, reply := 0 } s)) ∧
       (s.Steps p 0x33 c → Answers (.flsh c) s (PlaceOnly p { x with done := true, reply := 0 } s))) ∧
     (x.j3 ≠ n →
       (∀ k, s.lineAt e a = .error k → (s.Steps p 0x31 c → Answers (.lock c) s (Held p k x.j3 (faultAddr a) 4 s)) ∧
         (s.Steps p 0x32 c → Answers (.unlk c) s (Held p k x.j3 (faultAddr a) 4 s)) ∧
         (s.Steps p 0x33 c → Answers (.flsh c) s (PlaceOnly p { x with j0 := x.j0 + 1, j3 := x.j3 + 1 } s))) ∧
       (∀ l, s.lineAt e a = .ok l → let m := l.home / 128; let held := (s.dieLine die m).bind (fun d => d.lock)
         let fits : Prop := l.kind ≠ 3 ∧ s.lockedWays die m ≤ 14 ∧ (s.quota die job).2 < (s.quota die job).1
         (s.Steps p 0x31 c →
           (held = some job → Answers (.lock c) s (PlaceOnly p { x with j0 := x.j0 + 1, j3 := x.j3 + 1, written := x.written + 1 } s)) ∧
           (held = none → fits → Answers (.lock c) s (fun t =>
             moved { x with written := x.written + 1, pairs := x.pairs ++ t.sentSince s.fresh } t ∧ quotas t ∧
             (room m → lines m t ∧ t.lineSeen die m = (s.underKey l.key (128 * m) 128).lineSeen die m) ∧
             (t.dieLine die m).bind (fun d => d.lock) = some job ∧ t.quota die job = ((s.quota die job).1, (s.quota die job).2 + 1))) ∧
           ((held.isSome = true ∧ held ≠ some job) ∨ (held = none ∧ ¬ fits) →
             Answers (.lock c) s (PlaceOnly p { x with j0 := x.j0 + 1, j3 := x.j3 + 1, walked := x.walked + 1 } s))) ∧
         (s.Steps p 0x32 c →
           (held = some job → Answers (.unlk c) s (fun t => moved { x with written := x.written + 1 } t ∧ quotas t ∧
             lines m t ∧ t.lineSeen die m = s.lineSeen die m ∧ (t.dieLine die m).bind (fun d => d.lock) = none ∧ t.quota die job = ((s.quota die job).1, (s.quota die job).2 - 1))) ∧
           (held ≠ some job → Answers (.unlk c) s (PlaceOnly p { x with j0 := x.j0 + 1, j3 := x.j3 + 1 } s))) ∧
         (s.Steps p 0x33 c → ∀ d, s.dieLines.filter (fun q => q.line == m) = [d] → d.die = die → d.changed ≠ 0 →
           s.queuedAt (s.bankOf (128 * m)) = [] → (∀ r ∈ s.reqs, r.stage = .home → r.isSector = true → r.home / 128 ≠ m) →
           Answers (.flsh c) s (fun t => Stepped p { x with j0 := x.j0 + 1, j3 := x.j3 + 1 } s t ∧ SameBytesBut (128 * m) 128 s t ∧
             (∀ i, i < 128 → memGet t.mem (128 * m + i) =
               if d.changed.getLsbD i = true then BitVec.ofNat 8 (d.data.toNat / 2^(8 * i)) else memGet (s.underKey d.key (128 * m) 128).mem (128 * m + i)) ∧
             (d.lock = none → t.dieLine die m = none) ∧ (d.lock.isSome = true → (t.dieLine die m).bind (fun q => q.lock) = d.lock)))) ∧
       (s.Steps p 0x30 c → let b := c.addr.toNat / 128 * 128 + 128 * x.j3; (∀ l, s.lineAt e b = .ok l → room (l.home / 128)) →
         Answers (.pref c) s (fun t => moved x t ∧ (∀ d k, (∀ l, s.lineAt e b = .ok l → d ≠ die ∨ k ≠ l.home / 128) →
           t.lineSeen d k = s.lineSeen d k) ∧ (∀ k, k ≠ e → t.elem k = s.elem k) ∧
         { t with elems := s.elems, dieLines := s.dieLines, streamLines := s.streamLines } = s)))) ∧
  (∀ (s : State) (c : Cmd) (p : Nat), let e := s.site.elem; let x := s.place e p; let job := (s.strand x.strand).job
     (s.Steps p 0x38 c →
       (x.phase = 0 → Answers (.xinv c) s (fun t => Stepped p { x with phase := 2, result := s.fresh } s t ∧ SameBytes s t ∧
         (∀ k, k ∈ t.tlbs ↔ k ∈ s.tlbs ∧ ¬ (k.job = job ∧ k.touches c = true)) ∧
         (∀ l, l ∈ t.streamLines ↔ l ∈ s.streamLines ∧ ¬ (l.job = job ∧ xinvCovers c (128 * l.line) = true)) ∧
         { t with elems := s.elems, tlbs := s.tlbs, streamLines := s.streamLines } = s)) ∧
       (x.phase = 2 → s.purgeWaits job x.result c = true → Answers (.xinv c) s (· = s)) ∧
       (x.phase = 2 → s.purgeWaits job x.result c = false → Answers (.xinv c) s (fun t => Stepped p { x with done := true, reply := 0 } s t ∧
         SameBytes s t ∧ (∀ k, k ∈ t.tlbs ↔ k ∈ s.tlbs ∧ ¬ (k.job = job ∧ k.touches c = true)) ∧
         (∀ l, l ∈ t.streamLines ↔ l ∈ s.streamLines ∧ ¬ (l.job = job ∧ xinvCovers c (128 * l.line) = true)) ∧
         { t with elems := s.elems, tlbs := s.tlbs, streamLines := s.streamLines } = s))) ∧
     (s.Steps p 0x39 c → let va := c.addr.toNat + 65536 * x.j3; let leaf := s.walkOn (dieOf (panelOf e)) job va
       (x.j3 = c.count.toNat → Answers (.xpre c) s (PlaceOnly p { x with
         done := true, reply := BitVec.ofNat 64 (x.written % 2^32 + x.walked % 2^32 * 2^32) } s)) ∧
       (∀ v big, x.j3 ≠ c.count.toNat → va < 2^60 → leaf = some (v, big) →
         Answers (.xpre c) s (fun t => Stepped p { x with j0 := x.j0 + 1, j3 := x.j3 + 1, written := x.written + 1 } s t ∧ SameBytes s t ∧
           (∀ o ∈ [TlbOwner.age e, TlbOwner.die (dieOf (panelOf e))],
             ({ owner := o, job, page := va / 65536, big, pte := BitVec.ofNat 64 v } : Tlb) ∈ t.tlbs) ∧
           (∀ k ∈ s.tlbs, k ∈ t.tlbs) ∧ { t with elems := s.elems, tlbs := s.tlbs } = s)) ∧
       (x.j3 ≠ c.count.toNat → (2^60 ≤ va ∨ leaf = none) → Answers (.xpre c) s (PlaceOnly p { x with
         j0 := x.j0 + 1, j3 := x.j3 + 1, walked := x.walked + 1 } s)))) ∧
  (∀ (s : State) (c : Cmd) (p : Nat), let e := s.site.elem; let x := s.place e p; let u := s.strand x.strand; let v := c.count.toNat
     let n := v % 256 + 1; let k := v / 2^14 % 2^7; let num := v / 2^8 % 2^6; let target := u.panelAt k * 64 + num; let a := c.addr.toNat
     let b := if c.flag 0 = true then 1 else 0; let ws := x.pairs.map BitVec.toNat; let i := x.pairs.length
     let fits : Prop := k < u.width * u.height ∧ (kindAt num = .ce ∨ kindAt num = .mxe)
     let only (f : Fret) (t : State) : Prop := SameBytes s t ∧ (t.elem target).fret b = f ∧
       (∀ m, m ≠ b → (t.elem target).fret m = (s.elem target).fret m) ∧
       { t.elem target with frets := (s.elem target).frets } = s.elem target ∧ (∀ m, m ≠ e → m ≠ target → t.elem m = s.elem m) ∧
       { t with elems := s.elems } = s
     s.Steps p 0x58 c → kindAt (e % 64) = .age →
     (x.phase ≠ 1 → ¬ fits → Answers (.cbld c) s (Held p 2 0 a 4 s)) ∧
     (fits →
       (x.phase ≠ 1 → i < n → s.pullWaits e (a + 8 * i) 8 = false →
         (∀ cls, s.pull e (a + 8 * i) 8 .fetch = .error cls → Answers (.cbld c) s (Held p cls i (faultAddr (a + 8 * i)) 4 s)) ∧
         (∀ w, s.pull e (a + 8 * i) 8 .fetch = .ok w →
           Answers (.cbld c) s (PlaceOnly p { x with pairs := x.pairs ++ [BitVec.ofNat 64 w], j3 := i + 1 } s))) ∧
       (x.phase ≠ 1 → i = n → (s.elem target).active = c.flag 0 → Answers (.cbld c) s (· = s)) ∧
       (x.phase ≠ 1 → i = n → (s.elem target).active ≠ c.flag 0 → Answers (.cbld c) s (fun t => let f := (t.elem target).fret b
         Stepped p { x with phase := 1, outq := if c.portTop = true then [(c.portLow, .beat .swap (BitVec.ofNat 512 b))] else [] } s t ∧
         only { (s.elem target).fret b with vals := f.vals, valid := f.valid } t ∧
         (∀ m, m < n → f.vals.look 0 m = BitVec.ofNat 64 (ws.getD m 0) ∧ f.valid.look false m = true) ∧
         ∀ m, n ≤ m → f.vals.look 0 m = 0 ∧ f.valid.look false m = false)) ∧
       (x.phase = 1 → i = n → Answers (.cbld c) s (fun t => let f := (t.elem target).fret b
         Stepped p { x with done := true, reply := BitVec.ofNat 64 f.checksum.toNat } s t ∧ only f t ∧
         f.source = c.addr ∧ f.countM1 = BitVec.ofNat 8 (n - 1) ∧ f.loaded = true ∧
         f.checksum = BitVec.ofNat 32 (crc32 (ws.flatMap (toBytes 8)))))))

-- fibres ------------------------------------------------------------------------------------------------------------

/-- R262: a run of pairs merged into the chunks of a fibre leaves its coordinates ascending and 1 to 6 pairs in every chunk; a coordinate of the run
holds the combination of its old value with the run's values in turn, or of the run's values alone; every other keeps its value; the number of pairs
grows by the pairs that were not combined. A choice of the model that it rests on: log 62. -/
def Obligations.MergesKeepTheOrderOfAFibre : Prop :=
  ∀ (type op : Nat) (run : List (Nat × Nat)) (old : List FChunk),
    let pairsOf (l : List FChunk) : List (Nat × Nat) := l.flatMap (fun k => k.pairs)
    let wf (l : List FChunk) : Prop := (pairsOf l).Pairwise (fun a b => a.1 < b.1) ∧ ∀ k ∈ l, 1 ≤ k.pairs.length ∧ k.pairs.length ≤ 6
    wf old → let m := mergeRun type op run (old, {})
    wf m.1 ∧ (pairsOf m.1).length + m.2.combined = (pairsOf old).length + run.length ∧
    (∀ c, (pairsOf m.1).lookup c = (run.filter (fun q => q.1 == c)).foldl
      (fun v q => some (match v with | none => q.2 | some x => fibCombine type op x q.2)) ((pairsOf old).lookup c)) ∧
    m.1.length = old.length + m.2.allocs

/-- R257, R259, R260, R262, R268, R269: a fibre command is performed at the stitch unit of its head, at once where the unit is idle and answers
promptly, else in the unit's queue. `FNEW` writes the head of an empty fibre with its default; `FCLR` empties a fibre, `FFRE` frees its head too, and
the old chunks are owed to the pool; `FCNT` replies the count. A head that does not suit the command is class 9. R262, R326: `FMRG` reads its pairs at
their distance from the fibre, or takes level-1 runs from its port, and sends each run to the stitch unit, which performs its checks, its allocation
and then its writes one at a time; the place goes on after the last. A unit gives back the chunks that no earlier reader holds: zeroed, at the front
of their pool's free list. Choices of the model that it rests on: log 36, 37, 57. -/
def Obligations.FibreHeadsAndMergesArePerformed : Prop :=
  (∀ (s : State) (c : Cmd) (p pa : Nat) (h : FHead), let e := s.site.elem; let x := s.place e p; let job := (s.strand x.strand).job
     let f := c.addr.toNat; let v := c.count.toNat; let u := s.unitOf pa
     let ended (y : Place) (new : FHead) (t : State) : Prop := Stepped p y s t ∧ headOf (t.peek (pa % 2^64) 16) = new ∧
       SameBytesUnder (pa / 2^64) (pa % 2^64) 16 s t ∧
       { t with elems := s.elems, mem := s.mem, seals := s.seals, stitches := s.stitches } = s
     s.fibHead e job f false = .ok (pa, h) →
     (∀ g ∈ ([(0x40, .fnew c, .fnew), (0x46, .fclr c, .fclr), (0x47, .ffre c, .ffre)] : List (Nat × Instr × FibKind)), s.Steps p g.1 c →
       (x.phase = 1 → Answers g.2.1 s (PlaceOnly p { x with done := true, reply := BitVec.ofNat 64 x.cost.word } s)) ∧
       (x.phase = 2 → Answers g.2.1 s (· = s)) ∧
       (x.phase = 3 → Answers g.2.1 s (PlaceOnly p { x with phase := 1 } s)) ∧
       (x.phase = 0 → s.prompt = false ∨ (s.stitch u).queue ≠ [] → Answers g.2.1 s (fun t => Stepped p { x with phase := 2 } s t ∧
         SameBytes s t ∧ t.stitch u = { s.stitch u with queue := (s.stitch u).queue ++
           [{ kind := g.2.2, age := e, place := p, job, head := f, pairs := [], params := v }] } ∧
         (∀ m, m ≠ u → t.stitch m = s.stitch m) ∧ { t with elems := s.elems, stitches := s.stitches } = s))) ∧
     (x.phase = 0 → s.prompt = true → (s.stitch u).queue = [] → s.fibHead e job f true = .ok (pa, h) →
       (s.Steps p 0x40 c → ∀ q, s.fibPool e job f (v % 2^8) false = .ok q → let type := v / 2^8 % 2^2; let op := v / 2^10 % 2^3
         (h.valid = false → fibAccepts type op = true → Answers (.fnew c) s (fun t => t.stitches = s.stitches ∧ ended { x with phase := 1 }
           { chunk := 0xFFFFFFFF, count := 0, version := 0, pool := v % 2^8, type, op, valid := true,
             dflt := fibDefault type (v / 2^13 % 2^2) } t)) ∧
         (h.valid = true ∨ fibAccepts type op = false → Answers (.fnew c) s (Held p 9 0 (faultAddr f) 4 s))) ∧
       (∀ g ∈ ([(0x46, .fclr c, true), (0x47, .ffre c, false)] : List (Nat × Instr × Bool)), s.Steps p g.1 c →
         (h.valid = false → Answers g.2.1 s (Held p 9 0 (faultAddr f) 4 s)) ∧
         -- the chunks and the pool are written only where the fibre has chunks (R226 check 5)
         (∀ q l, h.valid = true → s.fibPool e job f h.pool false = .ok q → s.fibList e job f q none q.cap h.chunk = .ok l →
           s.fibWritable e job q l = .ok () → (l ≠ [] → s.fibPool e job f h.pool true = .ok q) →
           Answers g.2.1 s (fun t => ended { x with phase := 1, cost := { x.cost with read := x.cost.read + l.length } }
               { h with chunk := 0xFFFFFFFF, count := 0, version := (h.version + 1) % 2^16, valid := g.2.2 } t ∧
             (l = [] → t.stitches = s.stitches) ∧
             (l ≠ [] → t.stitch u = { s.stitch u with releases := (s.stitch u).releases ++
               [{ desc := q.at_, chunks := l.map (fun k => (k.idx, k.pa)),
                  waits := ((s.stitch u).readers.filter (fun r => r.head == pa)).map (·.id) }], owes := none } ∧
               ∀ m, m ≠ u → t.stitch m = s.stitch m))))) ∧
     (s.Steps p 0x45 c → (s.stitch u).queue = [] →
       (∀ q, h.valid = true → s.fibPool e job f h.pool false = .ok q →
         (h.chunk = 0xFFFFFFFF ∨ h.chunk < q.cap →
           Answers (.fcnt c) s (PlaceOnly p { x with done := true, reply := BitVec.ofNat 64 (h.count * 2^32) } s)) ∧
         (h.chunk ≠ 0xFFFFFFFF → q.cap ≤ h.chunk → Answers (.fcnt c) s (Held p 9 0 f 4 s))) ∧
       (h.valid = false → Answers (.fcnt c) s (Held p 9 0 f 4 s)))) ∧
  (∀ (s : State) (c : Cmd) (p : Nat), let e := s.site.elem; let x := s.place e p; let job := (s.strand x.strand).job
     let f := c.addr.toNat; let n := c.port.toNat + 1
     let sent (i : Instr) (pairs : List (BitVec 64)) (base : Nat) (y : Place) : Prop := ∀ pa h, s.fibHead e job f false = .ok (pa, h) →
       let u := s.unitOf pa; let o : FibOp := { kind := .merge, age := e, place := p, job, head := f, pairs, params := base }
       (s.prompt = false ∨ (s.stitch u).queue ≠ [] → Answers i s (fun t => Stepped p { x with phase := 2 } s t ∧ SameBytes s t ∧
         t.stitch u = { s.stitch u with queue := (s.stitch u).queue ++ [o] } ∧ { t with elems := s.elems, stitches := s.stitches } = s)) ∧
       (s.prompt = true → (s.stitch u).queue = [] →
         (∀ d, s.fibPerform o = .ok d → Answers i s (fun t => t.mem = (State.fibWrites d.writes d.state).mem ∧
           Stepped p { y with cost := x.cost.add d.cost } s t ∧ ∀ k, k ≠ e → t.elem k = s.elem k)) ∧
         (∀ k a j, s.fibPerform o = .error (k, a, j) → Answers i s (Held p k j (faultAddr a) 4 s)))
     (s.Steps p 0x41 c → x.phase = 0 → (s.elem e).age.heat = [] →
       (x.j3 < n → let a : Int := (f : Int) + 8 * sint 27 c.count.toNat + (8 * x.j3 : Nat)
         ∀ l, s.Reads p 4 a 8 x.j3 .streamRead l → Answers (.fmrg c) s (fun t => SameBytes s t ∧ ∃ y, Stepped p y s t ∧ y.j3 = x.j3 + 1 ∧
           y.got.look 0 x.j3 = BitVec.ofNat 512 (s.valueAt p a 8 x.j3 l))) ∧
       (x.j3 = n → (∀ k, k < n → Tab.has x.got k = true) →
         sent (.fmrg c) ((List.range n).map (fun k => BitVec.ofNat 64 (x.got.look 0 k).toNat)) 0
           { x with phase := 1, got := [], vas := [], full := [] })) ∧
     (s.Steps p 0x41 c → x.phase = 1 → Answers (.fmrg c) s (PlaceOnly p { x with done := true, reply := BitVec.ofNat 64 x.cost.word } s)) ∧
     (s.Steps p 0x41 c → x.phase = 0 → x.runs = 0 → ∀ pa h, s.fibHead e job f false = .ok (pa, h) → (s.stitch (s.unitOf pa)).queue = [] →
       (h.valid = false → Answers (.fmrgPort c) s (Held p 9 0 f 4 s)) ∧
       (∀ q, h.valid = true → s.fibPool e job f h.pool false = .ok q → (h.chunk = 0xFFFFFFFF ∨ h.chunk < q.cap) →
         Answers (.fmrgPort c) s (PlaceOnly p { x with runs := 1 } s))) ∧
     (s.Steps p 0x41 c → x.phase = 0 → x.runs ≠ 0 →
       (x.runFull = true ∨ x.pairs.length = 256 →
         sent (.fmrgPort c) x.pairs x.written { x with pairs := [], runFull := false, written := x.written + x.pairs.length }) ∧
       (x.runFull = false → x.pairs.length ≠ 256 →
         (x.eos = true → Answers (.fmrgPort c) s (PlaceOnly p { x with done := true, reply := BitVec.ofNat 64 x.cost.word } s)) ∧
         (∀ tok, x.eos = false → s.regionStands e = false → (s.elem e).head (c.portLow - 8) = some tok →
           let took (y : Place) : Prop := Answers (.fmrgPort c) s (fun t => SameBytes s t ∧ Stepped p y s t ∧
             ∀ m, (t.elem e).standing m = ((s.elem e).standing m).drop (if m = c.portLow - 8 then 1 else 0))
           (tok.kind = .data → tok.tile = false → took { x with
             j0 := x.j0 + 1, j3 := x.j3 + 1, pairs := x.pairs ++ [BitVec.ofNat 64 tok.row.toNat] }) ∧
           (∀ k, tok.kind = .stop k → took { x with runFull := !x.pairs.isEmpty }) ∧
           (tok.kind = .eos → took { x with runFull := !x.pairs.isEmpty, eos := true })))) ∧
     (∀ unit o rest, s.rowHeld = false → let w := s.stitch unit; w.queue = o :: rest →
       (∀ a k v more, w.writes = (a, k, v) :: more → k ≤ 64 → Answers (.merge unit) s (fun t =>
         t.peek (a % 2^64) k = v.toNat % 2^(8 * k) ∧ SameBytesUnder (a / 2^64) (a % 2^64) k s t ∧
         (more ≠ [] → t.stitch unit = { w with writes := more }) ∧
         (more = [] → w.owes = none → t.stitch unit = { w with writes := [], queue := rest }) ∧
         (∀ r, more = [] → w.owes = some r → t.stitch unit = { w with
           writes := [], queue := rest, owes := none
           releases := w.releases ++ [{ r with waits := (w.readers.filter (fun g => g.head == a)).map (·.id) }] }) ∧
         (∀ g q, t.place g q = if more = [] ∧ g = o.age ∧ q = o.place ∧ (s.place g q).active = true ∧ (s.place g q).phase = 2
           then { s.place g q with phase := 3 } else s.place g q))) ∧
       (∀ d, w.writes = [] → s.fibPerform o = .ok d → Answers (.merge unit) s (fun t => t.mem = d.state.mem ∧
         (t.stitch unit).writes = d.writes ∧ (t.stitch unit).owes = d.owes ∧ (t.stitch unit).queue = o :: rest)) ∧
       (∀ k a j, w.writes = [] → s.fibPerform o = .error (k, a, j) → Answers (.merge unit) s (fun t => SameBytes s t ∧
         t.stitch unit = { w with queue := rest } ∧
         ((s.place o.age o.place).active = true → (s.place o.age o.place).phase = 2 →
           t.place o.age o.place = { s.place o.age o.place with phase := 0, held := true } ∧
           (t.elem o.age).age.port = portFaultReg k (s.place o.age o.place).op j (faultAddr a) 4)))) ∧
     (∀ unit, (s.stitch unit).queue = [] → Answers (.merge unit) s (· = s)) ∧
     (∀ unit, (∀ r ∈ (s.stitch unit).releases, ∃ k ∈ (s.stitch unit).readers, k.id ∈ r.waits) → Answers (.chunkRelease unit) s (fun t =>
       SameBytes s t ∧ t.stitch unit = s.stitch unit)) ∧
     (∀ unit r i pa, (s.stitch unit).releases = [r] → (∀ k ∈ (s.stitch unit).readers, k.id ∉ r.waits) → r.chunks = [(i, pa)] →
       let q := poolOf r.desc (s.peekTag r.desc 32); let home := pa % 2^64; let desc := r.desc % 2^64
       s.rowHeld = false → i < 2^32 → q.freeCount + 1 < 2^32 → home % 64 = 0 → desc % 32 = 0 → home / 64 ≠ desc / 64 →
       Answers (.chunkRelease unit) s (fun t =>
         t.peek home 64 = (if q.freeCount = 0 then 0xFFFFFFFF else q.free) ∧
         poolOf r.desc (t.peek desc 32) = { q with free := i, freeCount := q.freeCount + 1 } ∧
         t.stitch unit = { s.stitch unit with releases := [] } ∧
         ∀ a, (a < home ∨ home + 64 ≤ a) → (a < desc ∨ desc + 32 ≤ a) →
           memGet t.mem a = memGet ((s.underKey (pa / 2^64) home 64).underKey (r.desc / 2^64) desc 32).mem a)))

/-- R243, R263-R265, R267, R326: a scan, `BLKX` or `FTOP` registers as a reader before it reads the head of its fibre and then its chunks in list
order; a scan emits one token for each pair whose coordinate exceeds the last that it emitted, and ends the fibre's run; `FTOP` keeps the pairs, and
at the end sends the k greatest, of equal values the lower coordinate first. The registration ends with the last chunk. `scanStep` is that chunk's
read where memory is not prompt. R263, R266, R275, R276, R326: `FPRB` answers every coordinate of its rows with its value, or the default and 1
(nothing with flag 0), passes other control tokens on and ends with `EOS`; a coordinate above the last goes on from the chunk where that probe ended,
or, where that chunk now begins beyond it, from the chunk before (log 120). `VOXL` takes a row with lane 15 set as its sweep header, drops a point
outside its grid, and merges a point's value at its cell; in modes 1 and 2 it goes through the 27 neighbours of a pair. Choices of the model that it
rests on: log 38, 61, 120. -/
def Obligations.ScansProbesAndSweepsReadFibres : Prop :=
  (∀ (s : State) (c : Cmd) (p : Nat), let e := s.site.elem; let x := s.place e p; let job := (s.strand x.strand).job
     let moves (i : Instr) (y : Place) : Prop := Answers i s (fun t => SameBytes s t ∧ Stepped p y s t)
     let opens (i : Instr) (f : Nat) : Prop :=
       (∀ pa, x.registered = none → s.fibSite e job f = .ok pa → let u := s.unitOf pa
         ((s.stitch u).readers.length < Config.registrations → Answers i s (fun t => SameBytes s t ∧
           Stepped p { x with registered := some s.fresh } s t ∧ (t.stitch u).readers = (s.stitch u).readers ++
             [{ id := s.fresh, head := pa, age := e, place := p }] ∧ t.fresh = s.fresh + 1)) ∧
         (Config.registrations ≤ (s.stitch u).readers.length → Answers i s (· = s))) ∧
       ∀ pa h, s.fibHead e job f false = .ok (pa, h) →
       (∀ q, x.registered.isSome = true → h.valid = true → (i = .ftop c → h.type ≠ 2) → s.fibPool e job f h.pool false = .ok q →
         (h.chunk = 0xFFFFFFFF ∨ h.chunk < q.cap) → moves i { x with
           shape := BitVec.ofNat 128 h.bits, chunk := if h.chunk = 0xFFFFFFFF then none else some h.chunk, walked := 0, stand := none
           lastC := none, runData := false, phase := if h.chunk = 0xFFFFFFFF then 6 else 5 }) ∧
       (x.registered.isSome = true → h.valid = false → Answers i s (Held p 9 0 f 4 s))
     x.packVas = [] → let scans : List (Nat × Bool × Instr) := [(0x42, c.flag 0, .fscn c), (0x14, true, .blkx c)]
     (∀ g ∈ scans, s.Steps p g.1 c → let f := c.addr.toNat + 16 * x.runs
       (x.phase = 0 → x.runs ≠ c.count.toNat → opens g.2.2 f) ∧
       (x.phase = 0 → x.runs = c.count.toNat → moves g.2.2 { x with outq := [(c.portLow, Token.ctl .eos)], phase := 1 }) ∧
       (x.phase = 1 → moves g.2.2 { x with done := true, reply := BitVec.ofNat 64 x.cost.word }) ∧
       (x.phase = 6 → x.tileRows = [] → x.packN = 0 → moves g.2.2 { x with
         registered := none, runs := x.runs + 1, runData := false, phase := 0, j0 := x.j0 + 1, j3 := x.j3 + 1
         outq := if g.2.1 = true ∧ ¬ (x.runs + 1 = c.count.toNat ∧ x.runData = true) then [(c.portLow, Token.ctl (.stop 1))] else [] })) ∧
     (s.Steps p 0x44 c →
       (x.phase = 0 → opens (.ftop c) c.addr.toNat) ∧
       (x.phase = 1 → moves (.ftop c) { x with done := true, reply := BitVec.ofNat 64 (x.cost.word + x.result % 2^32 * 2^32) }) ∧
       (x.phase = 6 → let int := (headOf x.shape.toNat).type == 1; let k := c.count.toNat % 2^16
         let kept := (x.pairs.map (fun w => ((w.toNat % 2^32, w.toNat / 2^32) : Nat × Nat))).filter (fun q => topKeeps int (c.flag 0) q.2)
         Answers (.ftop c) s (fun t => SameBytes s t ∧ ∃ l : List (Nat × Nat), l.Perm kept ∧
           l.Pairwise (fun a b => topKey int b.2 < topKey int a.2 ∨ (topKey int a.2 = topKey int b.2 ∧ a.1 ≤ b.1)) ∧
           Stepped p { x with
             registered := none, pairs := [], phase := 1, result := (l.take k).length
             outq := (((l.take k) ++ (if c.flag 1 = true then
               List.replicate (k - (l.take k).length) ((0xFFFFFFFF, if int = true then 0x80000000 else 0xFF800000) : Nat × Nat) else [])).map
                 (fun (q : Nat × Nat) => (c.portLow, Token.dat (packRow 32 [q.1, q.2])))) ++
               [(c.portLow, Token.ctl (.stop 1)), (c.portLow, Token.ctl .eos)] } s t))) ∧
     (∀ q i k, let f := c.addr.toNat + 16 * x.runs; x.phase = 5 → x.chunk = some i → x.walked < q.cap →
       let new := k.pairs.filter (fun w => match x.lastC with | some l => decide (l < w.1) | none => true)
       let read : Place := { x with
         walked := x.walked + 1, cost := { x.cost with read := x.cost.read + 1 }
         lastC := (match new.getLast? with | some w => some w.1 | none => x.lastC), chunk := if k.next = 0xFFFFFFFF then none else some k.next
         phase := if k.next = 0xFFFFFFFF then 6 else 5, registered := if k.next = 0xFFFFFFFF then none else x.registered }
       let emits : Place := { read with
         outq := new.map (fun w => (c.portLow, Token.dat (packRow 32 [w.1, w.2]))), runData := x.runData || !new.isEmpty }
       (s.fibPool e job f (headOf x.shape.toNat).pool false = .ok q → s.fibChunk e job f q i false = .ok k →
         (∀ g ∈ scans, s.Steps p g.1 c → (s.prompt = true → moves g.2.2 emits) ∧ (s.prompt = false → Answers g.2.2 s (· = s)) ∧
           Answers .scanStep s (fun t => SameBytes s t ∧ Stepped p emits s t ∧ t.prompt = s.prompt))) ∧
       (s.Steps p 0x44 c → s.prompt = true → s.fibPool e job c.addr.toNat (headOf x.shape.toNat).pool false = .ok q →
         s.fibChunk e job c.addr.toNat q i false = .ok k → moves (.ftop c) { read with
           pairs := x.pairs ++ new.map (fun w => BitVec.ofNat 64 (w.1 + w.2 * 2^32)) }))) ∧
  (∀ (s : State) (c : Cmd) (p : Nat), let e := s.site.elem; let x := s.place e p; let job := (s.strand x.strand).job; let f := c.addr.toNat
     let moves (i : Instr) (y : Place) : Prop := Answers i s (fun t => SameBytes s t ∧ Stepped p y s t)
     let took (i : Instr) (port : Nat) (y : Place) : Prop := Answers i s (fun t => SameBytes s t ∧ Stepped p y s t ∧
       ∀ m, (t.elem e).standing m = ((s.elem e).standing m).drop (if m = port then 1 else 0))
     let read (k : FChunk) : Place := let low := (k.pairs.headD (0, 0)).1
       { x with endLow := low, stand := if low ≤ x.next then some (k.idx, x.walked) else x.stand }
     let answer (k : FChunk) (hit : Bool) (v : Nat) : Place := { read k with
       walked := x.walked + 1, cost := { x.cost with read := x.cost.read + 1 }, lastC := some x.next, phase := 0, inq := x.inq.drop 1
       outq := if c.flag 0 = true ∧ hit = false then [] else [(c.portLow, Token.dat (packRow 32 [x.next, v, if hit = true then 0 else 1]))] }
     -- a reader is registered before it reads its first head (R263)
     let enrols (i : Instr) : Prop := x.phase = 0 → x.runs = 0 → x.registered = none → ∀ pa, s.fibSite e job f = .ok pa → let u := s.unitOf pa
       ((s.stitch u).readers.length < Config.registrations → Answers i s (fun t => SameBytes s t ∧
         Stepped p { x with registered := some s.fresh } s t ∧ (t.stitch u).readers = (s.stitch u).readers ++
           [{ id := s.fresh, head := pa, age := e, place := p }])) ∧
       (Config.registrations ≤ (s.stitch u).readers.length → Answers i s (· = s))
     let first (i : Instr) : Prop := x.phase = 0 → x.runs = 0 →
       ∀ pa h, s.fibHead e job f false = .ok (pa, h) → (s.stitch (s.unitOf pa)).queue = [] →
         (h.valid = false → Answers i s (Held p 9 0 f 4 s)) ∧
         (∀ q, h.valid = true → s.fibPool e job f h.pool false = .ok q → (h.chunk = 0xFFFFFFFF ∨ h.chunk < q.cap) →
           Answers i s (PlaceOnly p { x with runs := 1 } s))
     x.packVas = [] → (s.Steps p 0x43 c → enrols (.fprb c) ∧ (x.registered.isSome = true → first (.fprb c)) ∧
       (x.phase = 1 → moves (.fprb c) { x with done := true, reply := BitVec.ofNat 64 x.cost.word })) ∧
     (s.Steps p 0x43 c → x.runs ≠ 0 →
       (∀ tok, x.phase = 0 → x.inq = [] → s.regionStands e = false → (s.elem e).head c.portMid = some tok →
         (tok.kind = .data → took (.fprb c) c.portMid { x with inq := tok.rows }) ∧
         (tok.kind = .eos → took (.fprb c) c.portMid { x with registered := none, outq := [(c.portLow, Token.ctl .eos)], phase := 1 }) ∧
         (tok.kind ≠ .data → tok.kind ≠ .eos → took (.fprb c) c.portMid { x with outq := [(c.portLow, tok)] })) ∧
       (∀ r rest, x.phase = 0 → x.inq = r :: rest → (x.lastC = none ∨ x.chunk = none) →
         moves (.fprb c) { x with j0 := x.j0 + 1, j3 := x.j3 + 1, next := lane r 0, phase := 4 }) ∧
       (∀ r rest l i, x.phase = 0 → x.inq = r :: rest → x.lastC = some l → x.chunk = some i → let k := lane r 0
         let on : Place := { x with j0 := x.j0 + 1, j3 := x.j3 + 1, next := k }
         (k ≤ l → moves (.fprb c) { on with phase := 4 }) ∧
         (l < k → x.endLow ≤ k → moves (.fprb c) { on with phase := 5, walked := x.walked - 1 }) ∧
         (∀ m w, l < k → k < x.endLow → x.stand = some (m, w) → moves (.fprb c) { on with phase := 5, chunk := some m, walked := w })) ∧
       (∀ pa h q, x.phase = 4 → x.registered.isSome = true → s.fibHead e job f false = .ok (pa, h) → h.valid = true →
         s.fibPool e job f h.pool false = .ok q → h.chunk < q.cap → h.chunk ≠ 0xFFFFFFFF → x.next ≠ 0xFFFFFFFF →
         moves (.fprb c) { x with shape := BitVec.ofNat 128 h.bits, chunk := some h.chunk, walked := 0, stand := none, phase := 5 }) ∧
       (∀ q i k, x.phase = 5 → s.prompt = true → x.chunk = some i → x.walked < q.cap →
         s.fibPool e job f (headOf x.shape.toNat).pool false = .ok q → s.fibChunk e job f q i false = .ok k →
         (∀ w, k.pairs.find? (fun w => w.1 == x.next) = some w → moves (.fprb c) (answer k true w.2)) ∧
         (k.pairs.find? (fun w => w.1 == x.next) = none →
           (x.next < (k.pairs.getLastD (0, 0)).1 ∨ k.next = 0xFFFFFFFF → moves (.fprb c) (answer k false (headOf x.shape.toNat).dflt)) ∧
           (¬ (x.next < (k.pairs.getLastD (0, 0)).1 ∨ k.next = 0xFFFFFFFF) → moves (.fprb c) { read k with
             walked := x.walked + 1, cost := { x.cost with read := x.cost.read + 1 }, chunk := some k.next })))) ∧
     (s.Steps p 0x48 c → (c.flags.toNat % 4 = 2 → enrols (.voxl c)) ∧
       (c.flags.toNat % 4 ≠ 2 ∨ x.registered.isSome = true → first (.voxl c)) ∧
       (x.phase = 1 → moves (.voxl c) { x with done := true, reply := BitVec.ofNat 64 (x.cost.word + x.result % 2^32 * 2^32) })) ∧
     (s.Steps p 0x48 c → x.runs ≠ 0 →
       (∀ tok, x.phase = 0 → x.inq = [] → s.regionStands e = false → (s.elem e).head (c.portLow - 8) = some tok →
         (tok.kind = .data → took (.voxl c) (c.portLow - 8) { x with inq := tok.rows }) ∧
         (tok.kind = .eos → took (.voxl c) (c.portLow - 8) { x with
           registered := none, phase := 1
           outq := if c.portTop = true ∧ c.flags.toNat % 4 ≠ 0 then [(c.portMid, Token.ctl .eos)] else [] })) ∧
       (∀ r rest, x.phase = 0 → x.inq = r :: rest → c.flags.toNat % 4 = 0 →
         (lane r 15 % 2^31 ≠ 0 → moves (.voxl c) { x with sweep := some r, inq := rest }) ∧
         (lane r 15 % 2^31 = 0 → x.sweep = none → Answers (.voxl c) s (Held p 9 x.j3 f 4 s)) ∧
         (∀ h pa hd v, lane r 15 % 2^31 = 0 → x.sweep = some h → s.fibHead e job f false = .ok (pa, hd) → hd.valid = true → voxValue hd.type hd.op h r = some v →
           (voxCell h r = none → moves (.voxl c) { x with inq := rest, j0 := x.j0 + 1, j3 := x.j3 + 1, result := x.result + 1 }) ∧
           (∀ key, voxCell h r = some key → (s.prompt = false ∨ (s.stitch (s.unitOf pa)).queue ≠ []) →
             Answers (.voxl c) s (fun t => SameBytes s t ∧ Stepped p { x with phase := 2 } s t ∧
               (t.stitch (s.unitOf pa)).queue = (s.stitch (s.unitOf pa)).queue ++ [{
                 kind := .merge, age := e, place := p, job, head := f, pairs := [BitVec.ofNat 64 (key + v * 2^32)], params := x.j3 }])))) ∧
       (∀ r rest, x.phase = 0 → x.inq = r :: rest → c.flags.toNat % 4 ≠ 0 → voxNeighbour (lane r 0) x.packN = none →
         moves (.voxl c) (if x.packN = 26 then { x with packN := 0, inq := rest, j0 := x.j0 + 1, j3 := x.j3 + 1 }
           else { x with packN := x.packN + 1 }))))

-- bank array units ----------------------------------------------------------------------------------------------------

/-- R61, R281: `BKLD` of 1 to 256 words reads its words one after another, notes the runs that its job has issued by then, waits until none of those
runs is in progress, and makes the words the job's program, replying 0; another number of words replies 5, and a program that breaks R61 replies its
status; neither changes the program. R280, R282, R283: `BKRN` and `BKRL` check their stripes in order, send each run to every bank of the range, take
the results of a run when all its banks have ended, as pairs of bank and result in ascending bank order, and reply their sum and the number of banks;
with no program loaded they reply 2^48. `BKRN` runs once from base 0, `BKRL` once for each row that it takes. R284, R285: a word of a running bank.
Words of the registers K, M, T and the result change them alone; a row word needs an open row and works on its 512 columns: `BCMP`, `BCMPA` and
`BCMPO` match K under M into T, `BWR` writes K under M and `BTT` its table to every tagged column and to no other byte; `BROW` opens a row of the
range once the pending queue is empty; `BEND` reports the result. A row word without a row is bank fault 2, the hold limit 3, an unreadable row 4, a
row beyond the range 1. Refresh changes nothing (R287). Choices of the model that it rests on: log 40, 44, 57, 64. -/
def Obligations.BanksLoadAndRunTheirPrograms : Prop :=
  (∀ (s : State) (c : Cmd) (p : Nat), let e := s.site.elem; let x := s.place e p; let job := (s.strand x.strand).job; let n := c.count.toNat
     let ws := x.pairs.map BitVec.toNat; let i := x.pairs.length; let a := c.addr.toNat + 8 * i
     let goes (y : Place) : Prop := Answers (.bkld c) s (PlaceOnly p y s)
     let done (v : Nat) : Prop := goes { x with done := true, reply := BitVec.ofNat 64 v }
     s.Steps p 0x50 c →
     ((n = 0 ∨ 256 < n) → done 5) ∧
     (1 ≤ n → n ≤ 256 →
       (x.phase = 0 → i = n → goes { x with phase := 1, behind := s.bankRuns job }) ∧
       (i < n → s.pullWaits e a 8 = false →
         (∀ cls, s.pull e a 8 .fetch = .error cls → Answers (.bkld c) s (Held p cls i (faultAddr a) 4 s)) ∧
         (∀ w, s.pull e a 8 .fetch = .ok w → goes { x with pairs := x.pairs ++ [BitVec.ofNat 64 w] })) ∧
       (x.phase ≠ 0 → i = n → s.bankBusy job x = true → Answers (.bkld c) s (· = s)) ∧
       (x.phase ≠ 0 → i = n → s.bankBusy job x = false →
         ((∀ w ∈ ws, ∃ k, decodeBank w = .ok k) → 0x8000000000000000 ∈ ws → Answers (.bkld c) s (fun t =>
           Stepped p { x with done := true, reply := 0 } s t ∧ SameBytes s t ∧
           (∀ j, t.programs.look [] j = if j = job then x.pairs else s.programs.look [] j) ∧
           { t with elems := s.elems, programs := s.programs } = s)) ∧
         ((∀ w ∈ ws, ∃ k, decodeBank w = .ok k) → 0x8000000000000000 ∉ ws → done 4) ∧
         (∀ k, k < n → (∀ j, j < k → ∃ q, decodeBank (ws.getD j 0) = .ok q) → bankStatus (ws.getD k 0) ≠ 0 →
           done (bankStatus (ws.getD k 0) + 256 * k))))) ∧
  (∀ (s : State) (c : Cmd) (p : Nat), let e := s.site.elem; let x := s.place e p; let job := (s.strand x.strand).job
     let n := c.count.toNat % 131072
     let sends (i : Instr) (base : Nat) (y : Place) : Prop := x.bankList.Nodup → Answers i s (fun t => Stepped p y s t ∧ SameBytes s t ∧
       (∀ b, t.bankAt b = if b ∈ x.bankList then { s.bankAt b with waiting := (s.bankAt b).waiting ++ [{
           age := e, place := p, job, run := x.written, base, lim := c.count.toNat / 131072 % 256 + 1, rows := x.bankRows b
           va := c.addr.toNat, bytes := 131072 * n }] } else s.bankAt b) ∧
       { t with elems := s.elems, banks := s.banks } = s)
     let ends : List (Nat × Token) := if c.portTop = true then [(c.portLow, Token.ctl .eos)] else []
     ∀ g ∈ ([(0x51, .bkrn c), (0x52, .bkrl c)] : List (Nat × Instr)), s.Steps p g.1 c →
     (x.phase = 0 → x.pairs.length < n → let a := c.addr.toNat + 131072 * x.pairs.length
       (∀ b r, s.stripe e a = .ok (b, r) → Answers g.2 s (PlaceOnly p { x with pairs := x.pairs ++ [BitVec.ofNat 64 (b + r * 2^16)] } s)) ∧
       (∀ cls w, s.stripe e a = .error (cls, w) → Answers g.2 s (Held p cls x.pairs.length (faultAddr w) 4 s))) ∧
     (x.phase = 0 → n ≤ x.pairs.length →
       (s.programs.look [] job = [] → Answers g.2 s (PlaceOnly p { x with phase := 3, outq := ends } s)) ∧
       (s.programs.look [] job ≠ [] → Answers g.2 s (PlaceOnly p { x with phase := 2, walked := x.bankList.length } s))) ∧
     (x.phase = 3 → Answers g.2 s (PlaceOnly p { x with done := true, reply := 0x1000000000000 } s)) ∧
     (x.phase = 1 → Answers g.2 s (PlaceOnly p { x with done := true, reply := BitVec.ofNat 64 (x.result + x.walked * 2^32) } s)) ∧
     (x.phase = 2 → x.runs < x.written → let rs := s.runResults e p x.runs x.bankList
       rs.length = x.bankList.length → Answers g.2 s (fun t => SameBytes s t ∧ t.banks = s.banks ∧
         (∀ r, r ∈ t.bankResults ↔ r ∈ s.bankResults ∧ ¬ (r.age = e ∧ r.place = p ∧ r.run = x.runs)) ∧
         Stepped p { x with
           j0 := x.j0 + 1, j3 := x.j3 + 1, runs := x.runs + 1, result := (x.result + (rs.map (·.2)).sum) % 2^32
           outq := if c.portTop = true then ((if x.runs = 0 then [] else [Token.ctl (.stop 1)]) ++
             rs.map (fun r => Token.dat (packRow 32 [r.1, r.2]))).map (fun t => (c.portLow, t)) else [] } s t)) ∧
     (x.phase = 2 → g.1 = 0x51 → x.written = 0 → x.runs = 0 → sends g.2 0 { x with written := 1 }) ∧
     (x.phase = 2 → g.1 = 0x51 → x.written = 1 → x.runs = 1 → Answers g.2 s (PlaceOnly p { x with phase := 1, outq := ends } s)) ∧
     (∀ r rest, x.phase = 2 → g.1 = 0x52 → x.inq = r :: rest → x.runs = x.written →
       sends g.2 (lane r 0) { x with written := x.written + 1, inq := rest }) ∧
     (x.phase = 2 → g.1 = 0x52 → x.inq = [] → x.eos = true → x.runs = x.written →
       Answers g.2 s (PlaceOnly p { x with phase := 1, outq := ends } s))) ∧
  (∀ (s : State), let b := s.site.bank; let x := s.bankAt b
     let goes (y : Bank) (t : State) : Prop := (∀ k, t.bankAt k = if k = b then y else s.bankAt k) ∧ { t with banks := s.banks, mem := s.mem, seals := s.seals } = s
     let next (y : Bank) : Bank := { y with word := x.word + 1, pass := if x.held = true then x.pass + 1 else x.pass }
     let col (t : State) (j : Nat) : BitVec 32 := BitVec.ofNat 32 (t.peekKey 0 (s.rowAddr b x.row.toNat (4 * j)) 4)
     let faults (i : Instr) (r : BankRun) (cause : Nat) : Prop := Answers i s (fun t => SameBytes s t ∧
       t.bankAt b = { x with cause, reopen := x.held, held := false } ∧ (∀ k, k ≠ b → t.bankAt k = s.bankAt k) ∧
       (t.place r.age r.place).held = true ∧ (t.elem r.age).age.port.toNat % 2^4 = 10)
     Answers .refresh s (· = s) ∧
     ∀ r, x.running = some r → x.cause = 0 →
     (x.reopen = true → s.bankPending b = false → ∀ i ∈ ([.brow 0, .bldk 0, .bcmp, .bwr, .btset, .brel, .bend] : List Instr),
       Answers i s (fun t => SameBytes s t ∧ goes { x with held := true, pass := 0, reopen := false } t)) ∧
     (x.reopen = false → (x.held = true → x.pass + 1 ≤ r.lim) →
       (∀ v, Answers (.bldk v) s (fun t => SameBytes s t ∧ goes (next { x with k := v }) t)) ∧
       (∀ v, Answers (.bldm v) s (fun t => SameBytes s t ∧ goes (next { x with m := v }) t)) ∧
       Answers .btset s (fun t => SameBytes s t ∧ goes (next { x with t := BitVec.allOnes 512 }) t) ∧
       Answers .btclr s (fun t => SameBytes s t ∧ goes (next { x with t := 0 }) t) ∧
       Answers .btnot s (fun t => SameBytes s t ∧ goes (next { x with t := ~~~ x.t }) t) ∧
       (∀ n, Answers (.bshf n) s (fun t => SameBytes s t ∧ ∃ y, goes (next { x with t := y }) t ∧ ∀ j, j < 512 →
         y.getLsbD j = if 0 ≤ (j : Int) - n.toInt ∧ (j : Int) - n.toInt < 512 then x.t.getLsbD ((j : Int) - n.toInt).toNat else false)) ∧
       Answers .bcnt s (fun t => SameBytes s t ∧
         goes (next { x with result := BitVec.ofNat 16 ((List.range 512).filter (fun j => x.t.getLsbD j)).length }) t) ∧
       (x.t = 0 → Answers .bfst s (fun t => SameBytes s t ∧ goes (next { x with result := 0xFFFF }) t)) ∧
       (∀ j, j < 512 → x.t.getLsbD j = true → (∀ k, k < j → x.t.getLsbD k = false) → Answers .bfst s (fun t => SameBytes s t ∧
         goes (next { x with result := BitVec.ofNat 16 j }) t))) ∧
     (x.reopen = false → Answers .brel s (fun t => SameBytes s t ∧ goes { x with held := false, word := x.word + 1 } t) ∧
       Answers .bend s (fun t => SameBytes s t ∧ (∀ k, t.bankAt k = if k = b then { x with held := false, running := none, word := x.word + 1 }
           else s.bankAt k) ∧
         t.bankResults = s.bankResults ++ [{ age := r.age, place := r.place, run := r.run, bank := b, result := x.result }] ∧
         { t with banks := s.banks, bankResults := s.bankResults } = s)) ∧
     (∀ row, x.reopen = false →
       (r.rows.length ≤ r.base + row.toNat → faults (.brow row) r 1) ∧
       (r.base + row.toNat < r.rows.length → s.bankPending b = true → Answers (.brow row) s (fun t => SameBytes s t ∧
         goes { x with held := false } t)) ∧
       (r.base + row.toNat < r.rows.length → s.bankPending b = false → Answers (.brow row) s (fun t => SameBytes s t ∧
         goes { x with row := BitVec.ofNat 15 (r.rows.getD (r.base + row.toNat) 0), held := true, pass := 0, word := x.word + 1 } t))) ∧
     (x.reopen = false → x.held = true → x.pass + 1 ≤ r.lim → s.isBad (s.rowAddr b x.row.toNat 0) 2048 = false →
       let hit (j : Nat) : Bool := (col s j &&& x.m) == (x.k &&& x.m)
       (∀ f ∈ ([(.bcmp, fun _ h => h), (.bcmpa, fun o h => o && h), (.bcmpo, fun o h => o || h)] : List (Instr × (Bool → Bool → Bool))),
         Answers f.1 s (fun t => SameBytes s t ∧ ∃ y, goes (next { x with t := y }) t ∧ ∀ j, j < 512 → y.getLsbD j = f.2 (x.t.getLsbD j) (hit j))) ∧
       Answers .bwr s (fun t => goes (next x) t ∧ SameBytesBut (s.rowAddr b x.row.toNat 0) 2048 s t ∧ ∀ j, j < 512 →
         col t j = if x.t.getLsbD j = true then (col s j &&& ~~~ x.m) ||| (x.k &&& x.m) else col s j) ∧
       (∀ a b' c out table, Answers (.btt a b' c out table) s (fun t => goes (next x) t ∧ SameBytesBut (s.rowAddr b x.row.toNat 0) 2048 s t ∧
         ∀ j, j < 512 → let w := col s j; let bit (q : BitVec 5) : Nat := if w.getLsbD q.toNat = true then 1 else 0
           (x.t.getLsbD j = false → col t j = w) ∧
           (x.t.getLsbD j = true → ∀ i, i < 32 → (col t j).getLsbD i =
             if i = out.toNat then table.getLsbD (4 * bit a + 2 * bit b' + bit c) else w.getLsbD i)))) ∧
     (∀ a b' c out table, x.reopen = false → ∀ i ∈ ([.bcmp, .bcmpa, .bcmpo, .bwr, .btt a b' c out table] : List Instr),
       (x.held = false → faults i r 2) ∧ (x.held = true → r.lim < x.pass + 1 → faults i r 3) ∧
       (x.held = true → x.pass + 1 ≤ r.lim → s.isBad (s.rowAddr b x.row.toNat 0) 2048 = true → faults i r 4)))

-- ports and regions ---------------------------------------------------------------------------------------------------

/-- R225, R91, R322, R344, R59: a command that has nothing left completes: its reply register is written, its token clears, its place is free, and
when it is the next in command order a `DONE` token leaves on each outgoing edge, to another package over its link. A template's firing writes no
reply and counts one firing. A command with an unassigned op is held at the port with class 1. R308, R309: the oldest spilled write of an AGE is tried
again: it is issued, and where accesses are prompt performed, and leaves the queue, whose bit clears with the last; with no translation yet it is
tried 256 cycles later; another failure is recorded at the port. Choices of the model that it rests on: log 35, 60, 87, 103, 109. -/
def Obligations.CommandsCompleteAndSpillsDrain : Prop :=
  (∀ (s : State) (p : Nat), let e := s.site.elem; let x := s.place e p; let a := (s.elem e).age; let u := s.strand x.strand
     let d := x.cmd.reply.toNat
     s.site.place = some p → x.active = true →
     (x.done = false → Answers .commandCompletion s (· = s)) ∧
     (x.done = true → x.template = none → a.completed = [] → Answers .commandCompletion s (fun t =>
       t.place e p = x.ended ∧ (∀ k q, (k ≠ e ∨ q ≠ p) → t.place k q = s.place k q) ∧ SameBytes s t ∧
       (∀ r, (t.strand x.strand).reg r = if r = d ∧ r ≠ 0 then x.reply else u.reg r) ∧
       (t.strand x.strand).kpend = (match x.token with | some n => u.kpend &&& ~~~ BitVec.ofNat 8 (2^n) | none => u.kpend) ∧
       ({ t.strand x.strand with kpend := u.kpend } : Strand).alike u ∧ (∀ k, k ≠ x.strand → t.strand k = s.strand k) ∧
       { t with strands := s.strands, elems := s.elems } = s ∧
       (x.seq ≠ a.doneNext ∨ (∃ o ∈ a.doneOut, 255 ≤ s.edgeCount o) → (t.elem e).age.completed = [x.seq] ∧ (t.elem e).age.doneNext = a.doneNext ∧ ∀ k, k ≠ e → t.elem k = s.elem k) ∧
       (x.seq = a.doneNext → (∀ o ∈ a.doneOut, s.edgeCount o < 255) → (t.elem e).age.completed = [] ∧ (t.elem e).age.doneNext = a.doneNext + 1 ∧
         (a.doneOut = [] → ∀ k, k ≠ e → t.elem k = s.elem k) ∧
         (∀ o, a.doneOut = [o] → o.away = true → (t.elem e).age.doneOut = [{ o with sent := o.sent + 1 }]) ∧
         (∀ o, a.doneOut = [o] → o.away = false → (t.elem o.target).age.doneIn.look {} o.index = { (s.elem o.target).age.doneIn.look {} o.index with
           count := ((s.elem o.target).age.doneIn.look {} o.index).count + 1 })))) ∧
     (∀ n, x.done = true → x.template = some n → Answers .commandCompletion s (fun t => t.place e p = x.ended ∧
       (∀ k q, (k ≠ e ∨ q ≠ p) → t.place k q = s.place k q) ∧ SameBytes s t ∧
       (∀ m, t.template m = if m = n then { s.template n with
         pushOwed := (s.template n).doneValid, firing := (s.template n).doneValid, fired := none, count := (s.template n).count + 1 }
         else s.template m) ∧ { t with elems := s.elems, templates := s.templates } = s)) ∧
     (∀ raw, s.regionRuns e = true → Answers (.commandDecodeFault raw) s (fun t => SameBytes s t ∧
       (t.elem e).age.port = portFaultReg 1 (raw.toNat / 2^120) 0 (raw.toNat / 2^4 % 2^60) (raw.toNat / 2^104 % 2^4) ∧
       (t.elem e).age.queue = a.queue ∧ (t.strand (s.strandOf e)).region.fault = true)) ∧
     (∀ raw, s.regionRuns e = false → Answers (.commandDecodeFault raw) s (· = s))) ∧
  (∀ (s : State) (x : Spill) (rest : List Spill), let e := s.site.elem; let a := (s.elem e).age; let va := x.va.toNat
     a.spills = x :: rest →
     ((a.spillHeld = true ∨ s.cyc.ult a.drainAt = true) → Answers .spillDrainAttempt s (· = s)) ∧
     (a.spillHeld = false → s.cyc.ult a.drainAt = false → x.fused = 0 →
       s.walkWaits (.age e) (dieOf (panelOf e)) (s.strand (s.place e x.place).strand).job va = false →
       (s.checkSpace e 4 (va : Int) x.size (.streamWrite x.size) true = .error 2 → Answers .spillDrainAttempt s (fun t => SameBytes s t ∧
         (t.elem e).age = { a with drainAt := s.cyc + 256 } ∧ (∀ k, k ≠ e → t.elem k = s.elem k) ∧ { t with elems := s.elems } = s)) ∧
       (∀ c, c ≠ 2 → s.checkSpace e 4 (va : Int) x.size (.streamWrite x.size) true = .error c → Answers .spillDrainAttempt s (fun t =>
         SameBytes s t ∧ (t.elem e).age.spillHeld = true ∧ (t.elem e).age.spills = a.spills ∧
         (t.elem e).age.port = portFaultReg c x.op x.index va 4)) ∧
       (∀ l, s.checkSpace e 4 (va : Int) x.size (.streamWrite x.size) true = .ok l → l.kind ≠ 1 → l.home < 2^59 → x.size ≤ 64 →
         let r : Req := { s.placeReq e x.place x.index l va x.size .write x.data.toNat with agent := .spill e x.place, bar := x.bar }
         let gone (t : State) : Prop := (t.elem e).age.spills = rest ∧ (t.elem e).age.drainAt = s.cyc + 1 ∧
           (t.elem e).age.port = (if rest = [] then a.port &&& ~~~ 0x10 else a.port) ∧
           ∀ q, t.place e q = if rest = [] then { s.place e q with spilled := false } else s.place e q
         (s.prompt = true → s.CleanLine (l.home / 128) → s.Performs r →
           Answers .spillDrainAttempt s (fun t => Stored l.key l.home x.size x.data.toNat s t ∧ gone t)) ∧
         (s.prompt = false → Answers .spillDrainAttempt s (fun t => SameBytes s t ∧ t.reqs = s.reqs ++ [r] ∧ gone t)))))

/-- R181, R182, R292, R396: a formed token enters the fabric where every branch has room and the bridle admits it; the window's counters reset when it
ends and at every write of the control, whose power limit only firmware changes. R196, R188, R387, R390, R396: the oldest event of a job is written to
its ring while the ring has room (a fault's not before its cycle ends): 32 bytes at the tail, which advances, the pending bit is set and vector 0 of
the VF signalled; the supervisor's write sets the head and clears the bit with a 1. At the critical temperature every running region freezes. Choices
of the model that it rests on: log 54, 82, 86. -/
def Obligations.BridlesMeterAndEventsArePosted : Prop :=
  (∀ (s : State) (v : Word) (limit : BitVec 16) (age : Nat), let e := s.site.elem; let el := s.elem e; let b := s.bridle e
     -- the bridle of an AGE, or of the ingress of a link virtual channel, which stands behind the elements (log 54)
     let sets (k : Nat) (new : Bridle) (t : State) : Prop :=
       (k < outside → kindAt (k % 64) ≠ .age → t = s) ∧
       (k < outside → kindAt (k % 64) = .age → (t.elem k).age = { (s.elem k).age with bridle := new } ∧ { t.elem k with age := (s.elem k).age } = s.elem k ∧
         (∀ m, m ≠ k → t.elem m = s.elem m) ∧ { t with elems := s.elems } = s) ∧
       (outside ≤ k → let c := k - outside; t.cut c = { s.cut c with bridle := new } ∧ (∀ m, m ≠ c → t.cut m = s.cut m) ∧
         { t with cuts := s.cuts } = s)
     let old := (s.bridle age).control.toNat
     let idle : Prop := el.age.places.find? (fun q => q.2.active && !q.2.held && !q.2.outq.isEmpty) = none
     (∀ port tok, el.age.ports = [(port, tok)] → idle → s.regionRuns e = true →
       let free : Prop := el.room port 1 = true ∧ el.age.bridle.admitsFrom el.age.bridle.admitted [(port, tok)] = true
       (free → Answers .bridleAdmission s (fun t => SameBytes s t ∧ (t.elem e).age.ports = [] ∧ (∀ k q, t.place k q = s.place k q) ∧
         ∀ q, (t.elem e).flights q = if q = port then (el.flights q).map (· ++ [tok]) else el.flights q)) ∧
       (¬ free → Answers .bridleAdmission s (· = s))) ∧
     (∀ p port tok rest, el.age.ports = [] → (el.age.places.find? (fun q => q.2.active && !q.2.held && !q.2.outq.isEmpty)).map (·.1) = some p →
       (s.place e p).outq = (port, tok) :: rest →
       (s.regionRuns e = true → el.room port 1 = true → el.admits [(port, tok)] = true → Answers .bridleAdmission s (fun t => SameBytes s t ∧
         (∀ q, (t.elem e).flights q = if q = port then (el.flights q).map (· ++ [tok]) else el.flights q) ∧
         t.place e p = { s.place e p with
           outq := rest, sent := (s.place e p).sent + (if tok.kind = .data then 1 else 0)
           outVas := if tok.kind = .data then (s.place e p).outVas.del (s.place e p).sent else (s.place e p).outVas } ∧
         ∀ k q, (k ≠ e ∨ q ≠ p) → t.place k q = s.place k q)) ∧
       (s.regionRuns e = false ∨ el.room port 1 = false ∨ el.admits [(port, tok)] = false → Answers .bridleAdmission s (· = s))) ∧
     (b.control.toNat / 2^48 % 2 = 1 → b.control.toNat % 2^16 + 1 ≤ b.window → Answers .bridleWindowEnd s
       (sets e { b with window := 0, admitted := 0 })) ∧
     (b.control.toNat / 2^48 % 2 = 0 ∨ b.window < b.control.toNat % 2^16 + 1 → Answers .bridleWindowEnd s (· = s)) ∧
     (s.answers = false → Answers (.bridleControlWrite age v) s (· = s) ∧ Answers (.powerLimitWrite age limit) s (· = s)) ∧
     (s.answers = true → Answers (.bridleControlWrite age v) s (sets age {
       window := 0, admitted := 0, control := BitVec.ofNat 64 (v.toNat % 2^32 + old / 2^32 % 2^16 * 2^32 + v.toNat / 2^48 % 2 * 2^48) }) ∧
     Answers (.powerLimitWrite age limit) s (sets age {
       window := 0, admitted := 0, control := BitVec.ofNat 64 (old % 2^32 + limit.toNat * 2^32 + old / 2^48 % 2 * 2^48) }))) ∧
  (∀ (s : State) (job vf box : Nat) (v : Word), let j := s.job job; let c := j.vf * 16 + j.box; let r : RingCtl := s.rings.look {} c
     let n := 2^j.ringLog; let a := j.ringPhys + 32 * (r.tail.toNat % n)
     (∀ ev rest, j.events = ev :: rest →
       ((r.tail.toNat + 1) % n = r.head.toNat % n ∨ s.eventOpen ev = true → Answers (.eventRecordPost job) s (· = s)) ∧
       ((r.tail.toNat + 1) % n ≠ r.head.toNat % n → s.CleanLine (a / 128) → s.rowHeld = false → s.eventOpen ev = false →
         s.queuedAt (s.bankOf a) = [] → Answers (.eventRecordPost job) s (fun t =>
         t.peek a 32 = ev.toNat ∧ SameBytesUnder 0 a 32 s t ∧ t.msix = s.msix ++ [j.vf] ∧ t.job job = { j with events := rest } ∧
         (∀ k, k ≠ job → t.job k = s.job k) ∧
         (∀ k, t.rings.look {} k = if k = c then { r with tail := BitVec.ofNat 16 ((r.tail.toNat + 1) % n), pending := true } else s.rings.look {} k) ∧
         t.strands = s.strands ∧ t.elems = s.elems))) ∧
     (j.events = [] → Answers (.eventRecordPost job) s (· = s)) ∧
     (s.answers = false → Answers (.eventRingControlWrite vf box v) s (· = s)) ∧
     (s.answers = true → Answers (.eventRingControlWrite vf box v) s (fun t => { t with rings := s.rings } = s ∧
       ∀ k, t.rings.look {} k = if k = vf * 16 + box then { s.rings.look {} k with
         head := BitVec.ofNat 16 (v.toNat / 2^16), pending := (s.rings.look {} k).pending && v.toNat / 2^32 % 2 == 0 } else s.rings.look {} k)) ∧
     ((s.strands.map (·.1)).Nodup → Answers .criticalTemperature s (fun t => SameBytes s t ∧ t.elems = s.elems ∧ ∀ k,
       t.strand k = if (s.strand k).onFabric = true ∧ (s.strand k).region.state = .running then
         { s.withdrawn k with region := { (s.strand k).region with state := .freezing } } else s.strand k)))

/-- R189, R191, R192, R194, R197, R198, R18: system software's commands to a region. `freeze` of a running region starts the freeze, which ends when
no slot of it is ready; `retry` of a frozen one clears its fault registers and lets everything go on where it stopped; `resume` clears the trap stop;
a command in another state changes the status alone; `cancel` ends the strand, returns its weight and frees its panels to zeroing. A region without
activity for its interval, with a token in it, is declared hung. A pre-emption halts a frozen region. A choice of the model that it rests on: log 102. -/
def Obligations.RegionsFreezeAndGoOn : Prop :=
  ∀ (s : State), let k := s.site.strand; let u := s.self; let r := u.region
    let region (new : Region) (t : State) : Prop := t.self = { u with region := new } ∧ (∀ j, j ≠ k → t.strand j = s.strand j) ∧
      { t with strands := s.strands } = s
    let ldp (q : Req) : Bool := q.agent == .seq k && q.kind == .syncRead
    (u.onFabric = true →
      (r.state = .running → Answers .freeze s (fun t =>
        t.self = { s.withdrawn k with region := { r with state := .freezing, cmdStatus := false } } ∧
        t.reqs = s.reqs.filter (fun q => !ldp q) ∧ (∀ j, j ≠ k → t.strand j = s.strand j) ∧
        { t with strands := s.strands, reqs := s.reqs } = s)) ∧
      (r.state ≠ .running → Answers .freeze s (region { r with cmdStatus := true })) ∧
      (r.trap = true → Answers .resume s (region { r with trap := false, cmdStatus := false })) ∧
      (r.trap = false → Answers .resume s (region { r with cmdStatus := true })) ∧
      (r.state ≠ .frozen → Answers .retry s (region { r with cmdStatus := true })) ∧
      (r.state = .frozen → (∀ q ∈ s.reqs, q.stage ≠ .returned) → Answers .retry s (fun t => SameBytes s t ∧ (∀ j, j ≠ k → t.strand j = s.strand j) ∧
        t.self = { u with fault := 0, waiting := false, quiet := 0, region := { r with state := .running, fault := false, hang := false, cmdStatus := false } } ∧
        (∀ e, e ∉ u.elems → t.elem e = s.elem e) ∧
        (∀ e ∈ u.elems, (t.elem e).fault = 0 ∧ (t.elem e).age.port = 0 ∧ (t.elem e).age.spillHeld = false ∧
          (∀ p, t.place e p = { s.place e p with held := false }) ∧ ∀ p, (t.elem e).standing p = (s.elem e).standing p ∧
            (t.elem e).flights p = (s.elem e).flights p) ∧
        { t with strands := s.strands, elems := s.elems, banks := s.banks } = s)) ∧
      (r.state = .freezing → (s.job u.job).preempting = false → s.still k = true → Answers .regionFrozen s (region { r with state := .frozen })) ∧
      (r.state ≠ .freezing ∨ s.still k = false → Answers .regionFrozen s (· = s)) ∧
      (let n := u.stallCtl.toNat % 2^16;
        (r.state = .running → n ≠ 0 → n * 1024 ≤ u.quiet.toNat → s.holdsToken k = true → s.rowHeld = false → Answers .hangDeclaration s (fun t =>
          let w := State.writeWords u.job u.mapAddr.toNat (s.mapWords k) s
          t.self = { s.withdrawn k with mapStatus := if w.2 = true then 1 else 2, region := { r with state := .freezing, hang := true } } ∧
          (∀ j, j ≠ k → t.strand j = s.strand j) ∧ t.mem = w.1.mem ∧ t.elems = s.elems ∧
          (t.job u.job).events = (s.job u.job).events ++ [eventRecord 3 u.job u.lead u.cpc.toNat u.spt.toNat u.mapAddr.toNat])) ∧
        (n = 0 ∨ u.quiet.toNat < n * 1024 → Answers .hangDeclaration s (· = s))) ∧
      ((s.job u.job).preempting = true → (s.job u.job).stopped = false → u.run = .running →
        (r.state = .frozen → Answers .preemptionHalt s (region { r with state := .halted, before := .frozen })) ∧
        (r.state = .running → Answers .preemptionHalt s (· = s))) ∧
      (u.stack = [] → let l : Launch := (s.job u.job).launches.look {} u.node
        Answers .cancel s (fun t => SameBytes s t ∧ t.self.run = .complete ∧ t.self.kpend = 0 ∧ t.self.w = 0 ∧ t.self.fault = 0 ∧ t.self.region = {} ∧
          (∀ j, j ≠ k → t.strand j = s.strand j) ∧
          (∀ p, t.panels.look {} p = if p ∈ u.panels then { s.panels.look {} p with state := 1 } else s.panels.look {} p) ∧
          (t.root u.proot.toNat).returned = (s.root u.proot.toNat).returned + BitVec.ofNat 96 (u.w.toNat * 2) ∧
          (u.run = .yielded → ((t.job u.job).launches.look {} u.node : Launch).left = l.left) ∧
          (l.left ≠ 0 → u.run ≠ .yielded → ((t.job u.job).launches.look {} u.node : Launch).left = l.left - 1)))) ∧
    (u.onFabric = false → ∀ i ∈ [Instr.retry, .resume, .freeze, .cancel], Answers i s (region { r with cmdStatus := true }))

-- the ordering machine ---------------------------------------------------------------------------------------------------

/-- R315 moves 2-4, R80, R211, R212, R252: a request departs once no earlier request of its queue to the same bytes is on its way. A departed write to
a page that may rest there comes to rest at its die point, whose line then shows its bytes and no others changed; another goes on. What is bound home
joins the tail of the home's queue; a dirty sector goes home with its changed bytes and is clean. R286, R313, R315 moves 5 and 6, R80, R84, R210: the
oldest request of a home queue that nothing holds is applied there: a write leaves its bytes, an atomic adds and answers the old value; the request is
gone. A departed read answers what its stream buffer, its die point or the home holds; one of the host what the home holds. Choices of the model that
it rests on: log 45, 78, 79, 108. -/
def Obligations.RequestsDepartRestAndArePerformed : Prop :=
  (∀ (s : State) (id : Nat) (r : Req),
     let stands (l : List Stage) : Prop := s.req id = some r ∧ r.stage ∈ l
     let staged (g : Stage) (t : State) : Prop := { t with reqs := s.reqs } = s ∧
       t.reqs = s.reqs.map (fun q => if q.id = r.id then { r with stage := g } else q)
     let o := r.home % 128; let line := r.home / 128
     let room : Prop := (s.dieLine r.die line).isSome = true ∨
       (s.dieLines.filter (fun d => d.die == r.die && l2Set d.line == l2Set line)).length < 16
     (stands [.issued] →
       (s.earlier r = false → s.earlierAge r = false → Answers (.depart id) s (staged .departed)) ∧
       (s.earlier r = true ∨ s.earlierAge r = true → Answers (.depart id) s (· = s))) ∧
     (stands [.departed] →
       (r.passesDie = false → Answers (.reachDiePoint id) s (· = s)) ∧
       (r.passesDie = true → r.policy ≠ 2 → room → 1 ≤ r.size → o / 64 = (o + r.size - 1) / 64 → Answers (.reachDiePoint id) s (fun t =>
         SameBytes s t ∧ t.reqs = s.reqs.filter (fun q => q.id != r.id) ∧
         (∀ i, i < 128 → (t.lineSeen r.die line).toNat / 2^(8 * i) % 256 =
           if o ≤ i ∧ i < o + r.size ∧ r.mask.getLsbD (i - o) = true then r.value / 2^(8 * (i - o)) % 256
           else ((if i / 64 = o / 64 then s.underKey r.key (128 * line) 128 else s).lineSeen r.die line).toNat / 2^(8 * i) % 256) ∧
         (∃ c, t.dieLine r.die line = some c ∧ c.key = r.key ∧ c.lock = (s.dieLine r.die line).bind DieLine.lock ∧
           ∀ i, i < 128 → c.changed.getLsbD i = (((s.dieLine r.die line).any (fun d => d.changed.getLsbD i)) ||
             (decide (o ≤ i) && decide (i < o + r.size) && r.mask.getLsbD (i - o)))) ∧
         (∀ d l, (d ≠ r.die ∨ l ≠ line) → t.dieLine d l = s.dieLine d l) ∧
         { t with reqs := s.reqs, dieLines := s.dieLines, streamLines := s.streamLines } = s)) ∧
       (r.passesDie = true → r.policy = 2 → Answers (.reachDiePoint id) s (fun t => SameBytes s t ∧
         t.reqs = s.reqs.map (fun q => if q.id = r.id then { r with stage := .passed } else q) ∧
         (∀ d l, (d ≠ r.die ∨ l ≠ line) → t.dieLine d l = s.dieLine d l) ∧
         { t with reqs := s.reqs, dieLines := s.dieLines, streamLines := s.streamLines } = s))) ∧
     (r.kind ≠ .read → (stands [.passed] ∨ (stands [.departed] ∧ r.passesDie = false)) →
       (s.pendingFull r = false → Answers (.sendHome (.req id)) s (fun t =>
         { t with reqs := s.reqs } = s ∧ t.reqs = s.reqs.filter (fun q => q.id != r.id) ++ [{ r with stage := .home }])) ∧
       (s.pendingFull r = true → Answers (.sendHome (.req id)) s (· = s))) ∧
     (∀ die l k d, k < 2 → s.dieLine die l = some d →
       (d.dirty k = true → s.sectorWaits l k = true → Answers (.sendHome (.sector die l k)) s (· = s)) ∧
       (d.dirty k = true → s.sectorWaits l k = false → Answers (.sendHome (.sector die l k)) s (fun t => SameBytes s t ∧
         (∃ q : Req, t.reqs = s.reqs ++ [q] ∧ q.stage = .home ∧ q.kind = .write ∧ q.home = 128 * l + 64 * k ∧ q.size = 64 ∧ q.writers = d.writers ∧
           q.die = die ∧ q.key = d.key ∧ q.counts = d.counts.filter (fun c => c.sector == k) ∧ q.data = BitVec.ofNat 512 (d.data.toNat / 2^(512 * k)) ∧ q.mask = BitVec.ofNat 64 (d.changed.toNat / 2^(64 * k))) ∧
         ∃ c, t.dieLine die l = some c ∧ c.data = d.data ∧ c.present = d.present ∧ c.lock = d.lock ∧ c.dirty k = false ∧
           c.dirty (1 - k) = d.dirty (1 - k))) ∧
       (d.dirty k = false → Answers (.sendHome (.sector die l k)) s (· = s)))) ∧
  (∀ (s : State) (id : Nat) (r : Req), s.req id = some r →
     let free : Prop := s.homeHeld r = false ∧ s.tileHolds r = false
     let others : List Req := s.reqs.filter (fun q => q.id != r.id)
     let gone (t : State) : Prop := (∀ q ∈ others, q ∈ t.reqs) ∧ (∀ q ∈ t.reqs, q.id ≠ r.id) ∧ (s.fill = false → t.reqs = others)
     (r.stage = .home → s.oldestAt r = true → free → r.home < 2^59 → r.size ≤ 64 → s.CleanLine (r.home / 128) →
       (r.kind = .write → r.dest = .none → Answers (.serialise id) s (fun t => t.reqs = others ∧ SameBytesUnder r.key r.home r.size s t ∧
         (∀ i, i < r.size → t.peek (r.home + i) 1 =
           if r.mask.getLsbD i = true then r.data.toNat / 2^(8 * i) % 256 else (s.underKey r.key r.home r.size).peek (r.home + i) 1) ∧
         t.strands = s.strands ∧ t.elems = s.elems)) ∧
       (∀ k d, r.kind = .amo .add64 → r.size = 8 → r.mask = BitVec.allOnes 64 → r.agent = .seq k → r.writers = [] → r.dest = .reg k d → d ≠ 0 →
         let old := s.peekKey r.key r.home 8
         Answers (.serialise id) s (fun t => t.reqs = others ∧ Stored r.key r.home 8 (old + r.data.toNat % 2^64) s t ∧
           (∀ e, (t.strand k).reg e = if e = d then BitVec.ofNat 64 old else (s.strand k).reg e) ∧
           (t.strand k).owedRegs = dropOne d (s.strand k).owedRegs ∧ (∀ j, j ≠ k → t.strand j = s.strand j) ∧ t.elems = s.elems))) ∧
     (r.stage = .home → s.oldestAt r = false ∨ ¬ free → Answers (.serialise id) s (· = s)) ∧
     -- a departed read, or one that has waited at its home
     (∀ g ∈ ([(.departed, .read id), (.home, .serialise id)] : List (Stage × Instr)), r.stage = g.1 → r.kind = .read → free →
       (g.1 = .home → s.oldestAt r = true) →
       (∀ k d, r.dest = .reg k d → d ≠ 0 → Answers g.2 s (fun t => gone t ∧ SameBytes s t ∧ t.elems = s.elems ∧
         (∀ e, (t.strand k).reg e = if e = d then BitVec.ofNat 64 (s.readValue r) else (s.strand k).reg e) ∧
         (t.strand k).owedRegs = dropOne d (s.strand k).owedRegs ∧ (∀ j, j ≠ k → t.strand j = s.strand j))) ∧
       (∀ e p i, r.dest = .elem e p i → Answers g.2 s (fun t => gone t ∧ SameBytes s t ∧ t.strands = s.strands ∧
         (t.place e p).got.look 0 i = BitVec.ofNat 512 (s.readValue r) ∧ Tab.has (t.place e p).got i = true ∧
         (∀ m, m ≠ i → (t.place e p).got.look 0 m = (s.place e p).got.look 0 m) ∧
         ∀ k q, (k ≠ e ∨ q ≠ p) → t.place k q = s.place k q)) ∧
       (r.dest = .host → r.virt = true → r.regionKind = 3 → Answers g.2 s (fun t =>
         t = { s with reqs := others, hostAnswer := BitVec.ofNat 64 (s.peekKey r.key r.home r.size) }))) ∧
     -- R286: a read of a bank whose row is held waits in its pending queue
     (r.stage = .departed → r.kind = .read →
       (s.tileHolds r = true ∨ (s.homeHeld r = true ∧ s.pendingFull r = true) → Answers (.read id) s (· = s)) ∧
       (s.tileHolds r = false → s.homeHeld r = true → s.pendingFull r = false → Answers (.read id) s (fun t => { t with reqs := s.reqs } = s ∧
         t.reqs = others ++ [{ r with stage := .home }]))))

/-- R213, R315 move 7, R334: a stream buffer drops a line, a die point a clean line that is not locked, a cache a translation; a dirty sector is sent
home in its stead; a locked line stays. R220, R315 move 8: a synchronising read of a word that is empty joins its deferral set; where the table is
full it returns to its issuer and is sent again, to join the set, or to answer once its words are full. A choice of the model that it rests on: log
90. -/
def Obligations.CopiesAreDroppedAndReadsDeferred : Prop :=
  (∀ (s : State) (panel line die n : Nat),
     Answers (.drop (.streamLine panel line)) s (fun t => { t with streamLines := s.streamLines } = s ∧
       ∀ l, l ∈ t.streamLines ↔ l ∈ s.streamLines ∧ ¬ (l.panel = panel ∧ l.line = line)) ∧
     Answers (.drop (.translation n)) s (fun t => { t with tlbs := s.tlbs } = s ∧ t.tlbs = s.tlbs.take n ++ s.tlbs.drop (n + 1)) ∧
     (∀ d, s.dieLine die line = some d → d.dirty 0 = false → d.dirty 1 = false →
       (d.lock = none → Answers (.drop (.dieLine die line)) s (fun t => { t with dieLines := s.dieLines } = s ∧ t.dieLine die line = none ∧
         ∀ e l, (e ≠ die ∨ l ≠ line) → t.dieLine e l = s.dieLine e l)) ∧
       (d.lock.isSome = true → Answers (.drop (.dieLine die line)) s (· = s))) ∧
     (∀ d k, k < 2 → s.dieLine die line = some d → d.dirty k = true → (k = 1 → d.dirty 0 = false) → s.sectorWaits line k = false → Answers (.drop (.dieLine die line)) s (fun t => SameBytes s t ∧
       t.reqs.length = s.reqs.length + 1 ∧ ∃ c, t.dieLine die line = some c ∧ c.dirty k = false ∧ c.data = d.data)) ∧
     (s.dieLine die line = none → Answers (.drop (.dieLine die line)) s (· = s))) ∧
  (∀ (s : State) (id : Nat) (r : Req), s.req id = some r → r.kind = .syncRead → s.homeHeld r = false →
     let full : Prop := ∀ w ∈ wordsOf r.home r.size, s.isFull w = true
     let joins (g : Stage) (t : State) : Prop := { t with reqs := s.reqs } = s ∧
       t.reqs = s.reqs.filter (fun q => q.id != r.id) ++ [{ r with stage := g }]
     (r.stage = .home → s.oldestAt r = true →
       (¬ full → s.deferralFull r = false → Answers (.defer id) s (joins .deferred)) ∧
       (¬ full → s.deferralFull r = true → Answers (.defer id) s (fun t => { t with reqs := s.reqs } = s ∧
         t.reqs = s.reqs.map (fun q => if q.id = r.id then { r with stage := .departed } else q))) ∧
       (full → Answers (.defer id) s (· = s))) ∧
     (r.stage = .departed → s.prompt = false → Answers (.deferredReadResend id) s (joins .home)) ∧
     (r.stage = .departed → s.prompt = true →
       (¬ full → s.deferralFull r = false → Answers (.deferredReadResend id) s (joins .deferred)) ∧
       (¬ full → s.deferralFull r = true → Answers (.deferredReadResend id) s (· = s)) ∧
       (∀ k, full → r.dest = .await k → (s.strand k).awaits = some r.id → Answers (.deferredReadResend id) s (fun t =>
         t.reqs = s.reqs.filter (fun q => q.id != r.id) ∧ SameBytes s t ∧ t.elems = s.elems ∧
         t.strand k = { s.strand k with answer := some (true, BitVec.ofNat 64 (s.peekKey r.key r.home r.size)) } ∧
         ∀ j, j ≠ k → t.strand j = s.strand j))))

-- the package and the world outside it -----------------------------------------------------------------------------------

/-- R184, R193, R213, R299, R331, R341, R379, R380, R389, R393: a write of a register of system software sets the fields of that register and changes
nothing else; the frame of a translation root does not change while its job is placed. In recovery no register answers (R390). R208, R215, R222: a
chip-scratch window that is not too long and overlaps no other slot's is written, and every byte of a unit that enters it reads zero; another write is
ignored. A write that changes the mode of a frame group leaves every byte of the group zero and every SYNC word of it empty, at the home and at every
die point; one that does not changes nothing. Choices of the model that it rests on: log 13, 23, 30, 84, 87, 104, 117, 118, 119. -/
def Obligations.SystemSoftwareWritesRegistersAndWindows : Prop :=
  (∀ (s : State) (v : BitVec 512) (k die n : Nat), let w := v.toNat
     (s.answers = false → ∀ r, Answers (.registerWrite r v) s (· = s)) ∧ (s.answers = true →
     Answers (.registerWrite (.translationRoot k) v) s (fun t => { t with roots64 := s.roots64 } = s ∧ ∀ j, t.roots64.look 0 j =
       if j = k then BitVec.ofNat 64 ((if s.jobPlaced k = true then (s.roots64.look 0 k).toNat % 2^36 else w % 2^36) + w / 2^36 % 4 * 2^36)
       else s.roots64.look 0 j) ∧
     Answers (.registerWrite (.stallControl k) v) s (fun t => { t with strands := s.strands } = s ∧
       ∀ j, t.strand j = if j = k then { s.strand k with stallCtl := BitVec.ofNat 64 (w % 2^16) } else s.strand j) ∧
     Answers (.registerWrite (.mapAddress k) v) s (fun t => { t with strands := s.strands } = s ∧
       ∀ j, t.strand j = if j = k then { s.strand k with mapAddr := BitVec.ofNat 60 w } else s.strand j) ∧
     (k < 64 → Answers (.registerWrite (.lockQuota die k) v) s (fun t => { t with quotas := s.quotas } = s ∧
       ∀ d j, j < 64 → t.quota d j = if d = die ∧ j = k then (w % 2^20, (s.quota die k).2) else s.quota d j)) ∧
     (n < 8 → Answers (.registerWrite (.perfControl die n) v) s (fun t => { t with perf := s.perf } = s ∧ ∀ i, t.perf.look {} i =
       if i = die * 8 + n then { s.perf.look {} i with control := BitVec.ofNat 16 w } else s.perf.look {} i)) ∧
     (n < 8 → Answers (.registerWrite (.perfValue die n) v) s (fun t => { t with perf := s.perf } = s ∧ ∀ i, t.perf.look {} i =
       if i = die * 8 + n then { s.perf.look {} i with value := BitVec.ofNat 48 w } else s.perf.look {} i)) ∧
     Answers (.registerWrite (.templateOwner k) v) s (fun t => { t with templates := s.templates } = s ∧
       ∀ j, t.template j = if j = k then { s.template k with owner := w % 64, owned := w / 2^6 % 2 == 1 } else s.template j) ∧
     (w % 2 = 1 → (s.queue k).valid = false → s.queueTaken k (queueOf w) = true → Answers (.registerWrite (.queueDescriptor k) v) s (fun t =>
       { t with queues := s.queues } = s ∧ ∀ j, t.queue j = if j = k then {
         valid := true, scope := w / 2 % 4, cls := w / 8 % 4, job := w / 2^5 % 2^6, homePanel := w / 2^11 % 2^7, depth := w / 2^18 % 2^12
         ringBase := w / 2^32 % 2^22, spillCap := w / 2^128 % 2^32, spillVa := BitVec.ofNat 60 (w / 2^224) } else s.queue j)) ∧
     (w % 2 = 0 ∨ (s.queue k).valid = true ∨ s.queueTaken k (queueOf w) = false → Answers (.registerWrite (.queueDescriptor k) v) s (· = s)) ∧
     -- R299: a launch's queue stands in the table of the lowest die of its job's mask
     (let mask := (s.job (w / 2^5 % 2^6)).dieMask; let die := k / 256
      let lowest : Prop := die < 4 ∧ mask / 2^die % 2 = 1 ∧ ∀ d, d < die → mask / 2^d % 2 = 0
      ((s.queue k).valid = true ∨ ¬ lowest → Answers (.registerWrite (.queueClause k n) v) s (· = s)) ∧
      ((s.queue k).valid = false → lowest → Answers (.registerWrite (.queueClause k n) v) s (fun t => { t with queues := s.queues } = s ∧
       ∀ j, t.queue j = if j ≠ k then s.queue j else if w % 2 = 1 ∧ s.queueFits k (queueOf w) = true
         then { queueOf w with owner := some n, homePanel := 0 } else { job := w / 2^5 % 2^6, owner := some n, refused := true }))) ∧
     Answers (.registerWrite (.dataSection die k) v) s (fun t => { t with dataAt := s.dataAt } = s ∧
       ∀ j, t.dataAt.look 0 j = if j = die * 2^60 + k then BitVec.ofNat 64 w else s.dataAt.look 0 j) ∧
     ((partFrom w).away < 2 → Answers (.registerWrite (.part k) v) s (fun t => { t with parts := s.parts } = s ∧
       ∀ j, t.parts.look {} j = if j = k then partFrom w else s.parts.look {} j)) ∧
     Answers (.registerWrite (.cut k) v) s (fun t => { t with cuts := s.cuts } = s ∧
       ∀ j, t.cut j = if j = k then { cutFrom w with bridle := (s.cut k).bridle } else s.cut j) ∧
     Answers (.registerWrite (.heatLog k) v) s (fun t => { t with jobs := s.jobs } = s ∧ ∀ j, t.job j = if j = k then { s.job k with
       heatBase := BitVec.ofNat 60 w, heatLen := w / 2^64 % 2^32, heatHead := w / 2^96 % 2^32 } else s.job j) ∧
     Answers (.registerWrite (.toolingRing k) v) s (fun t => { t with toolRings := s.toolRings } = s ∧ ∀ j, t.toolRings.look {} j =
       if j = k then { base := w % 2^64, entries := w / 2^64 % 2^32, head := w / 2^96 % 2^32, tail := w / 2^128 % 2^32 } else s.toolRings.look {} j) ∧
     Answers (.registerWrite .packageGroup v) s (fun t => t = { s with packageGroup := w % 2^32 }) ∧
     Answers (.registerWrite .packageIndex v) s (fun t => t = { s with packageIndex := w % 16 }) ∧
     Answers (.registerWrite (.grant k n) v) s (fun t => { t with grants := s.grants } = s ∧
       ∀ j, t.grants.look false j = if j = k * 2^36 + n then w % 2 == 1 else s.grants.look false j) ∧
     -- what the PF reads as power and temperatures is measured by the part (log 118)
     Answers (.registerWrite .power v) s (fun t => t = { s with power := w }) ∧
     Answers (.registerWrite (.dieTemperature k) v) s (fun t => { t with dieTemps := s.dieTemps } = s ∧
       ∀ j, t.dieTemps.look 0 j = if j = k then w else s.dieTemps.look 0 j) ∧
     Answers (.registerWrite (.stackTemperature k) v) s (fun t => { t with stackTemps := s.stackTemps } = s ∧
       ∀ j, t.stackTemps.look 0 j = if j = k then w else s.stackTemps.look 0 j))) ∧
  (∀ (s : State) (die slot group : Nat) (v : Word) (linear : Bool), let b := v.toNat % 2^10; let n := v.toNat / 2^10 % 2^11
     let old := s.window die slot
     (s.answers = false ∨ 1024 < b + n ∨ s.windowClash die slot b n = true → Answers (.chipWindowWrite die slot v) s (· = s)) ∧
     (s.answers = true → b + n ≤ 1024 → s.windowClash die slot b n = false → slot < 64 → Answers (.chipWindowWrite die slot v) s (fun t =>
       { t with windows := s.windows, mem := s.mem } = s ∧
       (∀ d j, j < 64 → t.window d j = if d = die ∧ j = slot then (b, n) else s.window d j) ∧
       ∀ a, let enters : Prop := ∃ u, b ≤ u ∧ u < b + n ∧ ¬ (old.1 ≤ u ∧ u < old.1 + old.2) ∧
           chipHome die + 65536 * u ≤ a ∧ a < chipHome die + 65536 * u + 65536
         (enters → memGet t.mem a = 0) ∧ (¬ enters → memGet t.mem a = memGet s.mem a))) ∧
     (s.answers = true → group < 384 → s.groupLinear.look false group ≠ linear → s.rowHeld = false → Answers (.frameGroupModeWrite group linear) s (fun t =>
       let lo := group * s.groupBytes; let hi := lo + s.groupBytes
       (∀ a, memGet t.mem a = if lo ≤ a ∧ a < hi then 0 else memGet s.mem a) ∧
       (∀ w, t.isFull (8 * w) = if lo ≤ 8 * w ∧ 8 * w < hi then false else s.isFull (8 * w)) ∧
       (∀ n, lo ≤ 64 * n → 64 * n < hi → t.seals.look 0 n = 0) ∧ (∀ n, (64 * n < lo ∨ hi ≤ 64 * n) → t.seals.look 0 n = s.seals.look 0 n) ∧
       (∀ d ∈ t.dieLines, overlaps lo s.groupBytes (128 * d.line) 128 = true → d.present = 0 ∧ d.changed = 0) ∧
       (∀ g, t.groupLinear.look false g = if g = group then linear else s.groupLinear.look false g) ∧
       { t with mem := s.mem, seals := s.seals, full := s.full, dieLines := s.dieLines, groupLinear := s.groupLinear } = s)) ∧
     (s.answers = false ∨ 384 ≤ group ∨ s.groupLinear.look false group = linear ∨ s.rowHeld = true → Answers (.frameGroupModeWrite group linear) s (· = s)))

/-- R354, R355, R392: the security processor writes a key slot 1 to 1,023 with its use, owner and material, a tooling slot with 128 bits; slot 0,
another use, or a slot under which a request is still to be performed is refused and nothing changes. No byte of memory changes, and what accesses
under another key index read is what they read before. R393, R394: the tooling unit takes the descriptor at the head of a VF's ring: one that is
malformed gets status 1, one without its key status 2, and no other byte changes; the head advances, and the frame counter of a resident job rises. An
empty ring is left as it is. Choices of the model that it rests on: log 26, 83, 89, 104. -/
def Obligations.KeysAreWrittenAndToolingProcessed : Prop :=
  (∀ (s : State) (k : KeyCommand),
     let takes : Prop := s.boot.running = true ∧ s.boot.recovery = false ∧ 1 ≤ k.index ∧ k.index < 1024 ∧ k.use < 3 ∧ (k.use = 2 → k.keyBits = 128) ∧
       s.keyBusy k.index = false
     let mat : BitVec 512 := if k.use = 0 then 0 else if k.use = 2 then BitVec.ofNat 512 (k.material.toNat % 2^128) else k.material
     (¬ takes → Answers (.keySlotWrite k) s (· = s)) ∧
     (takes → Answers (.keySlotWrite k) s (fun t => { t with keys := s.keys } = s ∧
       (∀ i, t.keys.look {} i = if i = k.index then { use := k.use, owner := k.owner % 64, material := mat } else s.keys.look {} i) ∧
       ((s.keys.look {} k.index : KeySlot).material = mat → ∀ i a n, t.peekKey i a n = s.peekKey i a n) ∧
       ∀ i a n, i ≠ k.index → t.peekKey i a n = s.peekKey i a n))) ∧
  (∀ (s : State) (vf : Nat), let r : ToolRing := s.toolRings.look {} vf; let a := r.base + 64 * (r.head % r.entries)
     let d := toolDesc (s.peekKey 0 a 64); let k : KeySlot := s.keys.look {} d.key
     let taken (t : State) : Prop := (∀ j, t.toolRings.look {} j = if j = vf then { r with head := (r.head + 1) % r.entries } else s.toolRings.look {} j) ∧
       (∀ j, t.job j = if j = d.job ∧ (s.job j).resident = true then { s.job j with frame := (s.job j).frame + 1 } else s.job j) ∧
       t.strands = s.strands ∧ t.elems = s.elems
     ((r.entries = 0 ∨ r.head = r.tail) → Answers (.toolingDescriptor vf) s (· = s)) ∧
     (s.rowHeld = true → Answers (.toolingDescriptor vf) s (· = s)) ∧
     (r.entries ≠ 0 → r.head ≠ r.tail → s.CleanLine ((a + 40) / 128) → s.rowHeld = false →
       s.queuedAt (s.bankOf (a + 40)) = [] →
       (s.descOk vf d = false → Answers (.toolingDescriptor vf) s (fun t => taken t ∧ Stored 0 (a + 40) 1 1 s t)) ∧
       (s.descOk vf d = true → (k.use ≠ 2 ∨ k.owner ≠ d.job) → Answers (.toolingDescriptor vf) s (fun t => taken t ∧ Stored 0 (a + 40) 1 2 s t)) ∧
       (s.descOk vf d = true → k.use = 2 → k.owner = d.job → Answers (.toolingDescriptor vf) s (fun t => taken t ∧ t.peek (a + 40) 1 = 0 ∧
         ∀ b, (b / 64 ≠ (a + 40) / 64) → (b / 64 < d.dst / 64 ∨ (d.dst + d.bytes - 1) / 64 < b / 64) → (∀ l ∈ s.dieLines, l.changed = 0) → memGet t.mem b = memGet s.mem b))))

/-- R381: the host's trigger sets a snapshot of every block for 64 cycles on, or joins the pending one; at its cycle the snapshot latches the state of
its strands, barriers and roots, its number rises, and none is pending. R388, R389: a link that the part has goes down, and a region with a channel on
it freezes with a fault; a link that it has not is nothing. A replay of a flit changes nothing that a program sees. Choices of the model that it rests
on: log 87, 88. -/
def Obligations.SnapshotsLatchAndLinksGoDown : Prop :=
  (∀ (s : State),
     (s.answers = false → Answers .snapshotExternalTrigger s (· = s)) ∧
     (s.answers = true → Answers .snapshotExternalTrigger s (fun t => { t with snapAt := s.snapAt } = s ∧ ∃ p, t.snapAt = some p ∧ p.all = true ∧
       (s.snapAt = none → p.at_ = s.cyc + 64) ∧ ∀ q, s.snapAt = some q → p.at_ = q.at_ ∧ p.jobs = q.jobs ∧ p.strands = q.strands)) ∧
     -- no time passes its cycle before it latches
     (∀ p n, s.snapAt = some p → s.cyc.toNat < p.at_.toNat → ∃ t, s.take (.tick n) = .next t ∧ t.cyc.toNat ≤ p.at_.toNat) ∧
     (s.snapAt = none → Answers .snapshotLatch s (· = s)) ∧
     (∀ p, s.snapAt = some p → s.cyc.toNat < p.at_.toNat → Answers .snapshotLatch s (· = s)) ∧
     (∀ p, s.snapAt = some p → p.at_.toNat ≤ s.cyc.toNat → Answers .snapshotLatch s (fun t => t.snapNumber = s.snapNumber + 1 ∧ t.snapAt = none ∧
       { t with snapNumber := s.snapNumber, snapAt := s.snapAt, shadow := s.shadow } = s ∧ t.shadow.cyc = s.cyc ∧
       (∀ x, x ∈ t.shadow.strands ↔ ∃ k u, (k, u) ∈ s.strands ∧ u.onFabric = true ∧ (p.all = true ∨ u.job ∈ p.jobs ∨ k ∈ p.strands) ∧
         x = (k, (u.cpc, u.spt, u.kpend))) ∧
       (∀ x, x ∈ t.shadow.barriers ↔ x ∈ s.barriers ∧ (p.all = true ∨ x.2.job ∈ p.jobs)) ∧
       (∀ x, x ∈ t.shadow.roots ↔ x ∈ s.roots ∧ (p.all = true ∨ x.2.job ∈ p.jobs)) ∧
       ∀ x, x ∈ t.shadow.jobs ↔ ∃ j u, (j, u) ∈ s.jobs ∧ (p.all = true ∨ j ∈ p.jobs) ∧ x = (j,
         { graph := u.graphCount, phase := u.phaseCount, root := u.phaseRoot, phases := u.phases, status := u.status,
           launches := u.launches.map (fun l => (l.1, (l.2.left, l.2.status))) })))) ∧
  (∀ (s : State) (link : Nat),
     -- R27, R310: the strand is a part of a cut graph, an edge of which the link carries
     let on (u : Strand) : Prop := u.onFabric = true ∧ ∃ p c, s.partOf u = some p ∧ c ∈ s.cuts.map (·.2) ∧ c.link = some link ∧
       c.group = p.group ∧ (c.srcPart = p.number ∨ c.dstPart = p.number)
     Answers (.flitReplay link) s (· = s) ∧
     (s.cap.linkMask.toNat / 2^link % 2 = 0 → Answers (.linkDown link) s (· = s)) ∧
     (s.cap.linkMask.toNat / 2^link % 2 = 1 → (s.strands.map (·.1)).Nodup → Answers (.linkDown link) s (fun t => SameBytes s t ∧
       (∀ l, l ∈ t.linksDown ↔ l = link ∨ l ∈ s.linksDown) ∧ t.elems = s.elems ∧
       ∀ k, let u := s.strand k
         (on u → (t.strand k).region.fault = true ∧
           (u.region.state = .running → (t.strand k).region.state = .freezing) ∧
           (u.region.fault = false → (t.strand k).region.firstSource = 3)) ∧
         (¬ on u → t.strand k = u))))

/-- R390, R391, R396: package reset leaves the state after reset of the same part; the boot ROM takes the image that stands in flash, the one written
there in recovery if any, where it is signed and its version is not below the counter, measures itself, the image, the fuses and the version, and
runs; another image puts the package in recovery, which takes an image that passes. An SPDM request is answered by the certificate chain, or by the
measurements and their signature. The hardware trip removes power. R383, R384, R387, R312, R313, R191: a host access of a window answers the register,
writes it as the event of that register does, or is a request for eight bytes of device memory, which is performed at its home at once where nothing
holds it; outside the windows, without a right, or in recovery, a read answers all ones and a write is discarded. A function-level reset of a VF
empties its mailboxes and its ring controls and cancels its jobs. Choices of the model that it rests on: log 9, 25, 81, 85, 91, 106, 117, 126. -/
def Obligations.ThePackageBootsAndTheHostReachesIt : Prop :=
  (∀ (s : State) (f : FlashImage), let ok : Prop := Config.imageSigned (Config.sha256 f.content).toNat = true ∧ s.boot.counter ≤ f.version
     let taken : Prop := Config.imageSigned (Config.sha256 (s.boot.written.getD f).content).toNat = true ∧ s.boot.counter ≤ (s.boot.written.getD f).version
     let fresh (t : State) : Prop := t.cap = s.cap ∧ t.retired = s.retired ∧ t.power = s.power ∧ t.dieTemps = s.dieTemps ∧
       t.stackTemps = s.stackTemps ∧ (∀ p, p ∈ t.panels ↔ p ∈ s.panels ∧ p.2.state = 3) ∧
       { t with
         cap := State.reset.cap, retired := [], panels := [], boot := State.reset.boot, power := 0, dieTemps := [], stackTemps := [] } = State.reset
     let absent := (s.panels.filter (fun p => p.2.state == 3)).map (·.1)
     (taken → Answers (.packageReset f) s (fun t => fresh t ∧ t.boot.running = true ∧ t.boot.recovery = false ∧
       t.boot.image = s.boot.written.getD f ∧ t.boot.written = s.boot.written ∧
       t.boot.counter = s.boot.counter ∧ t.boot.powered = s.boot.powered ∧ t.boot.measurements = [(1, Config.sha256 Config.bootRom),
         (2, Config.sha256 (s.boot.written.getD f).content),
         (3, Config.sha256 (Config.fuses s.cap.bits absent (s.retired.map (fun r => (r.1, r.2.toNat))) s.boot.counter)),
         (4, BitVec.ofNat 256 (s.boot.written.getD f).version)])) ∧
     (¬ taken → Answers (.packageReset f) s (fun t => fresh t ∧ t.boot.running = false ∧ t.boot.recovery = true ∧ t.boot.measurements = [])) ∧
     (s.boot.recovery = true → ok → Answers (.recoveryImage f) s (fun t => t = { s with boot := { s.boot with image := f, written := some f } })) ∧
     (s.boot.recovery = false ∨ ¬ ok → Answers (.recoveryImage f) s (· = s)) ∧
     Answers (.spdmRequest .certificates) s (fun t => t = { s with spdmAnswer := [Config.certificateChain] }) ∧
     Answers (.spdmRequest .measurements) s (fun t => { t with spdmAnswer := s.spdmAnswer } = s ∧
       ∃ sig, t.spdmAnswer = s.boot.measurements.map (fun m => m.2.toNat) ++ [sig]) ∧
     Answers .hardwareTrip s (fun t => fresh t ∧ t.boot.powered = false)) ∧
  (∀ (s : State) (fn a : Nat) (v : Word), let b := a / 8 * 8
     let acc (window offset : Nat) (w : Option Word) : Instr := .hostWindowAccess { fn, window, offset, write := w }
     let reads (x : Word) (t : State) : Prop := t = { s with hostAnswer := x }
     (s.answers = false → ∀ w, Answers (acc w a none) s (reads (BitVec.allOnes 64)) ∧ Answers (acc w a (some v)) s (· = s)) ∧
     (s.answers = true →
       (1 ≤ fn → fn ≤ 16 → a < 0x100 → let m : Mailbox := s.boxes.look {} ((fn - 1) * 16 + a / 16)
         (a % 16 < 8 → Answers (acc 0 a none) s (reads (BitVec.ofNat 64 (m.addr.toNat + if m.valid = true then 2^52 else 0)))) ∧
         (a % 16 < 8 → exec (acc 0 a (some v)) s = exec (.mailboxWrite (fn - 1) (a / 16) v) s) ∧
         (8 ≤ a % 16 → Answers (acc 0 a none) s (reads (BitVec.ofNat 64 (m.status % 8 + m.slot % 64 * 2^3))) ∧ Answers (acc 0 a (some v)) s (· = s))) ∧
       (1 ≤ fn → fn ≤ 16 → 0x100 ≤ a → a < 0x180 → let r : RingCtl := s.rings.look {} ((fn - 1) * 16 + (a - 0x100) / 8)
         Answers (acc 0 a none) s (reads (BitVec.ofNat 64 (r.tail.toNat + r.head.toNat * 2^16 + if r.pending = true then 2^32 else 0))) ∧
         exec (acc 0 a (some v)) s = exec (.eventRingControlWrite (fn - 1) ((a - 0x100) / 8) v) s) ∧
       -- R383: what stands in the window of a die's region controller is of that die; the offsets within a window are open (log 25)
       (0x100000 ≤ a → a < 0x200000 → ∀ p, devAt a = .status p ∨ devAt a = .command p → p / 128 = (a - 0x100000) / 0x40000) ∧
       (fn = 0 → (0x1000 ≤ a ∧ a < 0x2000) ∨ (0x100000 ≤ a ∧ a < 0x300000) → match devAt a with
         | .none => Answers (acc 0 a none) s (reads (Config.registerRead 0 a)) ∧ Answers (acc 0 a (some v)) s (· = s)
         | .status p => (∀ k, s.strandOn p = some k → let r := (s.strand k).region; Answers (acc 0 a none) s (fun t => reads t.hostAnswer t ∧
             t.hostAnswer.toNat % 4 = (match r.state with | .running => 0 | .freezing => 1 | .frozen => 2 | .halted => 3) ∧
             t.hostAnswer.getLsbD 2 = r.fault ∧ t.hostAnswer.getLsbD 3 = r.hang ∧ t.hostAnswer.getLsbD 4 = r.trap)) ∧
           Answers (acc 0 a (some v)) s (· = s)
         | .elemFault e => Answers (acc 0 a none) s (reads ((s.elem e).fault.setWidth 64)) ∧ Answers (acc 0 a (some v)) s (· = s)
         | .command p => ∀ k, s.strandOn p = some k → let u : State := { s with site := { strand := k } }
             Answers (acc 0 a none) s (reads (if (s.strand k).region.cmdStatus = true then 1 else 0)) ∧
             (v = 1 → exec (acc 0 a (some v)) s = exec .retry u) ∧ (v = 2 → exec (acc 0 a (some v)) s = exec .resume u) ∧
             (v = 3 → exec (acc 0 a (some v)) s = exec .freeze u) ∧ (v = 4 → exec (acc 0 a (some v)) s = exec .cancel u)
         | .root j => Answers (acc 0 a none) s (reads (s.roots64.look 0 j)) ∧
             exec (acc 0 a (some v)) s = exec (.registerWrite (.translationRoot j) (v.setWidth 512)) s
         | r => Answers (acc 0 a none) s (reads (BitVec.ofNat 64 (s.devRead r)))) ∧
       (s.hostReaches fn b = false → Answers (acc 2 a none) s (reads (BitVec.allOnes 64)) ∧ Answers (acc 2 a (some v)) s (· = s)) ∧
       (s.hostReaches fn b = true →
         (inRanges s.marked b = true → Answers (acc 2 a none) s (reads (BitVec.allOnes 64))) ∧
         (s.prompt = true → (∀ k d, s.Performs (s.hostReq b k d)) →
           (inRanges s.marked b = false → Answers (acc 2 a none) s (reads (BitVec.ofNat 64 (s.peekKey 0 b 8)))) ∧
           (s.CleanLine (b / 128) → Answers (acc 2 a (some v)) s (fun t => Stored 0 b 8 v.toNat s t ∧ t.reqs = s.reqs))) ∧
         (s.prompt = false →
           (inRanges s.marked b = false → Answers (acc 2 a none) s (· = s.issue (s.hostReq b .read 0))) ∧
           Answers (acc 2 a (some v)) s (· = s.issue (s.hostReq b .write v.toNat)))) ∧
       (∀ w, w ≠ 0 → w ≠ 2 → Answers (acc w a none) s (reads (BitVec.allOnes 64)) ∧ Answers (acc w a (some v)) s (· = s))) ∧
     (fn = 0 ∨ 16 < fn ∨ s.answers = false → Answers (.functionLevelReset fn) s (· = s)) ∧
     (1 ≤ fn → fn ≤ 16 → s.answers = true → Answers (.functionLevelReset fn) s (fun t =>
       (∀ m, m < 16 → t.boxes.look {} ((fn - 1) * 16 + m) = {} ∧ t.rings.look {} ((fn - 1) * 16 + m) = {}) ∧ t.toolRings.look {} (fn - 1) = {} ∧
       ∀ j, (s.job j).resident = true → (s.job j).vf = fn - 1 → (s.job j).status = 0 → (t.job j).status = 2 ∧ (t.job j).gstate = 5)))

-- jobs ---------------------------------------------------------------------------------------------------------------------

/-- R384-R387: a host write of a mailbox that is not valid sets its address, valid and status waiting; a write while valid is set is ignored. The
scheduler takes the pointer whose turn it is: a record that breaks R385 is refused with status 5; an accepted one makes its job resident in the lowest
free slot, with the fields of the record, status resident, and its event ring at the start; with no free slot the pointer waits. In recovery no
mailbox answers (R390). R366, R208, R213, R262, R278, R299, R331, R365: a complete or cancelled job with nothing on the fabric, no run at a stitch
unit and its events posted leaves: its slot, windows, program, barriers, locked lines and queues are given up, and its translation root is invalid.
Another job stays as it is. Choices of the model that it rests on: log 69, 80, 93. -/
def Obligations.JobsBecomeAndLeaveResident : Prop :=
  (∀ (s : State) (vf box : Nat) (w : Word), let k := vf * 16 + box; let m : Mailbox := s.boxes.look {} k
     let v := ofBytes (s.seenHome m.addr.toNat 64); let b (i n : Nat) : Nat := v / 2^(8 * i) % 2^(8 * n)
     let boxes (x : Mailbox) (t : State) : Prop := ∀ j, t.boxes.look {} j = if j = k then x else s.boxes.look {} j
     (m.valid = true ∨ s.answers = false → Answers (.mailboxWrite vf box w) s (· = s)) ∧
     (m.valid = false → s.answers = true → Answers (.mailboxWrite vf box w) s (fun t => { t with boxes := s.boxes, fresh := s.fresh } = s ∧ t.fresh = s.fresh + 1 ∧
       boxes { m with addr := w.setWidth 52, valid := true, status := 1, order := s.fresh } t)) ∧
     (m.valid = false → Answers (.jobResidency vf box) s (· = s)) ∧
     (s.rowHeld = true → Answers (.jobResidency vf box) s (· = s)) ∧
     (s.boot.running = true → s.boot.recovery = false → m.valid = true → s.rowHeld = false → (∀ x ∈ s.boxes, x.2.valid = true → x.1 ≠ k → x.2.order < m.order →
         s.stuck x.2 = true) →
       (recordAccepted m.addr.toNat v = false → Answers (.jobResidency vf box) s (fun t => { t with boxes := s.boxes } = s ∧
         boxes { m with valid := false, status := 5 } t)) ∧
       (recordAccepted m.addr.toNat v = true → (∀ j, j < 64 → (s.job j).resident = true) → Answers (.jobResidency vf box) s (· = s)) ∧
       (∀ j s1, recordAccepted m.addr.toNat v = true → j < 64 → (s.job j).resident = false → (∀ i, i < j → (s.job i).resident = true) →
         State.assignWindows j (b 58 2) ((List.range 4).filter (fun d => v / 2^4 % 2^4 / 2^d % 2 = 1)) s = some s1 →
         Answers (.jobResidency vf box) s (fun t => boxes { m with valid := false, status := 2, slot := j } t ∧
           (∀ i, i ≠ j → t.job i = s.job i) ∧
           t.job j = {
             resident := true, vf, box, order := s.fresh, priority := v % 2^3, effective := v % 2^3, stepPre := v / 2^3 % 2 == 1
             dieMask := v / 2^4 % 2^4, dieBound := v / 2^8 % 2 == 1, deadline := b 2 2, graphHdr := BitVec.ofNat 60 (b 8 8)
             poolTab := BitVec.ofNat 60 (b 16 8), ctxArea := BitVec.ofNat 60 (b 24 8), edgeBase := BitVec.ofNat 60 (b 32 8), edgeLen := b 40 8
             ringPhys := b 48 8, ringLog := b 56 1, winLen := b 58 2, edgeStart := b 60 2, ringStart := b 62 2 } ∧
           (t.rings.look {} k : RingCtl).tail = 0 ∧ (t.rings.look {} k : RingCtl).head = 0 ∧
           t.mem = s1.mem ∧ t.windows = s1.windows ∧ t.strands = s.strands ∧ t.elems = s.elems)))) ∧
  (∀ (s : State) (job : Nat), let x := s.job job
     let sent : Prop := ∃ u ∈ s.stitches, ∃ o ∈ u.2.queue, o.job = job
     (x.resident = true → x.status ≠ 0 → x.events = [] → s.jobPlaced job = false → ¬ sent → Answers (.jobLeavingResidency job) s (fun t =>
       t.job job = {} ∧ (∀ j, j ≠ job → t.job j = s.job j) ∧ (job < 64 → ∀ d, t.window d job = ((s.window d job).1, 0)) ∧
       (∀ r, r < 2^60 → t.dataAt.look 0 (job * 2^60 + r) = 0) ∧ t.programs.look [] job = [] ∧
       (∀ i, (t.roots64.look 0 job).getLsbD i = if i = 36 then false else (s.roots64.look 0 job).getLsbD i) ∧ (∀ b ∈ t.barriers, b.2.job ≠ job) ∧ (∀ d ∈ t.dieLines, d.lock ≠ some job) ∧
       (∀ e ∈ t.tlbs, e.job ≠ job) ∧ (∀ q, (s.queue q).valid = true → (s.queue q).job = job → (t.queue q).valid = false) ∧ SameBytes s t ∧
       t.strands = s.strands ∧ t.elems = s.elems)) ∧
     (x.resident = false ∨ x.status = 0 ∨ x.events ≠ [] ∨ s.jobPlaced job = true ∨ sent → Answers (.jobLeavingResidency job) s (· = s)))

/-- R24, R35, R36, R198: a job that has waited 4 ms gains one level of effective priority, to at most 7. For a waiting job that cannot be placed the
scheduler chooses a placed job of lower declared priority: one that yields between steps gets its deadline, another stops at once: its running regions
begin to freeze, and their deferred `LDP`s are withdrawn. A deadline that passes without a phase boundary stops its job in the same way; in the cycle
of the deadline itself a phase that completes comes first. R18, R366-R368: a cancel of a launch that runs ends it: status cancelled, no replica
counted, its strands complete; a cancel of a graph, a phase or a job that runs ends the graph with status cancelled, its strands complete, and the job
with it; the queues that clauses of the level made are invalid; a level that does not run, or that completes in that cycle, reads back 1, and the
cancel changes nothing. Choices of the model that it rests on: log 70, 71, 111, 114, 115. -/
def Obligations.TheSchedulerPreemptsAndLevelsAreCancelled : Prop :=
  (∀ (s : State) (job : Nat), let x := s.job job
     let halts (v k : Nat) : Prop := (s.strand k).onFabric = true ∧ (s.strand k).job = v
     let stops (v : Nat) (t : State) : Prop := { t with strands := s.strands, jobs := s.jobs, reqs := s.reqs } = s ∧
       (∀ q, q ∈ t.reqs ↔ q ∈ s.reqs ∧ ¬ (q.kind = .syncRead ∧ ∃ k, q.agent = .seq k ∧ halts v k)) ∧
       (∀ j, t.job j = if j = v then { s.job v with preempting := true, preemptAt := none } else s.job j) ∧
       ∀ k, let u := s.strand k; (halts v k → t.strand k = { s.withdrawn k with region := { u.region with
         before := if u.region.state = .running then .running else .frozen
         state := if u.region.state = .running then .freezing else u.region.state } }) ∧ (¬ halts v k → t.strand k = u)
     let jobOnly (v : Nat) (y : Job) (t : State) : Prop := { t with jobs := s.jobs } = s ∧ ∀ j, t.job j = if j = v then y else s.job j
     (∀ c, x.waitFrom = some c →
       (s.waits job = true → 3760000 ≤ s.cyc.toNat - c.toNat → Answers (.priorityAging job) s (jobOnly job { x with
         effective := Nat.min 7 (x.effective + 1), waitFrom := some (c + 3760000) })) ∧
       (s.waits job = false ∨ s.cyc.toNat - c.toNat < 3760000 → Answers (.priorityAging job) s (· = s))) ∧
     (x.waitFrom = none → Answers (.priorityAging job) s (· = s)) ∧
     (s.waits job = false → Answers (.preemptionRequest job) s (· = s)) ∧
     (s.waits job = true → s.canPlace (s.soonUsable job) job = false →
         (∀ v ∈ s.jobs, v.2.resident = true → s.jobPlaced v.1 = true → v.2.preemptAt = none ∧ v.2.preempting = false) →
       (s.victim x.priority = none → Answers (.preemptionRequest job) s (· = s)) ∧
       (∀ v, s.victim x.priority = some v → (s.job v).stepPre = true → Answers (.preemptionRequest job) s (jobOnly v { s.job v with
         preemptAt := some (s.cyc + BitVec.ofNat 64 ((s.job v).deadline * 940)) })) ∧
       (∀ v, s.victim x.priority = some v → (s.job v).stepPre = false → (s.strands.map (·.1)).Nodup → Answers (.preemptionRequest job) s (stops v))) ∧
     (x.preemptAt = none → Answers (.stepDeadlineExpiry job) s (· = s)) ∧
     (∀ d, x.preemptAt = some d →
       (s.cyc.toNat < d.toNat ∨ x.phaseDone = true → Answers (.stepDeadlineExpiry job) s (· = s)) ∧
       (s.cyc = d → s.phaseQuiet job = true → Answers (.stepDeadlineExpiry job) s (· = s)) ∧
       (d.toNat ≤ s.cyc.toNat → x.phaseDone = false → (s.cyc = d → s.phaseQuiet job = false) →
         (s.jobPlaced job = false → Answers (.stepDeadlineExpiry job) s (jobOnly job { x with preemptAt := none })) ∧
         (s.jobPlaced job = true → (s.strands.map (·.1)).Nodup → Answers (.stepDeadlineExpiry job) s (stops job))))) ∧
  (∀ (s : State) (job node : Nat), let x := s.job job; let l : Launch := x.launches.look {} node
     -- a phase or a graph that completes in the cycle of the cancel completes first (R367, R368)
     let u := s.settleLevels job; let y := u.job job
     let ended (t : State) : Prop := t.cancelStatus = false ∧ (t.job job).gstate = 5 ∧ (t.job job).status = 2 ∧ (t.job job).graphCount = 0 ∧
       (t.job job).phaseCount = 0 ∧ (t.job job).phaseOpen = false ∧ (t.job job).saved = [] ∧ (∀ j, j ≠ job → t.job j = u.job j) ∧
       (∀ q, (u.queue q).valid = true → (u.queue q).job = job → (u.queue q).owner.isSome = true → (t.queue q).valid = false) ∧
       ∀ k, ((u.strand k).onFabric = true ∧ (u.strand k).job = job → (t.strand k).run = .complete)
     let refused (t : State) : Prop := t = { s with cancelStatus := true }
     let late (t : State) : Prop := t = { u with cancelStatus := true }
     (x.resident = true → l.runnable = true → l.complete = false → l.status = 0 → Answers (.cancelLaunch job node) s (fun t => t.cancelStatus = false ∧
       (let m : Launch := (t.job job).launches.look {} node;
         m.left = 0 ∧ m.status = 2 ∧ m.complete = true ∧ m.nextReplica = l.replicas) ∧
       (t.job job).graphCount = x.graphCount - 1 ∧ (t.job job).phaseCount = x.phaseCount - 1 ∧ (∀ j, j ≠ job → t.job j = s.job j) ∧
       (∀ q, (s.queue q).valid = true → (s.queue q).job = job → (s.queue q).owner = some node → (t.queue q).valid = false) ∧
       ∀ k, (s.strand k).onFabric = true → (s.strand k).job = job → (s.strand k).node = node → (t.strand k).run = .complete)) ∧
     (x.resident = false ∨ l.runnable = false ∨ l.complete = true ∨ l.status ≠ 0 → Answers (.cancelLaunch job node) s refused) ∧
     (x.phaseDone = false → s.phaseQuiet job = false → u = s) ∧
     (x.resident = true → x.phaseDone = false → s.phaseQuiet job = true → Answers (.cancelPhase job) s (fun t =>
       t.cancelStatus = true ∧ (t.job job).phases = x.phases + 1)) ∧
     (y.resident = true →
       ((y.gstate = 1 ∨ y.gstate = 2) → Answers (.cancelGraph job) s ended) ∧
       (y.phaseOpen = true → y.phaseDone = false → Answers (.cancelPhase job) s ended) ∧
       (y.status = 0 → Answers (.cancelJob job) s (fun t => ended t ∧ (∀ b ∈ t.barriers, b.2.job ≠ job) ∧ ∀ d ∈ t.dieLines, d.lock ≠ some job))) ∧
     (y.resident = false ∨ (y.gstate ≠ 1 ∧ y.gstate ≠ 2) → Answers (.cancelGraph job) s late) ∧
     (y.resident = false ∨ y.phaseOpen = false ∨ y.phaseDone = true → Answers (.cancelPhase job) s late) ∧
     (y.resident = false ∨ y.status ≠ 0 → Answers (.cancelJob job) s late))

-- placement -----------------------------------------------------------------------------------------------------------------

/-- R22, R25, R352, R366, R373: the allocator places the next replica of a launch whose job is selected on the lowest free rectangle of a die: a new
strand with the node's record, a share of the engine's weight and the phase root; its panels are placed. A launch that is not selected is not placed,
nor one, of which a gang is a whole, for which there is no room. A set that is not yet started moves to a lower free rectangle of its die, and the
panels it leaves go to zeroing. R23, R26, R27, R31, R87, R88, R9: the loader loads the image of a placed replica: `spt` at its script, x1 at its data
section, the other registers zero. It starts, `GO` to its configured elements, with the replicas that stand loaded, once no replica of its launch is
placed and not loaded, and a gang is placed as a whole; until then it waits. An image that fails a check starts nothing: its launch is refused.
Choices of the model that it rests on: log 23, 70, 87, 101, 104, 116. -/
def Obligations.ReplicasArePlacedAndLoaded : Prop :=
  (∀ (s : State) (j n die k w h lead : Nat), let l : Launch := (s.job j).launches.look {} n; let x := s.job j; let u := s.strand k
     let rect (p : Nat) (w h : Nat) : List Nat := (List.range (w * h)).map (fun i => p + i / w * 16 + i % w)
     (x.stopped = true ∨ l.toPlace = false ∨ s.selected j = false ∨ die ∉ s.launchDies j n → Answers (.allocatorPlacement (.place j n die)) s (· = s)) ∧
     (s.rowHeld = true → Answers (.allocatorPlacement (.place j n die)) s (· = s) ∧ Answers (.allocatorPlacement (.move k)) s (· = s)) ∧
     (s.recordShape j l.record.toNat = some (w, h) → s.launchRoom (s.usable j) j n = false → Answers (.allocatorPlacement (.place j n die)) s (· = s)) ∧
     (x.stopped = false → l.toPlace = true → s.selected j = true → die ∈ s.launchDies j n → s.recordShape j l.record.toNat = some (w, h) →
       s.rowHeld = false → l.gang = false → s.launchRoom (s.usable j) j n = true → s.freeRect j die w h = some lead →
       ∀ e left, Given x.holding e left false → Answers (.allocatorPlacement (.place j n die)) s (fun t => let p := die * 128 + lead
         SameBytes s t ∧ (∃ key, ((s.strand key).run = .absent ∨ (s.strand key).run = .complete ∨ key = s.strands.length) ∧
           t.strand key = {
             run := .placed, job := j, node := n, replica := BitVec.ofNat 16 l.nextReplica, replicas := BitVec.ofNat 17 l.replicas
             carried := l.carried, lead := p, width := w, height := h, cpc := l.record, w := BitVec.ofNat 64 (2^(63 - e)), proot := x.phaseRoot } ∧
           ∀ i, i ≠ key → t.strand i = s.strand i) ∧
         (∀ q, t.panels.look {} q = if q ∈ rect p w h then { state := 2, job := j, lead := p % 128 } else s.panels.look {} q) ∧
         (t.job j).holding = left ∧ (t.job j).launches.look {} n = { l with nextReplica := l.nextReplica + 1 } ∧
         (∀ i, i ≠ j → t.job i = s.job i))) ∧
     (s.movable k = false → Answers (.allocatorPlacement (.move k)) s (· = s)) ∧
     ((u.run = .placed ∨ u.run = .loaded) → (s.job u.job).preempting = false → s.rowHeld = false → s.freeRect u.job (dieOf u.lead) u.width u.height = some lead →
       (u.lead % 128 ≤ lead → Answers (.allocatorPlacement (.move k)) s (· = s)) ∧
       (lead < u.lead % 128 → let p := dieOf u.lead * 128 + lead; Answers (.allocatorPlacement (.move k)) s (fun t => SameBytes s t ∧
         (∀ i, t.strand i = if i = k then { u with lead := p, run := .placed } else s.strand i) ∧
         ∀ q, t.panels.look {} q = if q ∈ rect p u.width u.height then { state := 2, job := u.job, lead := lead }
           else if q ∈ u.panels then { s.panels.look {} q with state := 1 } else s.panels.look {} q)))) ∧
  (∀ (s : State), let u := s.self; let k := s.site.strand; let l : Launch := (s.job u.job).launches.look {} u.node
     let mates : List Nat := (s.strandsOf u.job u.node).filter (fun i => i != k)
     let waits : Prop := (l.gang = true ∧ l.toPlace = true) ∨ ∃ i ∈ mates, (s.strand i).run = .placed
     let begun (p : LoadPlan) (t : State) : Prop := t.self.cpc = u.cpc ∧ t.self.spt = BitVec.ofNat 60 (p.record.image + p.record.script) ∧
       (∀ r, t.reg r = if r = 1 then s.dataAt.look 0 (u.job * 2^60 + u.cpc.toNat) else 0) ∧ t.self.kpend = 0 ∧ t.self.cpnl = 0 ∧
       t.self.w = u.w ∧ t.self.proot = u.proot
     (u.run ≠ .placed ∨ s.rowHeld = true → Answers .launchLoad s (· = s)) ∧
     (∀ p, u.run = .placed → s.rowHeld = false → s.loadCheck k u.cpc.toNat = .ok p → s.partOf u = none →
       (waits → Answers .launchLoad s (fun t => LoadedBy p s t ∧ begun p t ∧ t.self.run = .loaded ∧ ∀ e ∈ u.elems, (t.elem e).go = false)) ∧
       (¬ waits → Answers .launchLoad s (fun t => begun p t ∧ t.self.run = .running ∧
         (∀ e ∈ u.elems, (t.elem e).go = (t.elem e).configured) ∧
         (∀ i ∈ mates, (s.strand i).run = .loaded → s.partOf (s.strand i) = none → (t.strand i).run = .running) ∧
         ((∀ i ∈ mates, (s.strand i).run ≠ .loaded) → LoadedBy p s t)))) ∧
     (∀ e, u.run = .placed → s.rowHeld = false → s.loadCheck k u.cpc.toNat = .error e →
         (s.partOf u = none ∨ (l.runnable = true ∧ l.complete = false)) → Answers .launchLoad s (fun t => t.self.run = .complete ∧
       (let m : Launch := (t.job u.job).launches.look {} u.node;
         m.left = 0 ∧ m.status = 3 ∧ m.complete = true) ∧
       (s.partOf u = none → (s.job u.job).gstate = 1 ∨ (s.job u.job).gstate = 2 → (t.job u.job).gstate = 4 ∧ (t.job u.job).gcause = 7 ∧ (t.job u.job).gnode = (s.job u.job).gnode))))

/-- R221, R222, R352: a panel to be zeroed, with no write to its storage pending, is zeroed and free: every byte of its elements, its scratch and its
cluster share reads zero, and its elements hold nothing. An edge buffer whose consumer is complete, with no access to it on its way, is zeroed and no
longer held, the panels of a `CLUSTER` buffer as freed panels are; one whose consumer is not complete is left. R19, R196, R199-R203: a halted strand,
whose reads have returned, is saved: a record, compact where it stands at its yield between phases, with its registers joins its job's records at the
next place of the context area, an event is posted with the record's address, and its panels go to zeroing. A saved strand of a selected job is
restored at a free rectangle with the registers that its record in memory holds; a restore fault leaves it saved and posts an event. Choices of the
model that it rests on: log 24, 67, 68, 104, 110, 112, 113. -/
def Obligations.StorageIsZeroedAndContextsSaved : Prop :=
  (∀ (s : State) (p job edge : Nat),
     let storage : List (Nat × Nat) := [(elemHome (p * 64), 64 * 65536), (panelHome p, 2^20), (shareHome p, 2^19)]
     let pending : Prop := ∃ r ∈ s.reqs, r.writes = true ∧ r.virt = false ∧ ∃ x ∈ storage, overlaps x.1 x.2 r.home r.size = true
     ((s.panels.look {} p : Panel).state ≠ 1 ∨ pending → Answers (.panelZeroing p) s (· = s)) ∧
     ((s.panels.look {} p : Panel).state = 1 → ¬ pending → Answers (.panelZeroing p) s (fun t =>
       (∀ x ∈ storage, ∀ a, x.1 ≤ a → a < x.1 + x.2 → memGet t.mem a = 0) ∧
       (∀ a, (∀ x ∈ storage, a < x.1 ∨ x.1 + x.2 ≤ a) → memGet t.mem a = memGet s.mem a) ∧
       (∀ q, t.panels.look {} q = if q = p then { s.panels.look {} p with state := 0 } else s.panels.look {} q) ∧
       (∀ e, e / 64 = p → (t.elem e).ta = [] ∧ (t.elem e).tl = [] ∧ (t.elem e).occ = [] ∧ (t.elem e).accs = [] ∧ (t.elem e).frets = [] ∧
         (t.elem e).configured = false) ∧
       (∀ e, e / 64 ≠ p → t.elem e = s.elem e) ∧ { t with mem := s.mem, elems := s.elems, tiles := s.tiles, panels := s.panels } = s)) ∧
     (∀ b, (s.job job).edges.find? (fun e => e.1 == edge) = some (edge, b) →
       (((s.job job).launches.look {} b.consumer : Launch).complete = false → Answers (.edgeBufferFree job edge) s (· = s)) ∧
       (s.rowHeld = true → Answers (.edgeBufferFree job edge) s (· = s)) ∧
       (((s.job job).launches.look {} b.consumer : Launch).complete = true → s.rowHeld = false →
         let freed (t : State) : Prop := Tab.has (t.job job).edges edge = false ∧ t.strands = s.strands ∧ t.elems = s.elems ∧
           ∀ i, i ≠ job → t.job i = s.job i
         (b.space = 2 → Answers (.edgeBufferFree job edge) s (fun t => freed t ∧
           ∀ q, t.panels.look {} q = if q ∈ b.panels then { s.panels.look {} q with state := 1 } else s.panels.look {} q)) ∧
         (b.space ≠ 2 → (∃ q ∈ s.reqs, ∃ r ∈ s.bufferRuns job b, overlaps r.1 r.2.1 q.home q.size = true) →
           Answers (.edgeBufferFree job edge) s (· = s)) ∧
         (b.space ≠ 2 → (∀ q ∈ s.reqs, ∀ r ∈ s.bufferRuns job b, overlaps r.1 r.2.1 q.home q.size = false) →
           Answers (.edgeBufferFree job edge) s (fun t => freed t ∧
             ∀ r ∈ s.bufferRuns job b, ∀ a, r.1 ≤ a → a < r.1 + r.2.1 → memGet t.mem a = 0)))) ∧
     (Tab.has (s.job job).edges edge = false → Answers (.edgeBufferFree job edge) s (· = s))) ∧
  (∀ (s : State) (job index die lead : Nat), let k := s.site.strand; let u := s.self; let x := s.job u.job
     (u.onFabric = true → x.preempting = true → (if x.stopped = true then u.run = .yielded else u.region.state = .halted) → s.saveWaits k = false →
       s.rowHeld = false →
       Answers .contextSave s (fun t => t.self.run = .saved ∧ (∀ i, i ≠ k → t.strand i = s.strand i) ∧
         (∀ p, t.panels.look {} p = if p ∈ u.panels then { s.panels.look {} p with state := 1 } else s.panels.look {} p) ∧
         (∀ e, e ∉ u.elems → e < 2^20 → (∀ r ∈ (s.elem e).routes, r.2.link = none) → { t.elem e with age := (s.elem e).age } = s.elem e) ∧
         ∃ v, (t.job u.job).saved = x.saved ++ [v] ∧ v.key = k ∧ (v.full = false ↔ u.run = .yielded ∧ x.phaseOpen = false) ∧ v.addr = x.ctxArea.toNat + 64 * x.ctxUsed ∧
           v.strand.x = u.x ∧ v.strand.cpc = u.cpc ∧ v.strand.spt = u.spt ∧ v.strand.w = u.w ∧ v.strand.kpend = u.kpend ∧
           v.strand.stack = u.stack ∧ v.strand.proot = u.proot ∧
           (t.job u.job).events = x.events ++ [eventRecord (if v.damaged = true then 5 else 4) u.job u.lead u.cpc.toNat u.spt.toNat v.addr])) ∧
     (u.onFabric = false ∨ x.preempting = false ∨ s.saveWaits k = true ∨ s.rowHeld = true → Answers .contextSave s (· = s)) ∧
     (let y := s.job job;
       (y.saved[index]? = none → Answers (.contextRestore job index die) s (· = s)) ∧
       (∀ v, y.saved[index]? = some v → (y.preempting = true ∨ s.selected job = false ∨ die ∉ s.savedDies job v ∨
           (∃ u ∈ s.together job v, s.owing u.2.key = true) ∨ s.rowHeld = true) → Answers (.contextRestore job index die) s (· = s)) ∧
       (∀ v, y.saved[index]? = some v → y.preempting = false → s.selected job = true → die ∈ s.savedDies job v →
         s.together job v = [(index, v)] → s.owing v.key = false → s.rowHeld = false → s.freeRect job die v.strand.width v.strand.height = some lead →
         (s.restoreAt job (die * 128 + lead) v = none → Answers (.contextRestore job index die) s (fun t => SameBytes s t ∧ t.strands = s.strands ∧
           t.elems = s.elems ∧ (t.job job).saved = y.saved.map (fun u => if u.key = v.key then { u with failed := true } else u))) ∧
         (∀ s1 r, s.restoreAt job (die * 128 + lead) v = some s1 → s.readVirtNat (.die (dieOf (die * 128 + lead))) (dieOf (die * 128 + lead)) job v.addr 384 = .ok r →
             s.partOf (s.strand v.key) = none → v.strand.run ≠ .loaded →
             (∀ e ∈ s.parkedOf v.key, ∀ p ∈ (s.elem e).age.places, p.2.active = false ∨ p.2.done = false) →
           Answers (.contextRestore job index die) s (fun t => (t.job job).saved = y.saved.filter (fun u => u.key != v.key) ∧
             (t.strand v.key).lead = die * 128 + lead ∧ (t.strand v.key).run = (if r % 2^8 = 1 then .yielded else v.strand.run) ∧
             (t.strand v.key).cpc = BitVec.ofNat 60 (r / 2^64) ∧ (t.strand v.key).spt = BitVec.ofNat 60 (r / 2^128) ∧
             (t.strand v.key).w = BitVec.ofNat 64 (r / 2^192) ∧ (t.strand v.key).kpend = BitVec.ofNat 8 (r / 2^272) ∧
             (∀ i, i < 31 → (t.strand v.key).reg (i + 1) = BitVec.ofNat 64 (r / 2^(512 + 64 * i))) ∧
             ∀ i, i ≠ v.key → t.strand i = s.strand i)))))

-- the graph engine ----------------------------------------------------------------------------------------------------------

/-- R348, R350, R373: the engine of a resident job starts its graph: a phase with a free root, expected 1.0 and held by the engine, at the start node.
At a conditional node a full predicate is read and emptied, and the value chooses the successor; an empty one is waited for. At a loop node whose
phase is complete the predicate turns back for another pass, or leaves; its phase ends. At an end node the graph completes, and its mailbox with it.
At a launch node the launch is made runnable with its replicas counted, and the engine goes on, or waits for it. R368: a phase completes when its
launch counter is zero and its root is quiet: the count of phases rises, and nothing else changes. Choices of the model that it rests on: log 72, 73,
75, 100, 104, 111, 124. -/
def Obligations.GraphsRunAndPhasesComplete : Prop :=
  (∀ (s : State) (j h v : Nat), let x := s.job j; let n := x.gnode; let nodes := h % 2^12 + 1
     let kind := v % 2^3; let a := v / 2^4 % 2^12; let b := v / 2^16 % 2^12; let die := j % 4
     let only (t : State) : Prop := (∀ i, i ≠ j → t.job i = s.job i) ∧ t.strands = s.strands ∧ t.elems = s.elems
     let word (l : Leaf) : Prop := s.checkVirt (.die die) die j (v / 2^64 % 2^60) 8 .syncRead false = .ok l ∧ s.isBad l.pa 8 = false ∧
       s.CleanLine (l.pa / 128) ∧ s.queuedAt (s.bankOf l.pa) = []
     let emptied (l : Leaf) (t : State) : Prop := t.isFull l.pa = false ∧ Stored l.key l.pa 8 0 s t
     (∀ r, x.resident = true → x.status = 0 → x.gstate = 0 → s.stopping j = false → s.rowHeld = false → s.graphRecord j x.graphHdr.toNat = some h →
       h / 2^12 % 2^12 < nodes → s.freeRoot die = some r → r < 2^10 →
       ∀ i ∈ [Instr.graphLaunchNode j, .graphConditionalNode j, .graphLoopNode j, .graphEndNode j], Answers i s (fun t => only t ∧ SameBytes s t ∧
         t.root r = { expected := 0x10000000000000000, kind := 1, job := j } ∧ (t.job j).gstate = 1 ∧ (t.job j).gnode = h / 2^12 % 2^12 ∧
         (t.job j).phaseRoot.toNat = r ∧ (t.job j).holding = 0x8000000000000000 ∧ (t.job j).phaseOpen = true ∧ (t.job j).phaseCount = 0)) ∧
     (x.resident = true → x.status = 0 → x.gstate = 0 → s.stopping j = false → s.rowHeld = false → s.graphRecord j x.graphHdr.toNat = none →
       ∀ i ∈ [Instr.graphLaunchNode j, .graphConditionalNode j, .graphLoopNode j, .graphEndNode j], Answers i s (fun t => only t ∧ SameBytes s t ∧
         (t.job j).gstate = 4 ∧ (t.job j).gcause = 3)) ∧
     (x.resident = false ∨ x.status ≠ 0 ∨ 3 ≤ x.gstate ∨ s.rowHeld = true →
       ∀ i ∈ [Instr.graphLaunchNode j, .graphConditionalNode j, .graphLoopNode j, .graphEndNode j], Answers i s (· = s)) ∧
     (s.AtNode j h v →
       (kind = 2 → ∀ l, word l →
         (s.isFull l.pa = false → Answers (.graphConditionalNode j) s (fun t => only t ∧ SameBytes s t ∧
           t.job j = { x with nodeBegun := true, graphCount := if x.nodeBegun = true then x.graphCount else x.graphCount + 1 })) ∧
         (s.isFull l.pa = true → let to_ := if s.peekKey l.key l.pa 8 = 0 then b else a
           to_ < nodes → Answers (.graphConditionalNode j) s (fun t => only t ∧ emptied l t ∧ t.job j = { x with
             gnode := to_, nodeBegun := false, graphCount := if x.nodeBegun = true then x.graphCount - 1 else x.graphCount }))) ∧
       (kind = 3 → x.phaseDone = true → x.holdingReturned = true → s.freesOwed j = false → (∀ q, (s.queue q).count = 0 ∧ (s.queue q).spillCount = 0) →
         ∀ l, word l →
         (s.isFull l.pa = true → s.peekKey l.key l.pa 8 = 0 → b < nodes → Answers (.graphLoopNode j) s (fun t => only t ∧ emptied l t ∧
           (t.job j).gnode = b ∧ (t.job j).phaseOpen = false ∧ (t.job j).passes = x.passes ∧ t.root x.phaseRoot.toNat = {})) ∧
         (s.isFull l.pa = true → s.peekKey l.key l.pa 8 ≠ 0 → a < nodes → v / 2^128 % 2^32 = 0 → Answers (.graphLoopNode j) s (fun t => only t ∧
           emptied l t ∧ (t.job j).gnode = a ∧ (t.job j).phaseOpen = false ∧ (t.job j).passes = x.passes + 1 ∧ (t.job j).graphCount = 0 ∧
           t.root x.phaseRoot.toNat = {} ∧ ∀ m, ((t.job j).launches.look {} m : Launch).runnable = false ∧
             ((t.job j).launches.look {} m : Launch).complete = false)) ∧
         (s.isFull l.pa = false → Answers (.graphLoopNode j) s (fun t => only t ∧ SameBytes s t ∧ (t.job j).gnode = n))) ∧
       ((kind = 3 ∨ kind = 4) → x.phaseDone = false → x.holdingReturned = true →
         Answers (if kind = 3 then .graphLoopNode j else .graphEndNode j) s (fun t => only t ∧ SameBytes s t ∧
           t.job j = { x with nodeBegun := true, graphCount := if x.nodeBegun = true then x.graphCount else x.graphCount + 1 })) ∧
       (kind = 4 → x.saved = [] → x.phaseDone = true → x.holdingReturned = true → s.freesOwed j = false → (∀ q, (s.queue q).count = 0 ∧ (s.queue q).spillCount = 0) →
         (∀ k, ¬ ((s.strand k).run = .yielded ∧ (s.strand k).job = j)) → (s.strands.map (·.1)).Nodup → Answers (.graphEndNode j) s (fun t =>
           only t ∧ SameBytes s t ∧ (t.job j).gstate = 3 ∧ (t.job j).status = 1 ∧ (t.job j).phaseOpen = false ∧ t.root x.phaseRoot.toNat = {} ∧
           let m : Mailbox := s.boxes.look {} (x.vf * 16 + x.box)
           (m.valid = false → (t.boxes.look {} (x.vf * 16 + x.box) : Mailbox).status = 3))) ∧
       (kind = 1 → x.nodeBegun = false → v / 2^30 % 2 = 1 → v / 2^29 % 2 = 0 → Answers (.graphLaunchNode j) s (fun t => only t ∧ SameBytes s t ∧
         (t.job j).gstate = 4 ∧ (t.job j).gcause = 7)) ∧
       (kind = 1 → x.nodeBegun = false → (v / 2^30 % 2 = 1 → v / 2^29 % 2 = 1 ∧ s.yieldedOf j n = [] ∧ (x.launches.look {} n : Launch).halted = 0) →
         h / 2^188 % 2^12 = 0 → a < nodes → (∀ v ∈ x.saved, v.strand.node ≠ n) →
         ¬ ((x.launches.look {} n : Launch).runnable = true ∧ (x.launches.look {} n : Launch).complete = false) →
         let l : Launch := {
             left := BitVec.ofNat 17 (v / 2^32 % 2^16 + 1), replicas := v / 2^32 % 2^16 + 1, gang := v / 2^29 % 2 == 1, carried := v / 2^30 % 2 == 1
             record := BitVec.ofNat 60 (v / 2^64), runnable := true }
         let refused : Prop := s.clauseRefused j n = true ∨ (l.gang = true ∧ s.gangTooLarge j n l = true)
         (refused → Answers (.graphLaunchNode j) s (fun t => (t.job j).gstate = 4 ∧ (t.job j).gcause = 7 ∧
           let m : Launch := (t.job j).launches.look {} n; m.status = 3 ∧ m.complete = true)) ∧
         (¬ refused → Answers (.graphLaunchNode j) s (fun t => only t ∧ SameBytes s t ∧ (t.job j).launches.look {} n = l ∧
           (t.job j).graphCount = x.graphCount + 1 ∧ (t.job j).phaseCount = x.phaseCount + 1 ∧
           (v / 2^28 % 2 = 1 → (t.job j).gnode = n ∧ (t.job j).nodeBegun = true) ∧ (v / 2^28 % 2 = 0 → (t.job j).gnode = a ∧ (t.job j).nodeBegun = false)))))) ∧
  (∀ (s : State) (j : Nat), let x := s.job j
     let quiet : Prop := x.phaseOpen = true ∧ x.holdingReturned = true ∧ x.phaseCount = 0 ∧
       (s.root x.phaseRoot.toNat).returned = (s.root x.phaseRoot.toNat).expected
     (x.resident = true → x.phaseDone = false → quiet → Answers (.phaseCompletion j) s (fun t => { t with jobs := s.jobs } = s ∧
       ∀ i, t.job i = if i = j then { x with phaseDone := true, phases := x.phases + 1 } else s.job i)) ∧
     (x.resident = false ∨ x.phaseDone = true ∨ ¬ quiet → Answers (.phaseCompletion j) s (· = s)))

-- the machine as a whole ------------------------------------------------------------------------------

/-- R38, R46, R77, R80, R96, R396: a step is the meaning of the instruction that stands where its part of the package takes it from. A sequencer's
word comes from its panel's stream buffer or from memory at `spt`, from a SHARED page from memory alone, and waits for a row that a bank program holds
(R286), as a walk of its page or of the page it accesses does (R327); it executes one cycle on, at a site that names the strand and the word, with
nothing else changed where no element counts cycles and the caches take nothing; a word that waits for a load's register changes only the mark of a
wait; a word that does not decode, and a fetch that may not be made, run the fault's own entry. A slot, a command queue's head, a command in its place
and a bank likewise run what their words decode to; off the fabric a command does so only while it is owed to memory (R199). With the agenda empty the
next part in turn acts (log 1); without power nothing does. R28, R29, R135: an element makes a fret swap that stands to be made; else it fires one of
its ready slots: the lowest whose pass-over count has reached 8, else the lowest; with none ready it makes an exchange that stands to be made. The
count of every other ready slot rises by 1 as one fires, and the count of a slot that is not ready is then 0. Choices of the model that it rests on:
log 1, 2, 3, 67, 104. -/
def Obligations.StepRunsTheDecodedInstruction : Prop :=
  ((∀ s : State, s.boot.powered = false → step s = .fault .noPower) ∧
   (∀ s : State, s.boot.powered = true → s.latchDue = false → s.agenda = [] → s.moves ≠ [] →
     ∃ m ∈ s.moves, step s = ({ s with rr := s.rr + 1 } : State).take m) ∧
   (∀ (s : State) (m : Move) (rest : List Move), s.boot.powered = true → s.latchDue = false → s.agenda = m :: rest →
     let u : State := { s with agenda := rest }
     (∀ k, m = .seq k → (s.strand k).issues = true →
       let t := s.strand k
       let walks := s.walkWaits (.seq k) (dieOf t.lead) t.job t.spt.toNat
       (walks = true → step s = .next u) ∧
       (walks = false → ∀ l, u.checkVirt (.seq k) (dieOf t.lead) t.job t.spt.toNat 4 .fetch false = .ok l →
         let home : Prop := l.kind = 3 ∨ s.fetchHit t.lead t.job t.spt.toNat = none
         (home → (s.bankAt (s.bankOf l.pa)).held = true → step s = .next u) ∧
         (home → (s.bankAt (s.bankOf l.pa)).held = false → s.isBad l.pa 4 = true → step s = .next ((u.issuing k 0).raise 9 0 0 t.spt.toNat)) ∧
         ∀ w, ((∃ f, l.kind ≠ 3 ∧ s.fetchHit t.lead t.job t.spt.toNat = some f ∧ w = bitsAt f.data.toNat (8 * (t.spt.toNat % 128)) 32) ∨
             (home ∧ (s.bankAt (s.bankOf l.pa)).held = false ∧ s.isBad l.pa 4 = false ∧ w = if l.kind = 3 then s.peekKey l.key l.pa 4 else
               bitsAt ((s.underKey l.key l.pa 4).lineSeen (dieOf t.lead) (l.pa / 128)).toNat (8 * (l.pa % 128)) 32)) →
           (t.owes w = true → step s = .next (u.issuing k w).wait) ∧
           (t.owes w = false → (∀ i, decodeSeq w = .ok i → ((u.issuing k w).seqWalks i = true → step s = .next (u.issuing k w).wait) ∧
               ((u.issuing k w).seqWalks i = false → step s = exec i (u.issuing k w))) ∧
             (∀ x, decodeSeq w = .error x → step s = exec (.illegalInstruction (BitVec.ofNat 32 w)) (u.issuing k w)))) ∧
       (walks = false → ∀ x, u.checkVirt (.seq k) (dieOf t.lead) t.job t.spt.toNat 4 .fetch false = .error x →
         step s = exec .fetchFault (u.issuing k 0))) ∧
     (∀ k w, (u.issuing k w).cyc = s.cyc + 1 ∧ (u.issuing k w).site = { strand := k, word := BitVec.ofNat 32 w } ∧
       (s.fill = false → (∀ e ∈ s.elems, e.2.counts = false) → (∀ c ∈ s.cuts, c.2.bridle.enabled = false) →
         s.fetchHit (s.strand k).lead (s.strand k).job (s.strand k).spt.toNat = none →
         (∀ j, { (u.issuing k w).strand j with quiet := 0 } = { s.strand j with quiet := 0 }) ∧
         { u.issuing k w with strands := s.strands, perf := s.perf, cyc := s.cyc, site := s.site, agenda := s.agenda } = s)) ∧
     (∀ e n i, m = .slot e n → (s.elem e).slotInstr n = some i → ∃ v, step s = exec i { v with site := { elem := e, slot := n } } ∧
       PassedOver e (if n < 4 ∧ s.slotReady e n = true then some n else none) u v) ∧
     (∀ e h r, m = .head e → (s.elem e).age.queue = h :: r →
       (∀ i, decodeCmd h.raw.toNat = .ok i → step s = exec i { u with site := { elem := e } }) ∧
       (∀ x, decodeCmd h.raw.toNat = .error x → step s = exec (.commandDecodeFault h.raw) { u with site := { elem := e } })) ∧
     (∀ e p, m = .place e p → parked e = true → ((s.place e p).owed = false ∨ (s.place e p).done = true) → step s = .next u) ∧
     (∀ e p, m = .place e p → (s.place e p).active = true → (parked e = true → (s.place e p).owed = true ∧ (s.place e p).done = false) →
       ((s.place e p).done = true → step s = exec .commandCompletion { u with site := { elem := e, place := some p } }) ∧
       ((s.place e p).done = false → ∀ i, decodeCmd (s.place e p).raw.toNat = .ok i →
         step s = exec i { u with site := { elem := e, place := some p } })) ∧
     (∀ b r w i, m = .bank b → (s.bankAt b).running = some r → (s.programs.look [] r.job)[(s.bankAt b).word]? = some w →
       decodeBank w.toNat = .ok i → step s = exec i { u with site := { bank := b } }) ∧
     (∀ x i, m = .event x i → step s = exec i { u with site := x }) ∧
     (∀ n, m = .tick n → step s = .next (u.elapse (u.untilLatch n))))) ∧
  (∀ (s : State) (e : Nat) (rest : List Move), s.boot.powered = true → s.latchDue = false → s.agenda = .elem e :: rest →
     let u : State := { s with agenda := rest }
     let still (i : Instr) : Prop := ∃ t, exec i (u.atSlot e 0) = .next t ∧ t.elem e = s.elem e
     let moves (i : Instr) : Prop := ∃ t, exec i (u.atSlot e 0) = .next t ∧ t.elem e ≠ s.elem e
     (moves .fretSwap → ∃ v, PassedOver e none u v ∧ step s = exec .fretSwap (v.atSlot e 0)) ∧
     (still .fretSwap → (∀ n, n < 4 → u.slotReady e n = false) →
       (moves .tileExchange → ∃ v, PassedOver e none u v ∧ step s = exec .tileExchange (v.atSlot e 0)) ∧
       (still .tileExchange → ∃ v, PassedOver e none u v ∧ step s = .next v)) ∧
     (∀ n i, still .fretSwap → n < 4 → u.slotReady e n = true → (s.elem e).slotInstr n = some i →
       (if 8 ≤ ((s.elem e).slot n).pass then ∀ m, m < n → u.slotReady e m = true → ((s.elem e).slot m).pass < 8
        else ∀ m, m < 4 → u.slotReady e m = true → ((s.elem e).slot m).pass < 8 ∧ n ≤ m) →
       ∃ v : State, step s = exec i { v with site := { elem := e, slot := n } } ∧ PassedOver e (some n) u v))

/-- Whatever acts, an instruction answers a next state: no arm refuses, and with power on no step stops. A sanity statement of this model; R396 gives
the one stop, a package without power. A choice of the model that it rests on: log 91. -/
def Obligations.EveryInstructionAnswersAState : Prop :=
  (∀ (i : Instr) (s : State), ∃ t, exec i s = .next t) ∧
  (∀ s : State, s.boot.powered = true → ∃ t, step s = .next t) ∧
  (∀ s : State, Out.goes (step s) = true)

/-- The one list of bytes that every memory of the package is kept in stays in its canonical form whatever acts: addresses strictly rise, and no
listed byte is zero, which is what an unlisted address reads as (R222 for the storage of placed parts, the model's choice of log 4 for the rest). A
choice of the model that it rests on: log 4. -/
def Obligations.StepKeepsMemoryCanonical : Prop :=
  ∀ s t : State, s.memWf = true → step s = .next t → t.memWf = true

/-- R395, R353, R354: no step, of whatever agent, changes what the fuses give (the capacity registers and the retired-link maps) or key slot 0; a
package reset and a hardware trip do not either. A choice of the model that it rests on: log 8. -/
def Obligations.FusesAndTheFirstKeySlotNeverChange : Prop :=
  ∀ s t : State, step s = .next t →
    t.cap = s.cap ∧ t.retired = s.retired ∧ (s.keys.look {} 0 = { use := 1 } → t.keys.look {} 0 = { use := 1 })

/-- R66, R185-R188, R193, R213, R331, R338, R341, R352, R354, R360, R371, R379-R384, R387, R390: what reset leaves. `CYC` is 0; no job is resident, no
message, barrier, root, template, key but slot 0, mailbox or event is valid; every fault, heat, bridle and counter register is at its reset value;
memory lists nothing. The full part of R8 and the booted state are the model's choices (log 8, log 9). Choices of the model that it rests on: log 4,
8, 9, 11. -/
def Obligations.ResetLeavesTheStatedValues : Prop :=
  let s := State.reset
  s.cyc = 0 ∧ s.memWf = true ∧ (∀ a, memGet s.mem a = 0) ∧ (∀ a, s.isFull a = false) ∧
  (∀ j, (s.job j).resident = false ∧ (s.job j).gstate = 0 ∧ (s.job j).gcause = 0 ∧ (s.job j).passes = 0) ∧
  (∀ k, (s.strand k).fault = 0 ∧ (s.strand k).quiet = 0 ∧ (s.strand k).stallCtl = 0 ∧ (s.strand k).region.state = .running ∧
    (s.strand k).region.fault = false ∧ (s.strand k).region.trap = false) ∧
  (∀ e, (s.elem e).fault = 0 ∧ (s.elem e).age.port = 0 ∧ (s.elem e).age.heat = [] ∧ (s.elem e).age.queue = [] ∧
    bitsAt (s.elem e).age.bridle.control.toNat 0 16 = 0xFFFF ∧ bitsAt (s.elem e).age.bridle.control.toNat 16 48 = 0 ∧
    (s.elem e).age.bridle.window = 0 ∧ (s.elem e).age.bridle.admitted = 0 ∧ (s.elem e).wflags = []) ∧
  (∀ q, (s.queue q).valid = false) ∧ (∀ b, (s.barrier b).valid = false) ∧ (∀ r, (s.root r).kind = 0) ∧
  (∀ t, let x : Template := s.templates.look {} t; x.snapshot = 0 ∧ x.trigger = 0 ∧ x.trigValid = false ∧ x.doneQ = 0 ∧ x.doneValid = false ∧
    x.owner = 0 ∧ x.owned = false ∧ x.armed = false ∧ x.firing = false ∧ x.dormant = false ∧ x.count = 0) ∧
  (s.keys.look {} 0).use = 1 ∧ (∀ k, k ≠ 0 → (s.keys.look {} k).use = 0) ∧
  (∀ p, (s.panels.look {} p).state = 0) ∧ (∀ t, s.tiles.look 0 t = 0) ∧ (∀ j, s.roots64.look 0 j = 0) ∧ (∀ w, s.windows.look 0 w = 0) ∧
  (∀ d, s.quotas.look (0, 0) d = (0, 0)) ∧ (∀ m, (s.boxes.look {} m).valid = false ∧ (s.boxes.look {} m).status = 0) ∧
  (∀ r, (s.rings.look {} r).head = 0 ∧ (s.rings.look {} r).tail = 0 ∧ (s.rings.look {} r).pending = false)

/-- R40-R61: the decoder and the encoder of each of the four layers agree. What the encoder writes for a well-formed instruction decodes to that
instruction, with every operand at every value that its fields allow; and a word that decodes is the word that the encoder writes for a well-formed
instruction, so that no two words of a layer mean the same and no bit of an encoding is dropped. -/
def Obligations.DecodingAndEncodingAgree : Prop :=
  (∀ (i : Instr) (w : Nat), i.wf = true → (encodeSeq i = some w → w < 2^32 ∧ decodeSeq w = .ok i) ∧
    (encodeSlot i = some w → w < 2^64 ∧ decodeSlot w = .ok i) ∧ (encodeCmd i = some w → w < 2^128 ∧ decodeCmd w = .ok i) ∧
    (encodeBank i = some w → w < 2^64 ∧ decodeBank w = .ok i)) ∧
  (∀ (i : Instr) (w : Nat), (w < 2^32 → decodeSeq w = .ok i → i.wf = true ∧ encodeSeq i = some w) ∧
    (w < 2^64 → decodeSlot w = .ok i → i.wf = true ∧ encodeSlot i = some w) ∧
    (w < 2^128 → decodeCmd w = .ok i → i.wf = true ∧ encodeCmd i = some w) ∧
    (w < 2^64 → decodeBank w = .ok i → i.wf = true ∧ encodeBank i = some w))

/-- R40-R61: words written out from the encoding tables decode to what they stand for, one or more of each layer, and a word of no row is refused. -/
def Obligations.WordsDecodeAsTheTablesSay : Prop :=
  decodeSeq 0x04221800 = .ok (.add 1 2 3) ∧ decodeSeq 0x6C850008 = .ok (.ldd 4 5 8) ∧ decodeSeq 0xA022FFFF = .ok (.beq 1 2 0xFFFF) ∧
  decodeSeq 0x04642805 = .ok (.div 3 4 5) ∧ decodeSeq 0x40A21234 = .ok (.lih 5 2 0x1234) ∧ decodeSeq 0x44C700C8 = .ok (.bfx 6 7 8 3) ∧
  decodeSeq 0xB820FFFD = .ok (.loopd 1 0xFFFD) ∧ decodeSeq 0x1C1F0006 = .ok (.jr 31) ∧
  decodeSeq 0x14E30001 = .ok (.qpop 7 3) ∧ decodeSeq 0x1C000004 = .ok .halt ∧ decodeSeq 0x1C000200 = .ok (.fence .die) ∧
  decodeSlot 0x1000100100000000 = .ok (.fadd { mod := 0, in0 := 0, in1 := 1, in2 := 0, outmask := 1, tw := 0, imm := 0 }) ∧
  decodeSlot 0x7200000000000000 = .ok (.sink { mod := 0, in0 := 0, in1 := 0, in2 := 0, outmask := 0, tw := 0, imm := 0 }) ∧
  decodeCmd 0x010024000000000F0000000000010000 =
    .ok (.sld1 { fused := 0, size := 2, space := 4, port := 0, reply := 0, count := 15, addr := 0x1000, flags := 0 }) ∧
  decodeBank 0x0800000000000005 = .ok (.brow 5) ∧ decodeBank 0x8000000000000000 = .ok .bend ∧
  (∃ x, decodeSeq 0 = .error x) ∧ (∃ x, decodeSlot 0 = .error x) ∧ (∃ x, decodeCmd 0 = .error x) ∧ (∃ x, decodeBank 0 = .error x)
end

