-- ==== Sys2Proof/Laws/Tab.lean ====
section
/-!
SUPPORT. The laws of the sparse table `Tab`: what a look-up gives after a value is put at a key or a key is deleted.
-/

namespace Sys2Proof

variable {α : Type}

@[simp] theorem Tab.look_nil (d : α) (k : Nat) : Tab.look d [] k = d := rfl
@[simp] theorem Tab.has_nil (k : Nat) : Tab.has ([] : Tab α) k = false := rfl

/-- The value put at a key is what the key then gives. -/
@[simp] theorem Tab.look_put_self (d v : α) (t : Tab α) (k : Nat) : Tab.look d (t.put k v) k = v := by
  induction t with
  | nil => simp [Tab.put, Tab.look]
  | cons x r ih =>
    obtain ⟨j, w⟩ := x
    simp only [Tab.put]
    split
    · simp [Tab.look]
    · split
      · simp [Tab.look]
      · next h1 h2 => simp [Tab.look, ih, Ne.symm h2]

/-- Every other key gives what it gave. -/
theorem Tab.look_put_ne (d v : α) (t : Tab α) {k j : Nat} (h : j ≠ k) : Tab.look d (t.put k v) j = Tab.look d t j := by
  induction t with
  | nil => simp [Tab.put, Tab.look, Ne.symm h]
  | cons x r ih =>
    obtain ⟨i, w⟩ := x
    simp only [Tab.put]
    split
    · simp [Tab.look, Ne.symm h]
    · split
      · next h1 h2 => subst h2; simp [Tab.look, Ne.symm h]
      · simp [Tab.look, ih]

/-- What any key gives after a put. -/
theorem Tab.look_put (d v : α) (t : Tab α) (k j : Nat) :
    Tab.look d (t.put k v) j = if j = k then v else Tab.look d t j := by
  split
  · next h => subst h; simp
  · next h => exact Tab.look_put_ne d v t h

/-- A deleted key gives the default. -/
@[simp] theorem Tab.look_del_self (d : α) (t : Tab α) (k : Nat) : Tab.look d (t.del k) k = d := by
  induction t with
  | nil => rfl
  | cons x r ih =>
    obtain ⟨j, w⟩ := x
    simp only [Tab.del]
    split
    · exact ih
    · next h => simp [Tab.look, h, ih]

/-- Every other key gives what it gave. -/
theorem Tab.look_del_ne (d : α) (t : Tab α) {k j : Nat} (h : j ≠ k) : Tab.look d (t.del k) j = Tab.look d t j := by
  induction t with
  | nil => rfl
  | cons x r ih =>
    obtain ⟨i, w⟩ := x
    simp only [Tab.del]
    split
    · next h1 => subst h1; simp [Tab.look, Ne.symm h, ih]
    · simp [Tab.look, ih]

/-- What any key gives after a deletion. -/
theorem Tab.look_del (d : α) (t : Tab α) (k j : Nat) :
    Tab.look d (t.del k) j = if j = k then d else Tab.look d t j := by
  split
  · next h => subst h; simp
  · next h => exact Tab.look_del_ne d t h

end Sys2Proof
end

