-- ==== Sys2Proof/Laws/State.lean ====
section
/-!
SUPPORT. One lemma per field per update of the state, and the accessors after each update, so that no proof unfolds a record
update. An update that changes a part in place is the replacement of that part.
-/

namespace Sys2Proof.Machine

-- an update in place is a replacement
@[simp] theorem State.updStrand_eq (k : Nat) (f : Strand → Strand) (s : State) :
    State.updStrand k f s = State.setStrand k (f (s.strand k)) s := rfl
@[simp] theorem State.updElem_eq (e : Nat) (f : Elem → Elem) (s : State) :
    State.updElem e f s = State.setElem e (f (s.elem e)) s := rfl
@[simp] theorem State.updAge_eq (e : Nat) (f : Age → Age) (s : State) :
    State.updAge e f s = State.setElem e { s.elem e with age := f (s.elem e).age } s := rfl
@[simp] theorem State.updSelf_eq (f : Strand → Strand) (s : State) :
    State.updSelf f s = State.setStrand s.site.strand (f s.self) s := rfl

-- what an update's own accessor gives
theorem State.strand_setStrand (k : Nat) (v : Strand) (s : State) (j : Nat) :
    (State.setStrand k v s).strand j = if j = k then v else s.strand j := Tab.look_put _ _ _ _ _
theorem State.elem_setElem (k : Nat) (v : Elem) (s : State) (j : Nat) :
    (State.setElem k v s).elem j = if j = k then v else s.elem j := Tab.look_put _ _ _ _ _
theorem State.job_updJob (k : Nat) (f : Job → Job) (s : State) (j : Nat) :
    (State.updJob k f s).job j = if j = k then f (s.job k) else s.job j := Tab.look_put _ _ _ _ _
theorem State.bankAt_updBank (k : Nat) (f : Bank → Bank) (s : State) (j : Nat) :
    (State.updBank k f s).bankAt j = if j = k then f (s.bankAt k) else s.bankAt j := Tab.look_put _ _ _ _ _
theorem State.queue_setQueue (k : Nat) (v : Queue) (s : State) (j : Nat) :
    (State.setQueue k v s).queue j = if j = k then v else s.queue j := Tab.look_put _ _ _ _ _
theorem State.barrier_setBarrier (k : Nat) (v : Barrier) (s : State) (j : Nat) :
    (State.setBarrier k v s).barrier j = if j = k then v else s.barrier j := Tab.look_put _ _ _ _ _
theorem State.root_setRoot (k : Nat) (v : Root) (s : State) (j : Nat) :
    (State.setRoot k v s).root j = if j = k then v else s.root j := Tab.look_put _ _ _ _ _
theorem State.template_updTemplate (k : Nat) (f : Template → Template) (s : State) (j : Nat) :
    (State.updTemplate k f s).template j = if j = k then f (s.template k) else s.template j := Tab.look_put _ _ _ _ _
theorem State.stitch_updStitch (k : Nat) (f : Stitch → Stitch) (s : State) (j : Nat) :
    (State.updStitch k f s).stitch j = if j = k then f (s.stitch k) else s.stitch j := Tab.look_put _ _ _ _ _
@[simp] theorem State.strand_setStrand_self (k : Nat) (v : Strand) (s : State) : (State.setStrand k v s).strand k = v := by
  simp [State.strand_setStrand]
@[simp] theorem State.elem_setElem_self (k : Nat) (v : Elem) (s : State) : (State.setElem k v s).elem k = v := by
  simp [State.elem_setElem]
@[simp] theorem State.queue_setQueue_self (k : Nat) (v : Queue) (s : State) : (State.setQueue k v s).queue k = v := by
  simp [State.queue_setQueue]
@[simp] theorem State.barrier_setBarrier_self (k : Nat) (v : Barrier) (s : State) : (State.setBarrier k v s).barrier k = v := by
  simp [State.barrier_setBarrier]
@[simp] theorem State.root_setRoot_self (k : Nat) (v : Root) (s : State) : (State.setRoot k v s).root k = v := by
  simp [State.root_setRoot]

-- State.setStrand changes `strands` alone
@[simp] theorem State.setStrand_elems (k : Nat) (v : Strand) (s : State) : (State.setStrand k v s).elems = s.elems := rfl
@[simp] theorem State.setStrand_cyc (k : Nat) (v : Strand) (s : State) : (State.setStrand k v s).cyc = s.cyc := rfl
@[simp] theorem State.setStrand_mem (k : Nat) (v : Strand) (s : State) : (State.setStrand k v s).mem = s.mem := rfl
@[simp] theorem State.setStrand_full (k : Nat) (v : Strand) (s : State) : (State.setStrand k v s).full = s.full := rfl
@[simp] theorem State.setStrand_seals (k : Nat) (v : Strand) (s : State) : (State.setStrand k v s).seals = s.seals := rfl
@[simp] theorem State.setStrand_reqs (k : Nat) (v : Strand) (s : State) : (State.setStrand k v s).reqs = s.reqs := rfl
@[simp] theorem State.setStrand_dieLines (k : Nat) (v : Strand) (s : State) : (State.setStrand k v s).dieLines = s.dieLines := rfl
@[simp] theorem State.setStrand_streamLines (k : Nat) (v : Strand) (s : State) : (State.setStrand k v s).streamLines = s.streamLines := rfl
@[simp] theorem State.setStrand_tlbs (k : Nat) (v : Strand) (s : State) : (State.setStrand k v s).tlbs = s.tlbs := rfl
@[simp] theorem State.setStrand_bad (k : Nat) (v : Strand) (s : State) : (State.setStrand k v s).bad = s.bad := rfl
@[simp] theorem State.setStrand_quotas (k : Nat) (v : Strand) (s : State) : (State.setStrand k v s).quotas = s.quotas := rfl
@[simp] theorem State.setStrand_windows (k : Nat) (v : Strand) (s : State) : (State.setStrand k v s).windows = s.windows := rfl
@[simp] theorem State.setStrand_groupLinear (k : Nat) (v : Strand) (s : State) : (State.setStrand k v s).groupLinear = s.groupLinear := rfl
@[simp] theorem State.setStrand_tiles (k : Nat) (v : Strand) (s : State) : (State.setStrand k v s).tiles = s.tiles := rfl
@[simp] theorem State.setStrand_roots64 (k : Nat) (v : Strand) (s : State) : (State.setStrand k v s).roots64 = s.roots64 := rfl
@[simp] theorem State.setStrand_stitches (k : Nat) (v : Strand) (s : State) : (State.setStrand k v s).stitches = s.stitches := rfl
@[simp] theorem State.setStrand_banks (k : Nat) (v : Strand) (s : State) : (State.setStrand k v s).banks = s.banks := rfl
@[simp] theorem State.setStrand_bankResults (k : Nat) (v : Strand) (s : State) : (State.setStrand k v s).bankResults = s.bankResults := rfl
@[simp] theorem State.setStrand_programs (k : Nat) (v : Strand) (s : State) : (State.setStrand k v s).programs = s.programs := rfl
@[simp] theorem State.setStrand_queues (k : Nat) (v : Strand) (s : State) : (State.setStrand k v s).queues = s.queues := rfl
@[simp] theorem State.setStrand_barriers (k : Nat) (v : Strand) (s : State) : (State.setStrand k v s).barriers = s.barriers := rfl
@[simp] theorem State.setStrand_roots (k : Nat) (v : Strand) (s : State) : (State.setStrand k v s).roots = s.roots := rfl
@[simp] theorem State.setStrand_templates (k : Nat) (v : Strand) (s : State) : (State.setStrand k v s).templates = s.templates := rfl
@[simp] theorem State.setStrand_keys (k : Nat) (v : Strand) (s : State) : (State.setStrand k v s).keys = s.keys := rfl
@[simp] theorem State.setStrand_panels (k : Nat) (v : Strand) (s : State) : (State.setStrand k v s).panels = s.panels := rfl
@[simp] theorem State.setStrand_freed (k : Nat) (v : Strand) (s : State) : (State.setStrand k v s).freed = s.freed := rfl
@[simp] theorem State.setStrand_heatOwed (k : Nat) (v : Strand) (s : State) : (State.setStrand k v s).heatOwed = s.heatOwed := rfl
@[simp] theorem State.setStrand_grants (k : Nat) (v : Strand) (s : State) : (State.setStrand k v s).grants = s.grants := rfl
@[simp] theorem State.setStrand_power (k : Nat) (v : Strand) (s : State) : (State.setStrand k v s).power = s.power := rfl
@[simp] theorem State.setStrand_dieTemps (k : Nat) (v : Strand) (s : State) : (State.setStrand k v s).dieTemps = s.dieTemps := rfl
@[simp] theorem State.setStrand_stackTemps (k : Nat) (v : Strand) (s : State) : (State.setStrand k v s).stackTemps = s.stackTemps := rfl
@[simp] theorem State.setStrand_parts (k : Nat) (v : Strand) (s : State) : (State.setStrand k v s).parts = s.parts := rfl
@[simp] theorem State.setStrand_cuts (k : Nat) (v : Strand) (s : State) : (State.setStrand k v s).cuts = s.cuts := rfl
@[simp] theorem State.setStrand_retired (k : Nat) (v : Strand) (s : State) : (State.setStrand k v s).retired = s.retired := rfl
@[simp] theorem State.setStrand_cap (k : Nat) (v : Strand) (s : State) : (State.setStrand k v s).cap = s.cap := rfl
@[simp] theorem State.setStrand_perf (k : Nat) (v : Strand) (s : State) : (State.setStrand k v s).perf = s.perf := rfl
@[simp] theorem State.setStrand_snapAt (k : Nat) (v : Strand) (s : State) : (State.setStrand k v s).snapAt = s.snapAt := rfl
@[simp] theorem State.setStrand_shadow (k : Nat) (v : Strand) (s : State) : (State.setStrand k v s).shadow = s.shadow := rfl
@[simp] theorem State.setStrand_snapNumber (k : Nat) (v : Strand) (s : State) : (State.setStrand k v s).snapNumber = s.snapNumber := rfl
@[simp] theorem State.setStrand_cancelStatus (k : Nat) (v : Strand) (s : State) : (State.setStrand k v s).cancelStatus = s.cancelStatus := rfl
@[simp] theorem State.setStrand_jobs (k : Nat) (v : Strand) (s : State) : (State.setStrand k v s).jobs = s.jobs := rfl
@[simp] theorem State.setStrand_dataAt (k : Nat) (v : Strand) (s : State) : (State.setStrand k v s).dataAt = s.dataAt := rfl
@[simp] theorem State.setStrand_lastPick (k : Nat) (v : Strand) (s : State) : (State.setStrand k v s).lastPick = s.lastPick := rfl
@[simp] theorem State.setStrand_boxes (k : Nat) (v : Strand) (s : State) : (State.setStrand k v s).boxes = s.boxes := rfl
@[simp] theorem State.setStrand_rings (k : Nat) (v : Strand) (s : State) : (State.setStrand k v s).rings = s.rings := rfl
@[simp] theorem State.setStrand_toolRings (k : Nat) (v : Strand) (s : State) : (State.setStrand k v s).toolRings = s.toolRings := rfl
@[simp] theorem State.setStrand_msix (k : Nat) (v : Strand) (s : State) : (State.setStrand k v s).msix = s.msix := rfl
@[simp] theorem State.setStrand_packageGroup (k : Nat) (v : Strand) (s : State) : (State.setStrand k v s).packageGroup = s.packageGroup := rfl
@[simp] theorem State.setStrand_packageIndex (k : Nat) (v : Strand) (s : State) : (State.setStrand k v s).packageIndex = s.packageIndex := rfl
@[simp] theorem State.setStrand_linksDown (k : Nat) (v : Strand) (s : State) : (State.setStrand k v s).linksDown = s.linksDown := rfl
@[simp] theorem State.setStrand_boot (k : Nat) (v : Strand) (s : State) : (State.setStrand k v s).boot = s.boot := rfl
@[simp] theorem State.setStrand_hostAnswer (k : Nat) (v : Strand) (s : State) : (State.setStrand k v s).hostAnswer = s.hostAnswer := rfl
@[simp] theorem State.setStrand_spdmAnswer (k : Nat) (v : Strand) (s : State) : (State.setStrand k v s).spdmAnswer = s.spdmAnswer := rfl
@[simp] theorem State.setStrand_agenda (k : Nat) (v : Strand) (s : State) : (State.setStrand k v s).agenda = s.agenda := rfl
@[simp] theorem State.setStrand_rr (k : Nat) (v : Strand) (s : State) : (State.setStrand k v s).rr = s.rr := rfl
@[simp] theorem State.setStrand_prompt (k : Nat) (v : Strand) (s : State) : (State.setStrand k v s).prompt = s.prompt := rfl
@[simp] theorem State.setStrand_fill (k : Nat) (v : Strand) (s : State) : (State.setStrand k v s).fill = s.fill := rfl
@[simp] theorem State.setStrand_site (k : Nat) (v : Strand) (s : State) : (State.setStrand k v s).site = s.site := rfl
@[simp] theorem State.setStrand_fresh (k : Nat) (v : Strand) (s : State) : (State.setStrand k v s).fresh = s.fresh := rfl

-- State.setElem changes `elems` alone
@[simp] theorem State.setElem_strands (e : Nat) (v : Elem) (s : State) : (State.setElem e v s).strands = s.strands := rfl
@[simp] theorem State.setElem_cyc (e : Nat) (v : Elem) (s : State) : (State.setElem e v s).cyc = s.cyc := rfl
@[simp] theorem State.setElem_mem (e : Nat) (v : Elem) (s : State) : (State.setElem e v s).mem = s.mem := rfl
@[simp] theorem State.setElem_full (e : Nat) (v : Elem) (s : State) : (State.setElem e v s).full = s.full := rfl
@[simp] theorem State.setElem_seals (e : Nat) (v : Elem) (s : State) : (State.setElem e v s).seals = s.seals := rfl
@[simp] theorem State.setElem_reqs (e : Nat) (v : Elem) (s : State) : (State.setElem e v s).reqs = s.reqs := rfl
@[simp] theorem State.setElem_dieLines (e : Nat) (v : Elem) (s : State) : (State.setElem e v s).dieLines = s.dieLines := rfl
@[simp] theorem State.setElem_streamLines (e : Nat) (v : Elem) (s : State) : (State.setElem e v s).streamLines = s.streamLines := rfl
@[simp] theorem State.setElem_tlbs (e : Nat) (v : Elem) (s : State) : (State.setElem e v s).tlbs = s.tlbs := rfl
@[simp] theorem State.setElem_bad (e : Nat) (v : Elem) (s : State) : (State.setElem e v s).bad = s.bad := rfl
@[simp] theorem State.setElem_quotas (e : Nat) (v : Elem) (s : State) : (State.setElem e v s).quotas = s.quotas := rfl
@[simp] theorem State.setElem_windows (e : Nat) (v : Elem) (s : State) : (State.setElem e v s).windows = s.windows := rfl
@[simp] theorem State.setElem_groupLinear (e : Nat) (v : Elem) (s : State) : (State.setElem e v s).groupLinear = s.groupLinear := rfl
@[simp] theorem State.setElem_tiles (e : Nat) (v : Elem) (s : State) : (State.setElem e v s).tiles = s.tiles := rfl
@[simp] theorem State.setElem_roots64 (e : Nat) (v : Elem) (s : State) : (State.setElem e v s).roots64 = s.roots64 := rfl
@[simp] theorem State.setElem_stitches (e : Nat) (v : Elem) (s : State) : (State.setElem e v s).stitches = s.stitches := rfl
@[simp] theorem State.setElem_banks (e : Nat) (v : Elem) (s : State) : (State.setElem e v s).banks = s.banks := rfl
@[simp] theorem State.setElem_bankResults (e : Nat) (v : Elem) (s : State) : (State.setElem e v s).bankResults = s.bankResults := rfl
@[simp] theorem State.setElem_programs (e : Nat) (v : Elem) (s : State) : (State.setElem e v s).programs = s.programs := rfl
@[simp] theorem State.setElem_queues (e : Nat) (v : Elem) (s : State) : (State.setElem e v s).queues = s.queues := rfl
@[simp] theorem State.setElem_barriers (e : Nat) (v : Elem) (s : State) : (State.setElem e v s).barriers = s.barriers := rfl
@[simp] theorem State.setElem_roots (e : Nat) (v : Elem) (s : State) : (State.setElem e v s).roots = s.roots := rfl
@[simp] theorem State.setElem_templates (e : Nat) (v : Elem) (s : State) : (State.setElem e v s).templates = s.templates := rfl
@[simp] theorem State.setElem_keys (e : Nat) (v : Elem) (s : State) : (State.setElem e v s).keys = s.keys := rfl
@[simp] theorem State.setElem_panels (e : Nat) (v : Elem) (s : State) : (State.setElem e v s).panels = s.panels := rfl
@[simp] theorem State.setElem_freed (e : Nat) (v : Elem) (s : State) : (State.setElem e v s).freed = s.freed := rfl
@[simp] theorem State.setElem_heatOwed (e : Nat) (v : Elem) (s : State) : (State.setElem e v s).heatOwed = s.heatOwed := rfl
@[simp] theorem State.setElem_grants (e : Nat) (v : Elem) (s : State) : (State.setElem e v s).grants = s.grants := rfl
@[simp] theorem State.setElem_power (e : Nat) (v : Elem) (s : State) : (State.setElem e v s).power = s.power := rfl
@[simp] theorem State.setElem_dieTemps (e : Nat) (v : Elem) (s : State) : (State.setElem e v s).dieTemps = s.dieTemps := rfl
@[simp] theorem State.setElem_stackTemps (e : Nat) (v : Elem) (s : State) : (State.setElem e v s).stackTemps = s.stackTemps := rfl
@[simp] theorem State.setElem_parts (e : Nat) (v : Elem) (s : State) : (State.setElem e v s).parts = s.parts := rfl
@[simp] theorem State.setElem_cuts (e : Nat) (v : Elem) (s : State) : (State.setElem e v s).cuts = s.cuts := rfl
@[simp] theorem State.setElem_retired (e : Nat) (v : Elem) (s : State) : (State.setElem e v s).retired = s.retired := rfl
@[simp] theorem State.setElem_cap (e : Nat) (v : Elem) (s : State) : (State.setElem e v s).cap = s.cap := rfl
@[simp] theorem State.setElem_perf (e : Nat) (v : Elem) (s : State) : (State.setElem e v s).perf = s.perf := rfl
@[simp] theorem State.setElem_snapAt (e : Nat) (v : Elem) (s : State) : (State.setElem e v s).snapAt = s.snapAt := rfl
@[simp] theorem State.setElem_shadow (e : Nat) (v : Elem) (s : State) : (State.setElem e v s).shadow = s.shadow := rfl
@[simp] theorem State.setElem_snapNumber (e : Nat) (v : Elem) (s : State) : (State.setElem e v s).snapNumber = s.snapNumber := rfl
@[simp] theorem State.setElem_cancelStatus (e : Nat) (v : Elem) (s : State) : (State.setElem e v s).cancelStatus = s.cancelStatus := rfl
@[simp] theorem State.setElem_jobs (e : Nat) (v : Elem) (s : State) : (State.setElem e v s).jobs = s.jobs := rfl
@[simp] theorem State.setElem_dataAt (e : Nat) (v : Elem) (s : State) : (State.setElem e v s).dataAt = s.dataAt := rfl
@[simp] theorem State.setElem_lastPick (e : Nat) (v : Elem) (s : State) : (State.setElem e v s).lastPick = s.lastPick := rfl
@[simp] theorem State.setElem_boxes (e : Nat) (v : Elem) (s : State) : (State.setElem e v s).boxes = s.boxes := rfl
@[simp] theorem State.setElem_rings (e : Nat) (v : Elem) (s : State) : (State.setElem e v s).rings = s.rings := rfl
@[simp] theorem State.setElem_toolRings (e : Nat) (v : Elem) (s : State) : (State.setElem e v s).toolRings = s.toolRings := rfl
@[simp] theorem State.setElem_msix (e : Nat) (v : Elem) (s : State) : (State.setElem e v s).msix = s.msix := rfl
@[simp] theorem State.setElem_packageGroup (e : Nat) (v : Elem) (s : State) : (State.setElem e v s).packageGroup = s.packageGroup := rfl
@[simp] theorem State.setElem_packageIndex (e : Nat) (v : Elem) (s : State) : (State.setElem e v s).packageIndex = s.packageIndex := rfl
@[simp] theorem State.setElem_linksDown (e : Nat) (v : Elem) (s : State) : (State.setElem e v s).linksDown = s.linksDown := rfl
@[simp] theorem State.setElem_boot (e : Nat) (v : Elem) (s : State) : (State.setElem e v s).boot = s.boot := rfl
@[simp] theorem State.setElem_hostAnswer (e : Nat) (v : Elem) (s : State) : (State.setElem e v s).hostAnswer = s.hostAnswer := rfl
@[simp] theorem State.setElem_spdmAnswer (e : Nat) (v : Elem) (s : State) : (State.setElem e v s).spdmAnswer = s.spdmAnswer := rfl
@[simp] theorem State.setElem_agenda (e : Nat) (v : Elem) (s : State) : (State.setElem e v s).agenda = s.agenda := rfl
@[simp] theorem State.setElem_rr (e : Nat) (v : Elem) (s : State) : (State.setElem e v s).rr = s.rr := rfl
@[simp] theorem State.setElem_prompt (e : Nat) (v : Elem) (s : State) : (State.setElem e v s).prompt = s.prompt := rfl
@[simp] theorem State.setElem_fill (e : Nat) (v : Elem) (s : State) : (State.setElem e v s).fill = s.fill := rfl
@[simp] theorem State.setElem_site (e : Nat) (v : Elem) (s : State) : (State.setElem e v s).site = s.site := rfl
@[simp] theorem State.setElem_fresh (e : Nat) (v : Elem) (s : State) : (State.setElem e v s).fresh = s.fresh := rfl

-- State.updJob changes `jobs` alone
@[simp] theorem State.updJob_strands (j : Nat) (f : Job → Job) (s : State) : (State.updJob j f s).strands = s.strands := rfl
@[simp] theorem State.updJob_elems (j : Nat) (f : Job → Job) (s : State) : (State.updJob j f s).elems = s.elems := rfl
@[simp] theorem State.updJob_cyc (j : Nat) (f : Job → Job) (s : State) : (State.updJob j f s).cyc = s.cyc := rfl
@[simp] theorem State.updJob_mem (j : Nat) (f : Job → Job) (s : State) : (State.updJob j f s).mem = s.mem := rfl
@[simp] theorem State.updJob_full (j : Nat) (f : Job → Job) (s : State) : (State.updJob j f s).full = s.full := rfl
@[simp] theorem State.updJob_seals (j : Nat) (f : Job → Job) (s : State) : (State.updJob j f s).seals = s.seals := rfl
@[simp] theorem State.updJob_reqs (j : Nat) (f : Job → Job) (s : State) : (State.updJob j f s).reqs = s.reqs := rfl
@[simp] theorem State.updJob_dieLines (j : Nat) (f : Job → Job) (s : State) : (State.updJob j f s).dieLines = s.dieLines := rfl
@[simp] theorem State.updJob_streamLines (j : Nat) (f : Job → Job) (s : State) : (State.updJob j f s).streamLines = s.streamLines := rfl
@[simp] theorem State.updJob_tlbs (j : Nat) (f : Job → Job) (s : State) : (State.updJob j f s).tlbs = s.tlbs := rfl
@[simp] theorem State.updJob_bad (j : Nat) (f : Job → Job) (s : State) : (State.updJob j f s).bad = s.bad := rfl
@[simp] theorem State.updJob_quotas (j : Nat) (f : Job → Job) (s : State) : (State.updJob j f s).quotas = s.quotas := rfl
@[simp] theorem State.updJob_windows (j : Nat) (f : Job → Job) (s : State) : (State.updJob j f s).windows = s.windows := rfl
@[simp] theorem State.updJob_groupLinear (j : Nat) (f : Job → Job) (s : State) : (State.updJob j f s).groupLinear = s.groupLinear := rfl
@[simp] theorem State.updJob_tiles (j : Nat) (f : Job → Job) (s : State) : (State.updJob j f s).tiles = s.tiles := rfl
@[simp] theorem State.updJob_roots64 (j : Nat) (f : Job → Job) (s : State) : (State.updJob j f s).roots64 = s.roots64 := rfl
@[simp] theorem State.updJob_stitches (j : Nat) (f : Job → Job) (s : State) : (State.updJob j f s).stitches = s.stitches := rfl
@[simp] theorem State.updJob_banks (j : Nat) (f : Job → Job) (s : State) : (State.updJob j f s).banks = s.banks := rfl
@[simp] theorem State.updJob_bankResults (j : Nat) (f : Job → Job) (s : State) : (State.updJob j f s).bankResults = s.bankResults := rfl
@[simp] theorem State.updJob_programs (j : Nat) (f : Job → Job) (s : State) : (State.updJob j f s).programs = s.programs := rfl
@[simp] theorem State.updJob_queues (j : Nat) (f : Job → Job) (s : State) : (State.updJob j f s).queues = s.queues := rfl
@[simp] theorem State.updJob_barriers (j : Nat) (f : Job → Job) (s : State) : (State.updJob j f s).barriers = s.barriers := rfl
@[simp] theorem State.updJob_roots (j : Nat) (f : Job → Job) (s : State) : (State.updJob j f s).roots = s.roots := rfl
@[simp] theorem State.updJob_templates (j : Nat) (f : Job → Job) (s : State) : (State.updJob j f s).templates = s.templates := rfl
@[simp] theorem State.updJob_keys (j : Nat) (f : Job → Job) (s : State) : (State.updJob j f s).keys = s.keys := rfl
@[simp] theorem State.updJob_panels (j : Nat) (f : Job → Job) (s : State) : (State.updJob j f s).panels = s.panels := rfl
@[simp] theorem State.updJob_freed (j : Nat) (f : Job → Job) (s : State) : (State.updJob j f s).freed = s.freed := rfl
@[simp] theorem State.updJob_heatOwed (j : Nat) (f : Job → Job) (s : State) : (State.updJob j f s).heatOwed = s.heatOwed := rfl
@[simp] theorem State.updJob_grants (j : Nat) (f : Job → Job) (s : State) : (State.updJob j f s).grants = s.grants := rfl
@[simp] theorem State.updJob_power (j : Nat) (f : Job → Job) (s : State) : (State.updJob j f s).power = s.power := rfl
@[simp] theorem State.updJob_dieTemps (j : Nat) (f : Job → Job) (s : State) : (State.updJob j f s).dieTemps = s.dieTemps := rfl
@[simp] theorem State.updJob_stackTemps (j : Nat) (f : Job → Job) (s : State) : (State.updJob j f s).stackTemps = s.stackTemps := rfl
@[simp] theorem State.updJob_parts (j : Nat) (f : Job → Job) (s : State) : (State.updJob j f s).parts = s.parts := rfl
@[simp] theorem State.updJob_cuts (j : Nat) (f : Job → Job) (s : State) : (State.updJob j f s).cuts = s.cuts := rfl
@[simp] theorem State.updJob_retired (j : Nat) (f : Job → Job) (s : State) : (State.updJob j f s).retired = s.retired := rfl
@[simp] theorem State.updJob_cap (j : Nat) (f : Job → Job) (s : State) : (State.updJob j f s).cap = s.cap := rfl
@[simp] theorem State.updJob_perf (j : Nat) (f : Job → Job) (s : State) : (State.updJob j f s).perf = s.perf := rfl
@[simp] theorem State.updJob_snapAt (j : Nat) (f : Job → Job) (s : State) : (State.updJob j f s).snapAt = s.snapAt := rfl
@[simp] theorem State.updJob_shadow (j : Nat) (f : Job → Job) (s : State) : (State.updJob j f s).shadow = s.shadow := rfl
@[simp] theorem State.updJob_snapNumber (j : Nat) (f : Job → Job) (s : State) : (State.updJob j f s).snapNumber = s.snapNumber := rfl
@[simp] theorem State.updJob_cancelStatus (j : Nat) (f : Job → Job) (s : State) : (State.updJob j f s).cancelStatus = s.cancelStatus := rfl
@[simp] theorem State.updJob_dataAt (j : Nat) (f : Job → Job) (s : State) : (State.updJob j f s).dataAt = s.dataAt := rfl
@[simp] theorem State.updJob_lastPick (j : Nat) (f : Job → Job) (s : State) : (State.updJob j f s).lastPick = s.lastPick := rfl
@[simp] theorem State.updJob_boxes (j : Nat) (f : Job → Job) (s : State) : (State.updJob j f s).boxes = s.boxes := rfl
@[simp] theorem State.updJob_rings (j : Nat) (f : Job → Job) (s : State) : (State.updJob j f s).rings = s.rings := rfl
@[simp] theorem State.updJob_toolRings (j : Nat) (f : Job → Job) (s : State) : (State.updJob j f s).toolRings = s.toolRings := rfl
@[simp] theorem State.updJob_msix (j : Nat) (f : Job → Job) (s : State) : (State.updJob j f s).msix = s.msix := rfl
@[simp] theorem State.updJob_packageGroup (j : Nat) (f : Job → Job) (s : State) : (State.updJob j f s).packageGroup = s.packageGroup := rfl
@[simp] theorem State.updJob_packageIndex (j : Nat) (f : Job → Job) (s : State) : (State.updJob j f s).packageIndex = s.packageIndex := rfl
@[simp] theorem State.updJob_linksDown (j : Nat) (f : Job → Job) (s : State) : (State.updJob j f s).linksDown = s.linksDown := rfl
@[simp] theorem State.updJob_boot (j : Nat) (f : Job → Job) (s : State) : (State.updJob j f s).boot = s.boot := rfl
@[simp] theorem State.updJob_hostAnswer (j : Nat) (f : Job → Job) (s : State) : (State.updJob j f s).hostAnswer = s.hostAnswer := rfl
@[simp] theorem State.updJob_spdmAnswer (j : Nat) (f : Job → Job) (s : State) : (State.updJob j f s).spdmAnswer = s.spdmAnswer := rfl
@[simp] theorem State.updJob_agenda (j : Nat) (f : Job → Job) (s : State) : (State.updJob j f s).agenda = s.agenda := rfl
@[simp] theorem State.updJob_rr (j : Nat) (f : Job → Job) (s : State) : (State.updJob j f s).rr = s.rr := rfl
@[simp] theorem State.updJob_prompt (j : Nat) (f : Job → Job) (s : State) : (State.updJob j f s).prompt = s.prompt := rfl
@[simp] theorem State.updJob_fill (j : Nat) (f : Job → Job) (s : State) : (State.updJob j f s).fill = s.fill := rfl
@[simp] theorem State.updJob_site (j : Nat) (f : Job → Job) (s : State) : (State.updJob j f s).site = s.site := rfl
@[simp] theorem State.updJob_fresh (j : Nat) (f : Job → Job) (s : State) : (State.updJob j f s).fresh = s.fresh := rfl

-- State.updBank changes `banks` alone
@[simp] theorem State.updBank_strands (b : Nat) (f : Bank → Bank) (s : State) : (State.updBank b f s).strands = s.strands := rfl
@[simp] theorem State.updBank_elems (b : Nat) (f : Bank → Bank) (s : State) : (State.updBank b f s).elems = s.elems := rfl
@[simp] theorem State.updBank_cyc (b : Nat) (f : Bank → Bank) (s : State) : (State.updBank b f s).cyc = s.cyc := rfl
@[simp] theorem State.updBank_mem (b : Nat) (f : Bank → Bank) (s : State) : (State.updBank b f s).mem = s.mem := rfl
@[simp] theorem State.updBank_full (b : Nat) (f : Bank → Bank) (s : State) : (State.updBank b f s).full = s.full := rfl
@[simp] theorem State.updBank_seals (b : Nat) (f : Bank → Bank) (s : State) : (State.updBank b f s).seals = s.seals := rfl
@[simp] theorem State.updBank_reqs (b : Nat) (f : Bank → Bank) (s : State) : (State.updBank b f s).reqs = s.reqs := rfl
@[simp] theorem State.updBank_dieLines (b : Nat) (f : Bank → Bank) (s : State) : (State.updBank b f s).dieLines = s.dieLines := rfl
@[simp] theorem State.updBank_streamLines (b : Nat) (f : Bank → Bank) (s : State) : (State.updBank b f s).streamLines = s.streamLines := rfl
@[simp] theorem State.updBank_tlbs (b : Nat) (f : Bank → Bank) (s : State) : (State.updBank b f s).tlbs = s.tlbs := rfl
@[simp] theorem State.updBank_bad (b : Nat) (f : Bank → Bank) (s : State) : (State.updBank b f s).bad = s.bad := rfl
@[simp] theorem State.updBank_quotas (b : Nat) (f : Bank → Bank) (s : State) : (State.updBank b f s).quotas = s.quotas := rfl
@[simp] theorem State.updBank_windows (b : Nat) (f : Bank → Bank) (s : State) : (State.updBank b f s).windows = s.windows := rfl
@[simp] theorem State.updBank_groupLinear (b : Nat) (f : Bank → Bank) (s : State) : (State.updBank b f s).groupLinear = s.groupLinear := rfl
@[simp] theorem State.updBank_tiles (b : Nat) (f : Bank → Bank) (s : State) : (State.updBank b f s).tiles = s.tiles := rfl
@[simp] theorem State.updBank_roots64 (b : Nat) (f : Bank → Bank) (s : State) : (State.updBank b f s).roots64 = s.roots64 := rfl
@[simp] theorem State.updBank_stitches (b : Nat) (f : Bank → Bank) (s : State) : (State.updBank b f s).stitches = s.stitches := rfl
@[simp] theorem State.updBank_bankResults (b : Nat) (f : Bank → Bank) (s : State) : (State.updBank b f s).bankResults = s.bankResults := rfl
@[simp] theorem State.updBank_programs (b : Nat) (f : Bank → Bank) (s : State) : (State.updBank b f s).programs = s.programs := rfl
@[simp] theorem State.updBank_queues (b : Nat) (f : Bank → Bank) (s : State) : (State.updBank b f s).queues = s.queues := rfl
@[simp] theorem State.updBank_barriers (b : Nat) (f : Bank → Bank) (s : State) : (State.updBank b f s).barriers = s.barriers := rfl
@[simp] theorem State.updBank_roots (b : Nat) (f : Bank → Bank) (s : State) : (State.updBank b f s).roots = s.roots := rfl
@[simp] theorem State.updBank_templates (b : Nat) (f : Bank → Bank) (s : State) : (State.updBank b f s).templates = s.templates := rfl
@[simp] theorem State.updBank_keys (b : Nat) (f : Bank → Bank) (s : State) : (State.updBank b f s).keys = s.keys := rfl
@[simp] theorem State.updBank_panels (b : Nat) (f : Bank → Bank) (s : State) : (State.updBank b f s).panels = s.panels := rfl
@[simp] theorem State.updBank_freed (b : Nat) (f : Bank → Bank) (s : State) : (State.updBank b f s).freed = s.freed := rfl
@[simp] theorem State.updBank_heatOwed (b : Nat) (f : Bank → Bank) (s : State) : (State.updBank b f s).heatOwed = s.heatOwed := rfl
@[simp] theorem State.updBank_grants (b : Nat) (f : Bank → Bank) (s : State) : (State.updBank b f s).grants = s.grants := rfl
@[simp] theorem State.updBank_power (b : Nat) (f : Bank → Bank) (s : State) : (State.updBank b f s).power = s.power := rfl
@[simp] theorem State.updBank_dieTemps (b : Nat) (f : Bank → Bank) (s : State) : (State.updBank b f s).dieTemps = s.dieTemps := rfl
@[simp] theorem State.updBank_stackTemps (b : Nat) (f : Bank → Bank) (s : State) : (State.updBank b f s).stackTemps = s.stackTemps := rfl
@[simp] theorem State.updBank_parts (b : Nat) (f : Bank → Bank) (s : State) : (State.updBank b f s).parts = s.parts := rfl
@[simp] theorem State.updBank_cuts (b : Nat) (f : Bank → Bank) (s : State) : (State.updBank b f s).cuts = s.cuts := rfl
@[simp] theorem State.updBank_retired (b : Nat) (f : Bank → Bank) (s : State) : (State.updBank b f s).retired = s.retired := rfl
@[simp] theorem State.updBank_cap (b : Nat) (f : Bank → Bank) (s : State) : (State.updBank b f s).cap = s.cap := rfl
@[simp] theorem State.updBank_perf (b : Nat) (f : Bank → Bank) (s : State) : (State.updBank b f s).perf = s.perf := rfl
@[simp] theorem State.updBank_snapAt (b : Nat) (f : Bank → Bank) (s : State) : (State.updBank b f s).snapAt = s.snapAt := rfl
@[simp] theorem State.updBank_shadow (b : Nat) (f : Bank → Bank) (s : State) : (State.updBank b f s).shadow = s.shadow := rfl
@[simp] theorem State.updBank_snapNumber (b : Nat) (f : Bank → Bank) (s : State) : (State.updBank b f s).snapNumber = s.snapNumber := rfl
@[simp] theorem State.updBank_cancelStatus (b : Nat) (f : Bank → Bank) (s : State) : (State.updBank b f s).cancelStatus = s.cancelStatus := rfl
@[simp] theorem State.updBank_jobs (b : Nat) (f : Bank → Bank) (s : State) : (State.updBank b f s).jobs = s.jobs := rfl
@[simp] theorem State.updBank_dataAt (b : Nat) (f : Bank → Bank) (s : State) : (State.updBank b f s).dataAt = s.dataAt := rfl
@[simp] theorem State.updBank_lastPick (b : Nat) (f : Bank → Bank) (s : State) : (State.updBank b f s).lastPick = s.lastPick := rfl
@[simp] theorem State.updBank_boxes (b : Nat) (f : Bank → Bank) (s : State) : (State.updBank b f s).boxes = s.boxes := rfl
@[simp] theorem State.updBank_rings (b : Nat) (f : Bank → Bank) (s : State) : (State.updBank b f s).rings = s.rings := rfl
@[simp] theorem State.updBank_toolRings (b : Nat) (f : Bank → Bank) (s : State) : (State.updBank b f s).toolRings = s.toolRings := rfl
@[simp] theorem State.updBank_msix (b : Nat) (f : Bank → Bank) (s : State) : (State.updBank b f s).msix = s.msix := rfl
@[simp] theorem State.updBank_packageGroup (b : Nat) (f : Bank → Bank) (s : State) : (State.updBank b f s).packageGroup = s.packageGroup := rfl
@[simp] theorem State.updBank_packageIndex (b : Nat) (f : Bank → Bank) (s : State) : (State.updBank b f s).packageIndex = s.packageIndex := rfl
@[simp] theorem State.updBank_linksDown (b : Nat) (f : Bank → Bank) (s : State) : (State.updBank b f s).linksDown = s.linksDown := rfl
@[simp] theorem State.updBank_boot (b : Nat) (f : Bank → Bank) (s : State) : (State.updBank b f s).boot = s.boot := rfl
@[simp] theorem State.updBank_hostAnswer (b : Nat) (f : Bank → Bank) (s : State) : (State.updBank b f s).hostAnswer = s.hostAnswer := rfl
@[simp] theorem State.updBank_spdmAnswer (b : Nat) (f : Bank → Bank) (s : State) : (State.updBank b f s).spdmAnswer = s.spdmAnswer := rfl
@[simp] theorem State.updBank_agenda (b : Nat) (f : Bank → Bank) (s : State) : (State.updBank b f s).agenda = s.agenda := rfl
@[simp] theorem State.updBank_rr (b : Nat) (f : Bank → Bank) (s : State) : (State.updBank b f s).rr = s.rr := rfl
@[simp] theorem State.updBank_prompt (b : Nat) (f : Bank → Bank) (s : State) : (State.updBank b f s).prompt = s.prompt := rfl
@[simp] theorem State.updBank_fill (b : Nat) (f : Bank → Bank) (s : State) : (State.updBank b f s).fill = s.fill := rfl
@[simp] theorem State.updBank_site (b : Nat) (f : Bank → Bank) (s : State) : (State.updBank b f s).site = s.site := rfl
@[simp] theorem State.updBank_fresh (b : Nat) (f : Bank → Bank) (s : State) : (State.updBank b f s).fresh = s.fresh := rfl

-- State.setQueue changes `queues` alone
@[simp] theorem State.setQueue_strands (q : Nat) (v : Queue) (s : State) : (State.setQueue q v s).strands = s.strands := rfl
@[simp] theorem State.setQueue_elems (q : Nat) (v : Queue) (s : State) : (State.setQueue q v s).elems = s.elems := rfl
@[simp] theorem State.setQueue_cyc (q : Nat) (v : Queue) (s : State) : (State.setQueue q v s).cyc = s.cyc := rfl
@[simp] theorem State.setQueue_mem (q : Nat) (v : Queue) (s : State) : (State.setQueue q v s).mem = s.mem := rfl
@[simp] theorem State.setQueue_full (q : Nat) (v : Queue) (s : State) : (State.setQueue q v s).full = s.full := rfl
@[simp] theorem State.setQueue_seals (q : Nat) (v : Queue) (s : State) : (State.setQueue q v s).seals = s.seals := rfl
@[simp] theorem State.setQueue_reqs (q : Nat) (v : Queue) (s : State) : (State.setQueue q v s).reqs = s.reqs := rfl
@[simp] theorem State.setQueue_dieLines (q : Nat) (v : Queue) (s : State) : (State.setQueue q v s).dieLines = s.dieLines := rfl
@[simp] theorem State.setQueue_streamLines (q : Nat) (v : Queue) (s : State) : (State.setQueue q v s).streamLines = s.streamLines := rfl
@[simp] theorem State.setQueue_tlbs (q : Nat) (v : Queue) (s : State) : (State.setQueue q v s).tlbs = s.tlbs := rfl
@[simp] theorem State.setQueue_bad (q : Nat) (v : Queue) (s : State) : (State.setQueue q v s).bad = s.bad := rfl
@[simp] theorem State.setQueue_quotas (q : Nat) (v : Queue) (s : State) : (State.setQueue q v s).quotas = s.quotas := rfl
@[simp] theorem State.setQueue_windows (q : Nat) (v : Queue) (s : State) : (State.setQueue q v s).windows = s.windows := rfl
@[simp] theorem State.setQueue_groupLinear (q : Nat) (v : Queue) (s : State) : (State.setQueue q v s).groupLinear = s.groupLinear := rfl
@[simp] theorem State.setQueue_tiles (q : Nat) (v : Queue) (s : State) : (State.setQueue q v s).tiles = s.tiles := rfl
@[simp] theorem State.setQueue_roots64 (q : Nat) (v : Queue) (s : State) : (State.setQueue q v s).roots64 = s.roots64 := rfl
@[simp] theorem State.setQueue_stitches (q : Nat) (v : Queue) (s : State) : (State.setQueue q v s).stitches = s.stitches := rfl
@[simp] theorem State.setQueue_banks (q : Nat) (v : Queue) (s : State) : (State.setQueue q v s).banks = s.banks := rfl
@[simp] theorem State.setQueue_bankResults (q : Nat) (v : Queue) (s : State) : (State.setQueue q v s).bankResults = s.bankResults := rfl
@[simp] theorem State.setQueue_programs (q : Nat) (v : Queue) (s : State) : (State.setQueue q v s).programs = s.programs := rfl
@[simp] theorem State.setQueue_barriers (q : Nat) (v : Queue) (s : State) : (State.setQueue q v s).barriers = s.barriers := rfl
@[simp] theorem State.setQueue_roots (q : Nat) (v : Queue) (s : State) : (State.setQueue q v s).roots = s.roots := rfl
@[simp] theorem State.setQueue_templates (q : Nat) (v : Queue) (s : State) : (State.setQueue q v s).templates = s.templates := rfl
@[simp] theorem State.setQueue_keys (q : Nat) (v : Queue) (s : State) : (State.setQueue q v s).keys = s.keys := rfl
@[simp] theorem State.setQueue_panels (q : Nat) (v : Queue) (s : State) : (State.setQueue q v s).panels = s.panels := rfl
@[simp] theorem State.setQueue_freed (q : Nat) (v : Queue) (s : State) : (State.setQueue q v s).freed = s.freed := rfl
@[simp] theorem State.setQueue_heatOwed (q : Nat) (v : Queue) (s : State) : (State.setQueue q v s).heatOwed = s.heatOwed := rfl
@[simp] theorem State.setQueue_grants (q : Nat) (v : Queue) (s : State) : (State.setQueue q v s).grants = s.grants := rfl
@[simp] theorem State.setQueue_power (q : Nat) (v : Queue) (s : State) : (State.setQueue q v s).power = s.power := rfl
@[simp] theorem State.setQueue_dieTemps (q : Nat) (v : Queue) (s : State) : (State.setQueue q v s).dieTemps = s.dieTemps := rfl
@[simp] theorem State.setQueue_stackTemps (q : Nat) (v : Queue) (s : State) : (State.setQueue q v s).stackTemps = s.stackTemps := rfl
@[simp] theorem State.setQueue_parts (q : Nat) (v : Queue) (s : State) : (State.setQueue q v s).parts = s.parts := rfl
@[simp] theorem State.setQueue_cuts (q : Nat) (v : Queue) (s : State) : (State.setQueue q v s).cuts = s.cuts := rfl
@[simp] theorem State.setQueue_retired (q : Nat) (v : Queue) (s : State) : (State.setQueue q v s).retired = s.retired := rfl
@[simp] theorem State.setQueue_cap (q : Nat) (v : Queue) (s : State) : (State.setQueue q v s).cap = s.cap := rfl
@[simp] theorem State.setQueue_perf (q : Nat) (v : Queue) (s : State) : (State.setQueue q v s).perf = s.perf := rfl
@[simp] theorem State.setQueue_snapAt (q : Nat) (v : Queue) (s : State) : (State.setQueue q v s).snapAt = s.snapAt := rfl
@[simp] theorem State.setQueue_shadow (q : Nat) (v : Queue) (s : State) : (State.setQueue q v s).shadow = s.shadow := rfl
@[simp] theorem State.setQueue_snapNumber (q : Nat) (v : Queue) (s : State) : (State.setQueue q v s).snapNumber = s.snapNumber := rfl
@[simp] theorem State.setQueue_cancelStatus (q : Nat) (v : Queue) (s : State) : (State.setQueue q v s).cancelStatus = s.cancelStatus := rfl
@[simp] theorem State.setQueue_jobs (q : Nat) (v : Queue) (s : State) : (State.setQueue q v s).jobs = s.jobs := rfl
@[simp] theorem State.setQueue_dataAt (q : Nat) (v : Queue) (s : State) : (State.setQueue q v s).dataAt = s.dataAt := rfl
@[simp] theorem State.setQueue_lastPick (q : Nat) (v : Queue) (s : State) : (State.setQueue q v s).lastPick = s.lastPick := rfl
@[simp] theorem State.setQueue_boxes (q : Nat) (v : Queue) (s : State) : (State.setQueue q v s).boxes = s.boxes := rfl
@[simp] theorem State.setQueue_rings (q : Nat) (v : Queue) (s : State) : (State.setQueue q v s).rings = s.rings := rfl
@[simp] theorem State.setQueue_toolRings (q : Nat) (v : Queue) (s : State) : (State.setQueue q v s).toolRings = s.toolRings := rfl
@[simp] theorem State.setQueue_msix (q : Nat) (v : Queue) (s : State) : (State.setQueue q v s).msix = s.msix := rfl
@[simp] theorem State.setQueue_packageGroup (q : Nat) (v : Queue) (s : State) : (State.setQueue q v s).packageGroup = s.packageGroup := rfl
@[simp] theorem State.setQueue_packageIndex (q : Nat) (v : Queue) (s : State) : (State.setQueue q v s).packageIndex = s.packageIndex := rfl
@[simp] theorem State.setQueue_linksDown (q : Nat) (v : Queue) (s : State) : (State.setQueue q v s).linksDown = s.linksDown := rfl
@[simp] theorem State.setQueue_boot (q : Nat) (v : Queue) (s : State) : (State.setQueue q v s).boot = s.boot := rfl
@[simp] theorem State.setQueue_hostAnswer (q : Nat) (v : Queue) (s : State) : (State.setQueue q v s).hostAnswer = s.hostAnswer := rfl
@[simp] theorem State.setQueue_spdmAnswer (q : Nat) (v : Queue) (s : State) : (State.setQueue q v s).spdmAnswer = s.spdmAnswer := rfl
@[simp] theorem State.setQueue_agenda (q : Nat) (v : Queue) (s : State) : (State.setQueue q v s).agenda = s.agenda := rfl
@[simp] theorem State.setQueue_rr (q : Nat) (v : Queue) (s : State) : (State.setQueue q v s).rr = s.rr := rfl
@[simp] theorem State.setQueue_prompt (q : Nat) (v : Queue) (s : State) : (State.setQueue q v s).prompt = s.prompt := rfl
@[simp] theorem State.setQueue_fill (q : Nat) (v : Queue) (s : State) : (State.setQueue q v s).fill = s.fill := rfl
@[simp] theorem State.setQueue_site (q : Nat) (v : Queue) (s : State) : (State.setQueue q v s).site = s.site := rfl
@[simp] theorem State.setQueue_fresh (q : Nat) (v : Queue) (s : State) : (State.setQueue q v s).fresh = s.fresh := rfl

-- State.setBarrier changes `barriers` alone
@[simp] theorem State.setBarrier_strands (b : Nat) (v : Barrier) (s : State) : (State.setBarrier b v s).strands = s.strands := rfl
@[simp] theorem State.setBarrier_elems (b : Nat) (v : Barrier) (s : State) : (State.setBarrier b v s).elems = s.elems := rfl
@[simp] theorem State.setBarrier_cyc (b : Nat) (v : Barrier) (s : State) : (State.setBarrier b v s).cyc = s.cyc := rfl
@[simp] theorem State.setBarrier_mem (b : Nat) (v : Barrier) (s : State) : (State.setBarrier b v s).mem = s.mem := rfl
@[simp] theorem State.setBarrier_full (b : Nat) (v : Barrier) (s : State) : (State.setBarrier b v s).full = s.full := rfl
@[simp] theorem State.setBarrier_seals (b : Nat) (v : Barrier) (s : State) : (State.setBarrier b v s).seals = s.seals := rfl
@[simp] theorem State.setBarrier_reqs (b : Nat) (v : Barrier) (s : State) : (State.setBarrier b v s).reqs = s.reqs := rfl
@[simp] theorem State.setBarrier_dieLines (b : Nat) (v : Barrier) (s : State) : (State.setBarrier b v s).dieLines = s.dieLines := rfl
@[simp] theorem State.setBarrier_streamLines (b : Nat) (v : Barrier) (s : State) : (State.setBarrier b v s).streamLines = s.streamLines := rfl
@[simp] theorem State.setBarrier_tlbs (b : Nat) (v : Barrier) (s : State) : (State.setBarrier b v s).tlbs = s.tlbs := rfl
@[simp] theorem State.setBarrier_bad (b : Nat) (v : Barrier) (s : State) : (State.setBarrier b v s).bad = s.bad := rfl
@[simp] theorem State.setBarrier_quotas (b : Nat) (v : Barrier) (s : State) : (State.setBarrier b v s).quotas = s.quotas := rfl
@[simp] theorem State.setBarrier_windows (b : Nat) (v : Barrier) (s : State) : (State.setBarrier b v s).windows = s.windows := rfl
@[simp] theorem State.setBarrier_groupLinear (b : Nat) (v : Barrier) (s : State) : (State.setBarrier b v s).groupLinear = s.groupLinear := rfl
@[simp] theorem State.setBarrier_tiles (b : Nat) (v : Barrier) (s : State) : (State.setBarrier b v s).tiles = s.tiles := rfl
@[simp] theorem State.setBarrier_roots64 (b : Nat) (v : Barrier) (s : State) : (State.setBarrier b v s).roots64 = s.roots64 := rfl
@[simp] theorem State.setBarrier_stitches (b : Nat) (v : Barrier) (s : State) : (State.setBarrier b v s).stitches = s.stitches := rfl
@[simp] theorem State.setBarrier_banks (b : Nat) (v : Barrier) (s : State) : (State.setBarrier b v s).banks = s.banks := rfl
@[simp] theorem State.setBarrier_bankResults (b : Nat) (v : Barrier) (s : State) : (State.setBarrier b v s).bankResults = s.bankResults := rfl
@[simp] theorem State.setBarrier_programs (b : Nat) (v : Barrier) (s : State) : (State.setBarrier b v s).programs = s.programs := rfl
@[simp] theorem State.setBarrier_queues (b : Nat) (v : Barrier) (s : State) : (State.setBarrier b v s).queues = s.queues := rfl
@[simp] theorem State.setBarrier_roots (b : Nat) (v : Barrier) (s : State) : (State.setBarrier b v s).roots = s.roots := rfl
@[simp] theorem State.setBarrier_templates (b : Nat) (v : Barrier) (s : State) : (State.setBarrier b v s).templates = s.templates := rfl
@[simp] theorem State.setBarrier_keys (b : Nat) (v : Barrier) (s : State) : (State.setBarrier b v s).keys = s.keys := rfl
@[simp] theorem State.setBarrier_panels (b : Nat) (v : Barrier) (s : State) : (State.setBarrier b v s).panels = s.panels := rfl
@[simp] theorem State.setBarrier_freed (b : Nat) (v : Barrier) (s : State) : (State.setBarrier b v s).freed = s.freed := rfl
@[simp] theorem State.setBarrier_heatOwed (b : Nat) (v : Barrier) (s : State) : (State.setBarrier b v s).heatOwed = s.heatOwed := rfl
@[simp] theorem State.setBarrier_grants (b : Nat) (v : Barrier) (s : State) : (State.setBarrier b v s).grants = s.grants := rfl
@[simp] theorem State.setBarrier_power (b : Nat) (v : Barrier) (s : State) : (State.setBarrier b v s).power = s.power := rfl
@[simp] theorem State.setBarrier_dieTemps (b : Nat) (v : Barrier) (s : State) : (State.setBarrier b v s).dieTemps = s.dieTemps := rfl
@[simp] theorem State.setBarrier_stackTemps (b : Nat) (v : Barrier) (s : State) : (State.setBarrier b v s).stackTemps = s.stackTemps := rfl
@[simp] theorem State.setBarrier_parts (b : Nat) (v : Barrier) (s : State) : (State.setBarrier b v s).parts = s.parts := rfl
@[simp] theorem State.setBarrier_cuts (b : Nat) (v : Barrier) (s : State) : (State.setBarrier b v s).cuts = s.cuts := rfl
@[simp] theorem State.setBarrier_retired (b : Nat) (v : Barrier) (s : State) : (State.setBarrier b v s).retired = s.retired := rfl
@[simp] theorem State.setBarrier_cap (b : Nat) (v : Barrier) (s : State) : (State.setBarrier b v s).cap = s.cap := rfl
@[simp] theorem State.setBarrier_perf (b : Nat) (v : Barrier) (s : State) : (State.setBarrier b v s).perf = s.perf := rfl
@[simp] theorem State.setBarrier_snapAt (b : Nat) (v : Barrier) (s : State) : (State.setBarrier b v s).snapAt = s.snapAt := rfl
@[simp] theorem State.setBarrier_shadow (b : Nat) (v : Barrier) (s : State) : (State.setBarrier b v s).shadow = s.shadow := rfl
@[simp] theorem State.setBarrier_snapNumber (b : Nat) (v : Barrier) (s : State) : (State.setBarrier b v s).snapNumber = s.snapNumber := rfl
@[simp] theorem State.setBarrier_cancelStatus (b : Nat) (v : Barrier) (s : State) : (State.setBarrier b v s).cancelStatus = s.cancelStatus := rfl
@[simp] theorem State.setBarrier_jobs (b : Nat) (v : Barrier) (s : State) : (State.setBarrier b v s).jobs = s.jobs := rfl
@[simp] theorem State.setBarrier_dataAt (b : Nat) (v : Barrier) (s : State) : (State.setBarrier b v s).dataAt = s.dataAt := rfl
@[simp] theorem State.setBarrier_lastPick (b : Nat) (v : Barrier) (s : State) : (State.setBarrier b v s).lastPick = s.lastPick := rfl
@[simp] theorem State.setBarrier_boxes (b : Nat) (v : Barrier) (s : State) : (State.setBarrier b v s).boxes = s.boxes := rfl
@[simp] theorem State.setBarrier_rings (b : Nat) (v : Barrier) (s : State) : (State.setBarrier b v s).rings = s.rings := rfl
@[simp] theorem State.setBarrier_toolRings (b : Nat) (v : Barrier) (s : State) : (State.setBarrier b v s).toolRings = s.toolRings := rfl
@[simp] theorem State.setBarrier_msix (b : Nat) (v : Barrier) (s : State) : (State.setBarrier b v s).msix = s.msix := rfl
@[simp] theorem State.setBarrier_packageGroup (b : Nat) (v : Barrier) (s : State) : (State.setBarrier b v s).packageGroup = s.packageGroup := rfl
@[simp] theorem State.setBarrier_packageIndex (b : Nat) (v : Barrier) (s : State) : (State.setBarrier b v s).packageIndex = s.packageIndex := rfl
@[simp] theorem State.setBarrier_linksDown (b : Nat) (v : Barrier) (s : State) : (State.setBarrier b v s).linksDown = s.linksDown := rfl
@[simp] theorem State.setBarrier_boot (b : Nat) (v : Barrier) (s : State) : (State.setBarrier b v s).boot = s.boot := rfl
@[simp] theorem State.setBarrier_hostAnswer (b : Nat) (v : Barrier) (s : State) : (State.setBarrier b v s).hostAnswer = s.hostAnswer := rfl
@[simp] theorem State.setBarrier_spdmAnswer (b : Nat) (v : Barrier) (s : State) : (State.setBarrier b v s).spdmAnswer = s.spdmAnswer := rfl
@[simp] theorem State.setBarrier_agenda (b : Nat) (v : Barrier) (s : State) : (State.setBarrier b v s).agenda = s.agenda := rfl
@[simp] theorem State.setBarrier_rr (b : Nat) (v : Barrier) (s : State) : (State.setBarrier b v s).rr = s.rr := rfl
@[simp] theorem State.setBarrier_prompt (b : Nat) (v : Barrier) (s : State) : (State.setBarrier b v s).prompt = s.prompt := rfl
@[simp] theorem State.setBarrier_fill (b : Nat) (v : Barrier) (s : State) : (State.setBarrier b v s).fill = s.fill := rfl
@[simp] theorem State.setBarrier_site (b : Nat) (v : Barrier) (s : State) : (State.setBarrier b v s).site = s.site := rfl
@[simp] theorem State.setBarrier_fresh (b : Nat) (v : Barrier) (s : State) : (State.setBarrier b v s).fresh = s.fresh := rfl

-- State.setRoot changes `roots` alone
@[simp] theorem State.setRoot_strands (r : Nat) (v : Root) (s : State) : (State.setRoot r v s).strands = s.strands := rfl
@[simp] theorem State.setRoot_elems (r : Nat) (v : Root) (s : State) : (State.setRoot r v s).elems = s.elems := rfl
@[simp] theorem State.setRoot_cyc (r : Nat) (v : Root) (s : State) : (State.setRoot r v s).cyc = s.cyc := rfl
@[simp] theorem State.setRoot_mem (r : Nat) (v : Root) (s : State) : (State.setRoot r v s).mem = s.mem := rfl
@[simp] theorem State.setRoot_full (r : Nat) (v : Root) (s : State) : (State.setRoot r v s).full = s.full := rfl
@[simp] theorem State.setRoot_seals (r : Nat) (v : Root) (s : State) : (State.setRoot r v s).seals = s.seals := rfl
@[simp] theorem State.setRoot_reqs (r : Nat) (v : Root) (s : State) : (State.setRoot r v s).reqs = s.reqs := rfl
@[simp] theorem State.setRoot_dieLines (r : Nat) (v : Root) (s : State) : (State.setRoot r v s).dieLines = s.dieLines := rfl
@[simp] theorem State.setRoot_streamLines (r : Nat) (v : Root) (s : State) : (State.setRoot r v s).streamLines = s.streamLines := rfl
@[simp] theorem State.setRoot_tlbs (r : Nat) (v : Root) (s : State) : (State.setRoot r v s).tlbs = s.tlbs := rfl
@[simp] theorem State.setRoot_bad (r : Nat) (v : Root) (s : State) : (State.setRoot r v s).bad = s.bad := rfl
@[simp] theorem State.setRoot_quotas (r : Nat) (v : Root) (s : State) : (State.setRoot r v s).quotas = s.quotas := rfl
@[simp] theorem State.setRoot_windows (r : Nat) (v : Root) (s : State) : (State.setRoot r v s).windows = s.windows := rfl
@[simp] theorem State.setRoot_groupLinear (r : Nat) (v : Root) (s : State) : (State.setRoot r v s).groupLinear = s.groupLinear := rfl
@[simp] theorem State.setRoot_tiles (r : Nat) (v : Root) (s : State) : (State.setRoot r v s).tiles = s.tiles := rfl
@[simp] theorem State.setRoot_roots64 (r : Nat) (v : Root) (s : State) : (State.setRoot r v s).roots64 = s.roots64 := rfl
@[simp] theorem State.setRoot_stitches (r : Nat) (v : Root) (s : State) : (State.setRoot r v s).stitches = s.stitches := rfl
@[simp] theorem State.setRoot_banks (r : Nat) (v : Root) (s : State) : (State.setRoot r v s).banks = s.banks := rfl
@[simp] theorem State.setRoot_bankResults (r : Nat) (v : Root) (s : State) : (State.setRoot r v s).bankResults = s.bankResults := rfl
@[simp] theorem State.setRoot_programs (r : Nat) (v : Root) (s : State) : (State.setRoot r v s).programs = s.programs := rfl
@[simp] theorem State.setRoot_queues (r : Nat) (v : Root) (s : State) : (State.setRoot r v s).queues = s.queues := rfl
@[simp] theorem State.setRoot_barriers (r : Nat) (v : Root) (s : State) : (State.setRoot r v s).barriers = s.barriers := rfl
@[simp] theorem State.setRoot_templates (r : Nat) (v : Root) (s : State) : (State.setRoot r v s).templates = s.templates := rfl
@[simp] theorem State.setRoot_keys (r : Nat) (v : Root) (s : State) : (State.setRoot r v s).keys = s.keys := rfl
@[simp] theorem State.setRoot_panels (r : Nat) (v : Root) (s : State) : (State.setRoot r v s).panels = s.panels := rfl
@[simp] theorem State.setRoot_freed (r : Nat) (v : Root) (s : State) : (State.setRoot r v s).freed = s.freed := rfl
@[simp] theorem State.setRoot_heatOwed (r : Nat) (v : Root) (s : State) : (State.setRoot r v s).heatOwed = s.heatOwed := rfl
@[simp] theorem State.setRoot_grants (r : Nat) (v : Root) (s : State) : (State.setRoot r v s).grants = s.grants := rfl
@[simp] theorem State.setRoot_power (r : Nat) (v : Root) (s : State) : (State.setRoot r v s).power = s.power := rfl
@[simp] theorem State.setRoot_dieTemps (r : Nat) (v : Root) (s : State) : (State.setRoot r v s).dieTemps = s.dieTemps := rfl
@[simp] theorem State.setRoot_stackTemps (r : Nat) (v : Root) (s : State) : (State.setRoot r v s).stackTemps = s.stackTemps := rfl
@[simp] theorem State.setRoot_parts (r : Nat) (v : Root) (s : State) : (State.setRoot r v s).parts = s.parts := rfl
@[simp] theorem State.setRoot_cuts (r : Nat) (v : Root) (s : State) : (State.setRoot r v s).cuts = s.cuts := rfl
@[simp] theorem State.setRoot_retired (r : Nat) (v : Root) (s : State) : (State.setRoot r v s).retired = s.retired := rfl
@[simp] theorem State.setRoot_cap (r : Nat) (v : Root) (s : State) : (State.setRoot r v s).cap = s.cap := rfl
@[simp] theorem State.setRoot_perf (r : Nat) (v : Root) (s : State) : (State.setRoot r v s).perf = s.perf := rfl
@[simp] theorem State.setRoot_snapAt (r : Nat) (v : Root) (s : State) : (State.setRoot r v s).snapAt = s.snapAt := rfl
@[simp] theorem State.setRoot_shadow (r : Nat) (v : Root) (s : State) : (State.setRoot r v s).shadow = s.shadow := rfl
@[simp] theorem State.setRoot_snapNumber (r : Nat) (v : Root) (s : State) : (State.setRoot r v s).snapNumber = s.snapNumber := rfl
@[simp] theorem State.setRoot_cancelStatus (r : Nat) (v : Root) (s : State) : (State.setRoot r v s).cancelStatus = s.cancelStatus := rfl
@[simp] theorem State.setRoot_jobs (r : Nat) (v : Root) (s : State) : (State.setRoot r v s).jobs = s.jobs := rfl
@[simp] theorem State.setRoot_dataAt (r : Nat) (v : Root) (s : State) : (State.setRoot r v s).dataAt = s.dataAt := rfl
@[simp] theorem State.setRoot_lastPick (r : Nat) (v : Root) (s : State) : (State.setRoot r v s).lastPick = s.lastPick := rfl
@[simp] theorem State.setRoot_boxes (r : Nat) (v : Root) (s : State) : (State.setRoot r v s).boxes = s.boxes := rfl
@[simp] theorem State.setRoot_rings (r : Nat) (v : Root) (s : State) : (State.setRoot r v s).rings = s.rings := rfl
@[simp] theorem State.setRoot_toolRings (r : Nat) (v : Root) (s : State) : (State.setRoot r v s).toolRings = s.toolRings := rfl
@[simp] theorem State.setRoot_msix (r : Nat) (v : Root) (s : State) : (State.setRoot r v s).msix = s.msix := rfl
@[simp] theorem State.setRoot_packageGroup (r : Nat) (v : Root) (s : State) : (State.setRoot r v s).packageGroup = s.packageGroup := rfl
@[simp] theorem State.setRoot_packageIndex (r : Nat) (v : Root) (s : State) : (State.setRoot r v s).packageIndex = s.packageIndex := rfl
@[simp] theorem State.setRoot_linksDown (r : Nat) (v : Root) (s : State) : (State.setRoot r v s).linksDown = s.linksDown := rfl
@[simp] theorem State.setRoot_boot (r : Nat) (v : Root) (s : State) : (State.setRoot r v s).boot = s.boot := rfl
@[simp] theorem State.setRoot_hostAnswer (r : Nat) (v : Root) (s : State) : (State.setRoot r v s).hostAnswer = s.hostAnswer := rfl
@[simp] theorem State.setRoot_spdmAnswer (r : Nat) (v : Root) (s : State) : (State.setRoot r v s).spdmAnswer = s.spdmAnswer := rfl
@[simp] theorem State.setRoot_agenda (r : Nat) (v : Root) (s : State) : (State.setRoot r v s).agenda = s.agenda := rfl
@[simp] theorem State.setRoot_rr (r : Nat) (v : Root) (s : State) : (State.setRoot r v s).rr = s.rr := rfl
@[simp] theorem State.setRoot_prompt (r : Nat) (v : Root) (s : State) : (State.setRoot r v s).prompt = s.prompt := rfl
@[simp] theorem State.setRoot_fill (r : Nat) (v : Root) (s : State) : (State.setRoot r v s).fill = s.fill := rfl
@[simp] theorem State.setRoot_site (r : Nat) (v : Root) (s : State) : (State.setRoot r v s).site = s.site := rfl
@[simp] theorem State.setRoot_fresh (r : Nat) (v : Root) (s : State) : (State.setRoot r v s).fresh = s.fresh := rfl

-- State.updTemplate changes `templates` alone
@[simp] theorem State.updTemplate_strands (t : Nat) (f : Template → Template) (s : State) : (State.updTemplate t f s).strands = s.strands := rfl
@[simp] theorem State.updTemplate_elems (t : Nat) (f : Template → Template) (s : State) : (State.updTemplate t f s).elems = s.elems := rfl
@[simp] theorem State.updTemplate_cyc (t : Nat) (f : Template → Template) (s : State) : (State.updTemplate t f s).cyc = s.cyc := rfl
@[simp] theorem State.updTemplate_mem (t : Nat) (f : Template → Template) (s : State) : (State.updTemplate t f s).mem = s.mem := rfl
@[simp] theorem State.updTemplate_full (t : Nat) (f : Template → Template) (s : State) : (State.updTemplate t f s).full = s.full := rfl
@[simp] theorem State.updTemplate_seals (t : Nat) (f : Template → Template) (s : State) : (State.updTemplate t f s).seals = s.seals := rfl
@[simp] theorem State.updTemplate_reqs (t : Nat) (f : Template → Template) (s : State) : (State.updTemplate t f s).reqs = s.reqs := rfl
@[simp] theorem State.updTemplate_dieLines (t : Nat) (f : Template → Template) (s : State) : (State.updTemplate t f s).dieLines = s.dieLines := rfl
@[simp] theorem State.updTemplate_streamLines (t : Nat) (f : Template → Template) (s : State) : (State.updTemplate t f s).streamLines = s.streamLines := rfl
@[simp] theorem State.updTemplate_tlbs (t : Nat) (f : Template → Template) (s : State) : (State.updTemplate t f s).tlbs = s.tlbs := rfl
@[simp] theorem State.updTemplate_bad (t : Nat) (f : Template → Template) (s : State) : (State.updTemplate t f s).bad = s.bad := rfl
@[simp] theorem State.updTemplate_quotas (t : Nat) (f : Template → Template) (s : State) : (State.updTemplate t f s).quotas = s.quotas := rfl
@[simp] theorem State.updTemplate_windows (t : Nat) (f : Template → Template) (s : State) : (State.updTemplate t f s).windows = s.windows := rfl
@[simp] theorem State.updTemplate_groupLinear (t : Nat) (f : Template → Template) (s : State) : (State.updTemplate t f s).groupLinear = s.groupLinear := rfl
@[simp] theorem State.updTemplate_tiles (t : Nat) (f : Template → Template) (s : State) : (State.updTemplate t f s).tiles = s.tiles := rfl
@[simp] theorem State.updTemplate_roots64 (t : Nat) (f : Template → Template) (s : State) : (State.updTemplate t f s).roots64 = s.roots64 := rfl
@[simp] theorem State.updTemplate_stitches (t : Nat) (f : Template → Template) (s : State) : (State.updTemplate t f s).stitches = s.stitches := rfl
@[simp] theorem State.updTemplate_banks (t : Nat) (f : Template → Template) (s : State) : (State.updTemplate t f s).banks = s.banks := rfl
@[simp] theorem State.updTemplate_bankResults (t : Nat) (f : Template → Template) (s : State) : (State.updTemplate t f s).bankResults = s.bankResults := rfl
@[simp] theorem State.updTemplate_programs (t : Nat) (f : Template → Template) (s : State) : (State.updTemplate t f s).programs = s.programs := rfl
@[simp] theorem State.updTemplate_queues (t : Nat) (f : Template → Template) (s : State) : (State.updTemplate t f s).queues = s.queues := rfl
@[simp] theorem State.updTemplate_barriers (t : Nat) (f : Template → Template) (s : State) : (State.updTemplate t f s).barriers = s.barriers := rfl
@[simp] theorem State.updTemplate_roots (t : Nat) (f : Template → Template) (s : State) : (State.updTemplate t f s).roots = s.roots := rfl
@[simp] theorem State.updTemplate_keys (t : Nat) (f : Template → Template) (s : State) : (State.updTemplate t f s).keys = s.keys := rfl
@[simp] theorem State.updTemplate_panels (t : Nat) (f : Template → Template) (s : State) : (State.updTemplate t f s).panels = s.panels := rfl
@[simp] theorem State.updTemplate_freed (t : Nat) (f : Template → Template) (s : State) : (State.updTemplate t f s).freed = s.freed := rfl
@[simp] theorem State.updTemplate_heatOwed (t : Nat) (f : Template → Template) (s : State) : (State.updTemplate t f s).heatOwed = s.heatOwed := rfl
@[simp] theorem State.updTemplate_grants (t : Nat) (f : Template → Template) (s : State) : (State.updTemplate t f s).grants = s.grants := rfl
@[simp] theorem State.updTemplate_power (t : Nat) (f : Template → Template) (s : State) : (State.updTemplate t f s).power = s.power := rfl
@[simp] theorem State.updTemplate_dieTemps (t : Nat) (f : Template → Template) (s : State) : (State.updTemplate t f s).dieTemps = s.dieTemps := rfl
@[simp] theorem State.updTemplate_stackTemps (t : Nat) (f : Template → Template) (s : State) : (State.updTemplate t f s).stackTemps = s.stackTemps := rfl
@[simp] theorem State.updTemplate_parts (t : Nat) (f : Template → Template) (s : State) : (State.updTemplate t f s).parts = s.parts := rfl
@[simp] theorem State.updTemplate_cuts (t : Nat) (f : Template → Template) (s : State) : (State.updTemplate t f s).cuts = s.cuts := rfl
@[simp] theorem State.updTemplate_retired (t : Nat) (f : Template → Template) (s : State) : (State.updTemplate t f s).retired = s.retired := rfl
@[simp] theorem State.updTemplate_cap (t : Nat) (f : Template → Template) (s : State) : (State.updTemplate t f s).cap = s.cap := rfl
@[simp] theorem State.updTemplate_perf (t : Nat) (f : Template → Template) (s : State) : (State.updTemplate t f s).perf = s.perf := rfl
@[simp] theorem State.updTemplate_snapAt (t : Nat) (f : Template → Template) (s : State) : (State.updTemplate t f s).snapAt = s.snapAt := rfl
@[simp] theorem State.updTemplate_shadow (t : Nat) (f : Template → Template) (s : State) : (State.updTemplate t f s).shadow = s.shadow := rfl
@[simp] theorem State.updTemplate_snapNumber (t : Nat) (f : Template → Template) (s : State) : (State.updTemplate t f s).snapNumber = s.snapNumber := rfl
@[simp] theorem State.updTemplate_cancelStatus (t : Nat) (f : Template → Template) (s : State) : (State.updTemplate t f s).cancelStatus = s.cancelStatus := rfl
@[simp] theorem State.updTemplate_jobs (t : Nat) (f : Template → Template) (s : State) : (State.updTemplate t f s).jobs = s.jobs := rfl
@[simp] theorem State.updTemplate_dataAt (t : Nat) (f : Template → Template) (s : State) : (State.updTemplate t f s).dataAt = s.dataAt := rfl
@[simp] theorem State.updTemplate_lastPick (t : Nat) (f : Template → Template) (s : State) : (State.updTemplate t f s).lastPick = s.lastPick := rfl
@[simp] theorem State.updTemplate_boxes (t : Nat) (f : Template → Template) (s : State) : (State.updTemplate t f s).boxes = s.boxes := rfl
@[simp] theorem State.updTemplate_rings (t : Nat) (f : Template → Template) (s : State) : (State.updTemplate t f s).rings = s.rings := rfl
@[simp] theorem State.updTemplate_toolRings (t : Nat) (f : Template → Template) (s : State) : (State.updTemplate t f s).toolRings = s.toolRings := rfl
@[simp] theorem State.updTemplate_msix (t : Nat) (f : Template → Template) (s : State) : (State.updTemplate t f s).msix = s.msix := rfl
@[simp] theorem State.updTemplate_packageGroup (t : Nat) (f : Template → Template) (s : State) : (State.updTemplate t f s).packageGroup = s.packageGroup := rfl
@[simp] theorem State.updTemplate_packageIndex (t : Nat) (f : Template → Template) (s : State) : (State.updTemplate t f s).packageIndex = s.packageIndex := rfl
@[simp] theorem State.updTemplate_linksDown (t : Nat) (f : Template → Template) (s : State) : (State.updTemplate t f s).linksDown = s.linksDown := rfl
@[simp] theorem State.updTemplate_boot (t : Nat) (f : Template → Template) (s : State) : (State.updTemplate t f s).boot = s.boot := rfl
@[simp] theorem State.updTemplate_hostAnswer (t : Nat) (f : Template → Template) (s : State) : (State.updTemplate t f s).hostAnswer = s.hostAnswer := rfl
@[simp] theorem State.updTemplate_spdmAnswer (t : Nat) (f : Template → Template) (s : State) : (State.updTemplate t f s).spdmAnswer = s.spdmAnswer := rfl
@[simp] theorem State.updTemplate_agenda (t : Nat) (f : Template → Template) (s : State) : (State.updTemplate t f s).agenda = s.agenda := rfl
@[simp] theorem State.updTemplate_rr (t : Nat) (f : Template → Template) (s : State) : (State.updTemplate t f s).rr = s.rr := rfl
@[simp] theorem State.updTemplate_prompt (t : Nat) (f : Template → Template) (s : State) : (State.updTemplate t f s).prompt = s.prompt := rfl
@[simp] theorem State.updTemplate_fill (t : Nat) (f : Template → Template) (s : State) : (State.updTemplate t f s).fill = s.fill := rfl
@[simp] theorem State.updTemplate_site (t : Nat) (f : Template → Template) (s : State) : (State.updTemplate t f s).site = s.site := rfl
@[simp] theorem State.updTemplate_fresh (t : Nat) (f : Template → Template) (s : State) : (State.updTemplate t f s).fresh = s.fresh := rfl

-- State.updStitch changes `stitches` alone
@[simp] theorem State.updStitch_strands (u : Nat) (f : Stitch → Stitch) (s : State) : (State.updStitch u f s).strands = s.strands := rfl
@[simp] theorem State.updStitch_elems (u : Nat) (f : Stitch → Stitch) (s : State) : (State.updStitch u f s).elems = s.elems := rfl
@[simp] theorem State.updStitch_cyc (u : Nat) (f : Stitch → Stitch) (s : State) : (State.updStitch u f s).cyc = s.cyc := rfl
@[simp] theorem State.updStitch_mem (u : Nat) (f : Stitch → Stitch) (s : State) : (State.updStitch u f s).mem = s.mem := rfl
@[simp] theorem State.updStitch_full (u : Nat) (f : Stitch → Stitch) (s : State) : (State.updStitch u f s).full = s.full := rfl
@[simp] theorem State.updStitch_seals (u : Nat) (f : Stitch → Stitch) (s : State) : (State.updStitch u f s).seals = s.seals := rfl
@[simp] theorem State.updStitch_reqs (u : Nat) (f : Stitch → Stitch) (s : State) : (State.updStitch u f s).reqs = s.reqs := rfl
@[simp] theorem State.updStitch_dieLines (u : Nat) (f : Stitch → Stitch) (s : State) : (State.updStitch u f s).dieLines = s.dieLines := rfl
@[simp] theorem State.updStitch_streamLines (u : Nat) (f : Stitch → Stitch) (s : State) : (State.updStitch u f s).streamLines = s.streamLines := rfl
@[simp] theorem State.updStitch_tlbs (u : Nat) (f : Stitch → Stitch) (s : State) : (State.updStitch u f s).tlbs = s.tlbs := rfl
@[simp] theorem State.updStitch_bad (u : Nat) (f : Stitch → Stitch) (s : State) : (State.updStitch u f s).bad = s.bad := rfl
@[simp] theorem State.updStitch_quotas (u : Nat) (f : Stitch → Stitch) (s : State) : (State.updStitch u f s).quotas = s.quotas := rfl
@[simp] theorem State.updStitch_windows (u : Nat) (f : Stitch → Stitch) (s : State) : (State.updStitch u f s).windows = s.windows := rfl
@[simp] theorem State.updStitch_groupLinear (u : Nat) (f : Stitch → Stitch) (s : State) : (State.updStitch u f s).groupLinear = s.groupLinear := rfl
@[simp] theorem State.updStitch_tiles (u : Nat) (f : Stitch → Stitch) (s : State) : (State.updStitch u f s).tiles = s.tiles := rfl
@[simp] theorem State.updStitch_roots64 (u : Nat) (f : Stitch → Stitch) (s : State) : (State.updStitch u f s).roots64 = s.roots64 := rfl
@[simp] theorem State.updStitch_banks (u : Nat) (f : Stitch → Stitch) (s : State) : (State.updStitch u f s).banks = s.banks := rfl
@[simp] theorem State.updStitch_bankResults (u : Nat) (f : Stitch → Stitch) (s : State) : (State.updStitch u f s).bankResults = s.bankResults := rfl
@[simp] theorem State.updStitch_programs (u : Nat) (f : Stitch → Stitch) (s : State) : (State.updStitch u f s).programs = s.programs := rfl
@[simp] theorem State.updStitch_queues (u : Nat) (f : Stitch → Stitch) (s : State) : (State.updStitch u f s).queues = s.queues := rfl
@[simp] theorem State.updStitch_barriers (u : Nat) (f : Stitch → Stitch) (s : State) : (State.updStitch u f s).barriers = s.barriers := rfl
@[simp] theorem State.updStitch_roots (u : Nat) (f : Stitch → Stitch) (s : State) : (State.updStitch u f s).roots = s.roots := rfl
@[simp] theorem State.updStitch_templates (u : Nat) (f : Stitch → Stitch) (s : State) : (State.updStitch u f s).templates = s.templates := rfl
@[simp] theorem State.updStitch_keys (u : Nat) (f : Stitch → Stitch) (s : State) : (State.updStitch u f s).keys = s.keys := rfl
@[simp] theorem State.updStitch_panels (u : Nat) (f : Stitch → Stitch) (s : State) : (State.updStitch u f s).panels = s.panels := rfl
@[simp] theorem State.updStitch_freed (u : Nat) (f : Stitch → Stitch) (s : State) : (State.updStitch u f s).freed = s.freed := rfl
@[simp] theorem State.updStitch_heatOwed (u : Nat) (f : Stitch → Stitch) (s : State) : (State.updStitch u f s).heatOwed = s.heatOwed := rfl
@[simp] theorem State.updStitch_grants (u : Nat) (f : Stitch → Stitch) (s : State) : (State.updStitch u f s).grants = s.grants := rfl
@[simp] theorem State.updStitch_power (u : Nat) (f : Stitch → Stitch) (s : State) : (State.updStitch u f s).power = s.power := rfl
@[simp] theorem State.updStitch_dieTemps (u : Nat) (f : Stitch → Stitch) (s : State) : (State.updStitch u f s).dieTemps = s.dieTemps := rfl
@[simp] theorem State.updStitch_stackTemps (u : Nat) (f : Stitch → Stitch) (s : State) : (State.updStitch u f s).stackTemps = s.stackTemps := rfl
@[simp] theorem State.updStitch_parts (u : Nat) (f : Stitch → Stitch) (s : State) : (State.updStitch u f s).parts = s.parts := rfl
@[simp] theorem State.updStitch_cuts (u : Nat) (f : Stitch → Stitch) (s : State) : (State.updStitch u f s).cuts = s.cuts := rfl
@[simp] theorem State.updStitch_retired (u : Nat) (f : Stitch → Stitch) (s : State) : (State.updStitch u f s).retired = s.retired := rfl
@[simp] theorem State.updStitch_cap (u : Nat) (f : Stitch → Stitch) (s : State) : (State.updStitch u f s).cap = s.cap := rfl
@[simp] theorem State.updStitch_perf (u : Nat) (f : Stitch → Stitch) (s : State) : (State.updStitch u f s).perf = s.perf := rfl
@[simp] theorem State.updStitch_snapAt (u : Nat) (f : Stitch → Stitch) (s : State) : (State.updStitch u f s).snapAt = s.snapAt := rfl
@[simp] theorem State.updStitch_shadow (u : Nat) (f : Stitch → Stitch) (s : State) : (State.updStitch u f s).shadow = s.shadow := rfl
@[simp] theorem State.updStitch_snapNumber (u : Nat) (f : Stitch → Stitch) (s : State) : (State.updStitch u f s).snapNumber = s.snapNumber := rfl
@[simp] theorem State.updStitch_cancelStatus (u : Nat) (f : Stitch → Stitch) (s : State) : (State.updStitch u f s).cancelStatus = s.cancelStatus := rfl
@[simp] theorem State.updStitch_jobs (u : Nat) (f : Stitch → Stitch) (s : State) : (State.updStitch u f s).jobs = s.jobs := rfl
@[simp] theorem State.updStitch_dataAt (u : Nat) (f : Stitch → Stitch) (s : State) : (State.updStitch u f s).dataAt = s.dataAt := rfl
@[simp] theorem State.updStitch_lastPick (u : Nat) (f : Stitch → Stitch) (s : State) : (State.updStitch u f s).lastPick = s.lastPick := rfl
@[simp] theorem State.updStitch_boxes (u : Nat) (f : Stitch → Stitch) (s : State) : (State.updStitch u f s).boxes = s.boxes := rfl
@[simp] theorem State.updStitch_rings (u : Nat) (f : Stitch → Stitch) (s : State) : (State.updStitch u f s).rings = s.rings := rfl
@[simp] theorem State.updStitch_toolRings (u : Nat) (f : Stitch → Stitch) (s : State) : (State.updStitch u f s).toolRings = s.toolRings := rfl
@[simp] theorem State.updStitch_msix (u : Nat) (f : Stitch → Stitch) (s : State) : (State.updStitch u f s).msix = s.msix := rfl
@[simp] theorem State.updStitch_packageGroup (u : Nat) (f : Stitch → Stitch) (s : State) : (State.updStitch u f s).packageGroup = s.packageGroup := rfl
@[simp] theorem State.updStitch_packageIndex (u : Nat) (f : Stitch → Stitch) (s : State) : (State.updStitch u f s).packageIndex = s.packageIndex := rfl
@[simp] theorem State.updStitch_linksDown (u : Nat) (f : Stitch → Stitch) (s : State) : (State.updStitch u f s).linksDown = s.linksDown := rfl
@[simp] theorem State.updStitch_boot (u : Nat) (f : Stitch → Stitch) (s : State) : (State.updStitch u f s).boot = s.boot := rfl
@[simp] theorem State.updStitch_hostAnswer (u : Nat) (f : Stitch → Stitch) (s : State) : (State.updStitch u f s).hostAnswer = s.hostAnswer := rfl
@[simp] theorem State.updStitch_spdmAnswer (u : Nat) (f : Stitch → Stitch) (s : State) : (State.updStitch u f s).spdmAnswer = s.spdmAnswer := rfl
@[simp] theorem State.updStitch_agenda (u : Nat) (f : Stitch → Stitch) (s : State) : (State.updStitch u f s).agenda = s.agenda := rfl
@[simp] theorem State.updStitch_rr (u : Nat) (f : Stitch → Stitch) (s : State) : (State.updStitch u f s).rr = s.rr := rfl
@[simp] theorem State.updStitch_prompt (u : Nat) (f : Stitch → Stitch) (s : State) : (State.updStitch u f s).prompt = s.prompt := rfl
@[simp] theorem State.updStitch_fill (u : Nat) (f : Stitch → Stitch) (s : State) : (State.updStitch u f s).fill = s.fill := rfl
@[simp] theorem State.updStitch_site (u : Nat) (f : Stitch → Stitch) (s : State) : (State.updStitch u f s).site = s.site := rfl
@[simp] theorem State.updStitch_fresh (u : Nat) (f : Stitch → Stitch) (s : State) : (State.updStitch u f s).fresh = s.fresh := rfl

-- State.poke changes `mem` alone
@[simp] theorem State.poke_strands (a n v : Nat) (s : State) : (State.poke a n v s).strands = s.strands := rfl
@[simp] theorem State.poke_elems (a n v : Nat) (s : State) : (State.poke a n v s).elems = s.elems := rfl
@[simp] theorem State.poke_cyc (a n v : Nat) (s : State) : (State.poke a n v s).cyc = s.cyc := rfl
@[simp] theorem State.poke_full (a n v : Nat) (s : State) : (State.poke a n v s).full = s.full := rfl
@[simp] theorem State.poke_seals (a n v : Nat) (s : State) : (State.poke a n v s).seals = s.seals := rfl
@[simp] theorem State.poke_reqs (a n v : Nat) (s : State) : (State.poke a n v s).reqs = s.reqs := rfl
@[simp] theorem State.poke_dieLines (a n v : Nat) (s : State) : (State.poke a n v s).dieLines = s.dieLines := rfl
@[simp] theorem State.poke_streamLines (a n v : Nat) (s : State) : (State.poke a n v s).streamLines = s.streamLines := rfl
@[simp] theorem State.poke_tlbs (a n v : Nat) (s : State) : (State.poke a n v s).tlbs = s.tlbs := rfl
@[simp] theorem State.poke_bad (a n v : Nat) (s : State) : (State.poke a n v s).bad = s.bad := rfl
@[simp] theorem State.poke_quotas (a n v : Nat) (s : State) : (State.poke a n v s).quotas = s.quotas := rfl
@[simp] theorem State.poke_windows (a n v : Nat) (s : State) : (State.poke a n v s).windows = s.windows := rfl
@[simp] theorem State.poke_groupLinear (a n v : Nat) (s : State) : (State.poke a n v s).groupLinear = s.groupLinear := rfl
@[simp] theorem State.poke_tiles (a n v : Nat) (s : State) : (State.poke a n v s).tiles = s.tiles := rfl
@[simp] theorem State.poke_roots64 (a n v : Nat) (s : State) : (State.poke a n v s).roots64 = s.roots64 := rfl
@[simp] theorem State.poke_stitches (a n v : Nat) (s : State) : (State.poke a n v s).stitches = s.stitches := rfl
@[simp] theorem State.poke_banks (a n v : Nat) (s : State) : (State.poke a n v s).banks = s.banks := rfl
@[simp] theorem State.poke_bankResults (a n v : Nat) (s : State) : (State.poke a n v s).bankResults = s.bankResults := rfl
@[simp] theorem State.poke_programs (a n v : Nat) (s : State) : (State.poke a n v s).programs = s.programs := rfl
@[simp] theorem State.poke_queues (a n v : Nat) (s : State) : (State.poke a n v s).queues = s.queues := rfl
@[simp] theorem State.poke_barriers (a n v : Nat) (s : State) : (State.poke a n v s).barriers = s.barriers := rfl
@[simp] theorem State.poke_roots (a n v : Nat) (s : State) : (State.poke a n v s).roots = s.roots := rfl
@[simp] theorem State.poke_templates (a n v : Nat) (s : State) : (State.poke a n v s).templates = s.templates := rfl
@[simp] theorem State.poke_keys (a n v : Nat) (s : State) : (State.poke a n v s).keys = s.keys := rfl
@[simp] theorem State.poke_panels (a n v : Nat) (s : State) : (State.poke a n v s).panels = s.panels := rfl
@[simp] theorem State.poke_freed (a n v : Nat) (s : State) : (State.poke a n v s).freed = s.freed := rfl
@[simp] theorem State.poke_heatOwed (a n v : Nat) (s : State) : (State.poke a n v s).heatOwed = s.heatOwed := rfl
@[simp] theorem State.poke_grants (a n v : Nat) (s : State) : (State.poke a n v s).grants = s.grants := rfl
@[simp] theorem State.poke_power (a n v : Nat) (s : State) : (State.poke a n v s).power = s.power := rfl
@[simp] theorem State.poke_dieTemps (a n v : Nat) (s : State) : (State.poke a n v s).dieTemps = s.dieTemps := rfl
@[simp] theorem State.poke_stackTemps (a n v : Nat) (s : State) : (State.poke a n v s).stackTemps = s.stackTemps := rfl
@[simp] theorem State.poke_parts (a n v : Nat) (s : State) : (State.poke a n v s).parts = s.parts := rfl
@[simp] theorem State.poke_cuts (a n v : Nat) (s : State) : (State.poke a n v s).cuts = s.cuts := rfl
@[simp] theorem State.poke_retired (a n v : Nat) (s : State) : (State.poke a n v s).retired = s.retired := rfl
@[simp] theorem State.poke_cap (a n v : Nat) (s : State) : (State.poke a n v s).cap = s.cap := rfl
@[simp] theorem State.poke_perf (a n v : Nat) (s : State) : (State.poke a n v s).perf = s.perf := rfl
@[simp] theorem State.poke_snapAt (a n v : Nat) (s : State) : (State.poke a n v s).snapAt = s.snapAt := rfl
@[simp] theorem State.poke_shadow (a n v : Nat) (s : State) : (State.poke a n v s).shadow = s.shadow := rfl
@[simp] theorem State.poke_snapNumber (a n v : Nat) (s : State) : (State.poke a n v s).snapNumber = s.snapNumber := rfl
@[simp] theorem State.poke_cancelStatus (a n v : Nat) (s : State) : (State.poke a n v s).cancelStatus = s.cancelStatus := rfl
@[simp] theorem State.poke_jobs (a n v : Nat) (s : State) : (State.poke a n v s).jobs = s.jobs := rfl
@[simp] theorem State.poke_dataAt (a n v : Nat) (s : State) : (State.poke a n v s).dataAt = s.dataAt := rfl
@[simp] theorem State.poke_lastPick (a n v : Nat) (s : State) : (State.poke a n v s).lastPick = s.lastPick := rfl
@[simp] theorem State.poke_boxes (a n v : Nat) (s : State) : (State.poke a n v s).boxes = s.boxes := rfl
@[simp] theorem State.poke_rings (a n v : Nat) (s : State) : (State.poke a n v s).rings = s.rings := rfl
@[simp] theorem State.poke_toolRings (a n v : Nat) (s : State) : (State.poke a n v s).toolRings = s.toolRings := rfl
@[simp] theorem State.poke_msix (a n v : Nat) (s : State) : (State.poke a n v s).msix = s.msix := rfl
@[simp] theorem State.poke_packageGroup (a n v : Nat) (s : State) : (State.poke a n v s).packageGroup = s.packageGroup := rfl
@[simp] theorem State.poke_packageIndex (a n v : Nat) (s : State) : (State.poke a n v s).packageIndex = s.packageIndex := rfl
@[simp] theorem State.poke_linksDown (a n v : Nat) (s : State) : (State.poke a n v s).linksDown = s.linksDown := rfl
@[simp] theorem State.poke_boot (a n v : Nat) (s : State) : (State.poke a n v s).boot = s.boot := rfl
@[simp] theorem State.poke_hostAnswer (a n v : Nat) (s : State) : (State.poke a n v s).hostAnswer = s.hostAnswer := rfl
@[simp] theorem State.poke_spdmAnswer (a n v : Nat) (s : State) : (State.poke a n v s).spdmAnswer = s.spdmAnswer := rfl
@[simp] theorem State.poke_agenda (a n v : Nat) (s : State) : (State.poke a n v s).agenda = s.agenda := rfl
@[simp] theorem State.poke_rr (a n v : Nat) (s : State) : (State.poke a n v s).rr = s.rr := rfl
@[simp] theorem State.poke_prompt (a n v : Nat) (s : State) : (State.poke a n v s).prompt = s.prompt := rfl
@[simp] theorem State.poke_fill (a n v : Nat) (s : State) : (State.poke a n v s).fill = s.fill := rfl
@[simp] theorem State.poke_site (a n v : Nat) (s : State) : (State.poke a n v s).site = s.site := rfl
@[simp] theorem State.poke_fresh (a n v : Nat) (s : State) : (State.poke a n v s).fresh = s.fresh := rfl

-- State.setFull changes `full` alone
@[simp] theorem State.setFull_strands (a : Nat) (v : Bool) (s : State) : (State.setFull a v s).strands = s.strands := rfl
@[simp] theorem State.setFull_elems (a : Nat) (v : Bool) (s : State) : (State.setFull a v s).elems = s.elems := rfl
@[simp] theorem State.setFull_cyc (a : Nat) (v : Bool) (s : State) : (State.setFull a v s).cyc = s.cyc := rfl
@[simp] theorem State.setFull_mem (a : Nat) (v : Bool) (s : State) : (State.setFull a v s).mem = s.mem := rfl
@[simp] theorem State.setFull_seals (a : Nat) (v : Bool) (s : State) : (State.setFull a v s).seals = s.seals := rfl
@[simp] theorem State.setFull_reqs (a : Nat) (v : Bool) (s : State) : (State.setFull a v s).reqs = s.reqs := rfl
@[simp] theorem State.setFull_dieLines (a : Nat) (v : Bool) (s : State) : (State.setFull a v s).dieLines = s.dieLines := rfl
@[simp] theorem State.setFull_streamLines (a : Nat) (v : Bool) (s : State) : (State.setFull a v s).streamLines = s.streamLines := rfl
@[simp] theorem State.setFull_tlbs (a : Nat) (v : Bool) (s : State) : (State.setFull a v s).tlbs = s.tlbs := rfl
@[simp] theorem State.setFull_bad (a : Nat) (v : Bool) (s : State) : (State.setFull a v s).bad = s.bad := rfl
@[simp] theorem State.setFull_quotas (a : Nat) (v : Bool) (s : State) : (State.setFull a v s).quotas = s.quotas := rfl
@[simp] theorem State.setFull_windows (a : Nat) (v : Bool) (s : State) : (State.setFull a v s).windows = s.windows := rfl
@[simp] theorem State.setFull_groupLinear (a : Nat) (v : Bool) (s : State) : (State.setFull a v s).groupLinear = s.groupLinear := rfl
@[simp] theorem State.setFull_tiles (a : Nat) (v : Bool) (s : State) : (State.setFull a v s).tiles = s.tiles := rfl
@[simp] theorem State.setFull_roots64 (a : Nat) (v : Bool) (s : State) : (State.setFull a v s).roots64 = s.roots64 := rfl
@[simp] theorem State.setFull_stitches (a : Nat) (v : Bool) (s : State) : (State.setFull a v s).stitches = s.stitches := rfl
@[simp] theorem State.setFull_banks (a : Nat) (v : Bool) (s : State) : (State.setFull a v s).banks = s.banks := rfl
@[simp] theorem State.setFull_bankResults (a : Nat) (v : Bool) (s : State) : (State.setFull a v s).bankResults = s.bankResults := rfl
@[simp] theorem State.setFull_programs (a : Nat) (v : Bool) (s : State) : (State.setFull a v s).programs = s.programs := rfl
@[simp] theorem State.setFull_queues (a : Nat) (v : Bool) (s : State) : (State.setFull a v s).queues = s.queues := rfl
@[simp] theorem State.setFull_barriers (a : Nat) (v : Bool) (s : State) : (State.setFull a v s).barriers = s.barriers := rfl
@[simp] theorem State.setFull_roots (a : Nat) (v : Bool) (s : State) : (State.setFull a v s).roots = s.roots := rfl
@[simp] theorem State.setFull_templates (a : Nat) (v : Bool) (s : State) : (State.setFull a v s).templates = s.templates := rfl
@[simp] theorem State.setFull_keys (a : Nat) (v : Bool) (s : State) : (State.setFull a v s).keys = s.keys := rfl
@[simp] theorem State.setFull_panels (a : Nat) (v : Bool) (s : State) : (State.setFull a v s).panels = s.panels := rfl
@[simp] theorem State.setFull_freed (a : Nat) (v : Bool) (s : State) : (State.setFull a v s).freed = s.freed := rfl
@[simp] theorem State.setFull_heatOwed (a : Nat) (v : Bool) (s : State) : (State.setFull a v s).heatOwed = s.heatOwed := rfl
@[simp] theorem State.setFull_grants (a : Nat) (v : Bool) (s : State) : (State.setFull a v s).grants = s.grants := rfl
@[simp] theorem State.setFull_power (a : Nat) (v : Bool) (s : State) : (State.setFull a v s).power = s.power := rfl
@[simp] theorem State.setFull_dieTemps (a : Nat) (v : Bool) (s : State) : (State.setFull a v s).dieTemps = s.dieTemps := rfl
@[simp] theorem State.setFull_stackTemps (a : Nat) (v : Bool) (s : State) : (State.setFull a v s).stackTemps = s.stackTemps := rfl
@[simp] theorem State.setFull_parts (a : Nat) (v : Bool) (s : State) : (State.setFull a v s).parts = s.parts := rfl
@[simp] theorem State.setFull_cuts (a : Nat) (v : Bool) (s : State) : (State.setFull a v s).cuts = s.cuts := rfl
@[simp] theorem State.setFull_retired (a : Nat) (v : Bool) (s : State) : (State.setFull a v s).retired = s.retired := rfl
@[simp] theorem State.setFull_cap (a : Nat) (v : Bool) (s : State) : (State.setFull a v s).cap = s.cap := rfl
@[simp] theorem State.setFull_perf (a : Nat) (v : Bool) (s : State) : (State.setFull a v s).perf = s.perf := rfl
@[simp] theorem State.setFull_snapAt (a : Nat) (v : Bool) (s : State) : (State.setFull a v s).snapAt = s.snapAt := rfl
@[simp] theorem State.setFull_shadow (a : Nat) (v : Bool) (s : State) : (State.setFull a v s).shadow = s.shadow := rfl
@[simp] theorem State.setFull_snapNumber (a : Nat) (v : Bool) (s : State) : (State.setFull a v s).snapNumber = s.snapNumber := rfl
@[simp] theorem State.setFull_cancelStatus (a : Nat) (v : Bool) (s : State) : (State.setFull a v s).cancelStatus = s.cancelStatus := rfl
@[simp] theorem State.setFull_jobs (a : Nat) (v : Bool) (s : State) : (State.setFull a v s).jobs = s.jobs := rfl
@[simp] theorem State.setFull_dataAt (a : Nat) (v : Bool) (s : State) : (State.setFull a v s).dataAt = s.dataAt := rfl
@[simp] theorem State.setFull_lastPick (a : Nat) (v : Bool) (s : State) : (State.setFull a v s).lastPick = s.lastPick := rfl
@[simp] theorem State.setFull_boxes (a : Nat) (v : Bool) (s : State) : (State.setFull a v s).boxes = s.boxes := rfl
@[simp] theorem State.setFull_rings (a : Nat) (v : Bool) (s : State) : (State.setFull a v s).rings = s.rings := rfl
@[simp] theorem State.setFull_toolRings (a : Nat) (v : Bool) (s : State) : (State.setFull a v s).toolRings = s.toolRings := rfl
@[simp] theorem State.setFull_msix (a : Nat) (v : Bool) (s : State) : (State.setFull a v s).msix = s.msix := rfl
@[simp] theorem State.setFull_packageGroup (a : Nat) (v : Bool) (s : State) : (State.setFull a v s).packageGroup = s.packageGroup := rfl
@[simp] theorem State.setFull_packageIndex (a : Nat) (v : Bool) (s : State) : (State.setFull a v s).packageIndex = s.packageIndex := rfl
@[simp] theorem State.setFull_linksDown (a : Nat) (v : Bool) (s : State) : (State.setFull a v s).linksDown = s.linksDown := rfl
@[simp] theorem State.setFull_boot (a : Nat) (v : Bool) (s : State) : (State.setFull a v s).boot = s.boot := rfl
@[simp] theorem State.setFull_hostAnswer (a : Nat) (v : Bool) (s : State) : (State.setFull a v s).hostAnswer = s.hostAnswer := rfl
@[simp] theorem State.setFull_spdmAnswer (a : Nat) (v : Bool) (s : State) : (State.setFull a v s).spdmAnswer = s.spdmAnswer := rfl
@[simp] theorem State.setFull_agenda (a : Nat) (v : Bool) (s : State) : (State.setFull a v s).agenda = s.agenda := rfl
@[simp] theorem State.setFull_rr (a : Nat) (v : Bool) (s : State) : (State.setFull a v s).rr = s.rr := rfl
@[simp] theorem State.setFull_prompt (a : Nat) (v : Bool) (s : State) : (State.setFull a v s).prompt = s.prompt := rfl
@[simp] theorem State.setFull_fill (a : Nat) (v : Bool) (s : State) : (State.setFull a v s).fill = s.fill := rfl
@[simp] theorem State.setFull_site (a : Nat) (v : Bool) (s : State) : (State.setFull a v s).site = s.site := rfl
@[simp] theorem State.setFull_fresh (a : Nat) (v : Bool) (s : State) : (State.setFull a v s).fresh = s.fresh := rfl

-- the accessors after State.setStrand
@[simp] theorem State.setStrand_elem (k : Nat) (v : Strand) (s : State) (i : Nat) : (State.setStrand k v s).elem i = s.elem i := rfl
@[simp] theorem State.setStrand_job (k : Nat) (v : Strand) (s : State) (i : Nat) : (State.setStrand k v s).job i = s.job i := rfl
@[simp] theorem State.setStrand_bankAt (k : Nat) (v : Strand) (s : State) (i : Nat) : (State.setStrand k v s).bankAt i = s.bankAt i := rfl
@[simp] theorem State.setStrand_queue (k : Nat) (v : Strand) (s : State) (i : Nat) : (State.setStrand k v s).queue i = s.queue i := rfl
@[simp] theorem State.setStrand_barrier (k : Nat) (v : Strand) (s : State) (i : Nat) : (State.setStrand k v s).barrier i = s.barrier i := rfl
@[simp] theorem State.setStrand_root (k : Nat) (v : Strand) (s : State) (i : Nat) : (State.setStrand k v s).root i = s.root i := rfl
@[simp] theorem State.setStrand_template (k : Nat) (v : Strand) (s : State) (i : Nat) : (State.setStrand k v s).template i = s.template i := rfl
@[simp] theorem State.setStrand_stitch (k : Nat) (v : Strand) (s : State) (i : Nat) : (State.setStrand k v s).stitch i = s.stitch i := rfl

-- the accessors after State.setElem
@[simp] theorem State.setElem_strand (e : Nat) (v : Elem) (s : State) (i : Nat) : (State.setElem e v s).strand i = s.strand i := rfl
@[simp] theorem State.setElem_job (e : Nat) (v : Elem) (s : State) (i : Nat) : (State.setElem e v s).job i = s.job i := rfl
@[simp] theorem State.setElem_bankAt (e : Nat) (v : Elem) (s : State) (i : Nat) : (State.setElem e v s).bankAt i = s.bankAt i := rfl
@[simp] theorem State.setElem_queue (e : Nat) (v : Elem) (s : State) (i : Nat) : (State.setElem e v s).queue i = s.queue i := rfl
@[simp] theorem State.setElem_barrier (e : Nat) (v : Elem) (s : State) (i : Nat) : (State.setElem e v s).barrier i = s.barrier i := rfl
@[simp] theorem State.setElem_root (e : Nat) (v : Elem) (s : State) (i : Nat) : (State.setElem e v s).root i = s.root i := rfl
@[simp] theorem State.setElem_template (e : Nat) (v : Elem) (s : State) (i : Nat) : (State.setElem e v s).template i = s.template i := rfl
@[simp] theorem State.setElem_stitch (e : Nat) (v : Elem) (s : State) (i : Nat) : (State.setElem e v s).stitch i = s.stitch i := rfl

-- the accessors after State.updJob
@[simp] theorem State.updJob_strand (j : Nat) (f : Job → Job) (s : State) (i : Nat) : (State.updJob j f s).strand i = s.strand i := rfl
@[simp] theorem State.updJob_elem (j : Nat) (f : Job → Job) (s : State) (i : Nat) : (State.updJob j f s).elem i = s.elem i := rfl
@[simp] theorem State.updJob_bankAt (j : Nat) (f : Job → Job) (s : State) (i : Nat) : (State.updJob j f s).bankAt i = s.bankAt i := rfl
@[simp] theorem State.updJob_queue (j : Nat) (f : Job → Job) (s : State) (i : Nat) : (State.updJob j f s).queue i = s.queue i := rfl
@[simp] theorem State.updJob_barrier (j : Nat) (f : Job → Job) (s : State) (i : Nat) : (State.updJob j f s).barrier i = s.barrier i := rfl
@[simp] theorem State.updJob_root (j : Nat) (f : Job → Job) (s : State) (i : Nat) : (State.updJob j f s).root i = s.root i := rfl
@[simp] theorem State.updJob_template (j : Nat) (f : Job → Job) (s : State) (i : Nat) : (State.updJob j f s).template i = s.template i := rfl
@[simp] theorem State.updJob_stitch (j : Nat) (f : Job → Job) (s : State) (i : Nat) : (State.updJob j f s).stitch i = s.stitch i := rfl

-- the accessors after State.updBank
@[simp] theorem State.updBank_strand (b : Nat) (f : Bank → Bank) (s : State) (i : Nat) : (State.updBank b f s).strand i = s.strand i := rfl
@[simp] theorem State.updBank_elem (b : Nat) (f : Bank → Bank) (s : State) (i : Nat) : (State.updBank b f s).elem i = s.elem i := rfl
@[simp] theorem State.updBank_job (b : Nat) (f : Bank → Bank) (s : State) (i : Nat) : (State.updBank b f s).job i = s.job i := rfl
@[simp] theorem State.updBank_queue (b : Nat) (f : Bank → Bank) (s : State) (i : Nat) : (State.updBank b f s).queue i = s.queue i := rfl
@[simp] theorem State.updBank_barrier (b : Nat) (f : Bank → Bank) (s : State) (i : Nat) : (State.updBank b f s).barrier i = s.barrier i := rfl
@[simp] theorem State.updBank_root (b : Nat) (f : Bank → Bank) (s : State) (i : Nat) : (State.updBank b f s).root i = s.root i := rfl
@[simp] theorem State.updBank_template (b : Nat) (f : Bank → Bank) (s : State) (i : Nat) : (State.updBank b f s).template i = s.template i := rfl
@[simp] theorem State.updBank_stitch (b : Nat) (f : Bank → Bank) (s : State) (i : Nat) : (State.updBank b f s).stitch i = s.stitch i := rfl

-- the accessors after State.setQueue
@[simp] theorem State.setQueue_strand (q : Nat) (v : Queue) (s : State) (i : Nat) : (State.setQueue q v s).strand i = s.strand i := rfl
@[simp] theorem State.setQueue_elem (q : Nat) (v : Queue) (s : State) (i : Nat) : (State.setQueue q v s).elem i = s.elem i := rfl
@[simp] theorem State.setQueue_job (q : Nat) (v : Queue) (s : State) (i : Nat) : (State.setQueue q v s).job i = s.job i := rfl
@[simp] theorem State.setQueue_bankAt (q : Nat) (v : Queue) (s : State) (i : Nat) : (State.setQueue q v s).bankAt i = s.bankAt i := rfl
@[simp] theorem State.setQueue_barrier (q : Nat) (v : Queue) (s : State) (i : Nat) : (State.setQueue q v s).barrier i = s.barrier i := rfl
@[simp] theorem State.setQueue_root (q : Nat) (v : Queue) (s : State) (i : Nat) : (State.setQueue q v s).root i = s.root i := rfl
@[simp] theorem State.setQueue_template (q : Nat) (v : Queue) (s : State) (i : Nat) : (State.setQueue q v s).template i = s.template i := rfl
@[simp] theorem State.setQueue_stitch (q : Nat) (v : Queue) (s : State) (i : Nat) : (State.setQueue q v s).stitch i = s.stitch i := rfl

-- the accessors after State.setBarrier
@[simp] theorem State.setBarrier_strand (b : Nat) (v : Barrier) (s : State) (i : Nat) : (State.setBarrier b v s).strand i = s.strand i := rfl
@[simp] theorem State.setBarrier_elem (b : Nat) (v : Barrier) (s : State) (i : Nat) : (State.setBarrier b v s).elem i = s.elem i := rfl
@[simp] theorem State.setBarrier_job (b : Nat) (v : Barrier) (s : State) (i : Nat) : (State.setBarrier b v s).job i = s.job i := rfl
@[simp] theorem State.setBarrier_bankAt (b : Nat) (v : Barrier) (s : State) (i : Nat) : (State.setBarrier b v s).bankAt i = s.bankAt i := rfl
@[simp] theorem State.setBarrier_queue (b : Nat) (v : Barrier) (s : State) (i : Nat) : (State.setBarrier b v s).queue i = s.queue i := rfl
@[simp] theorem State.setBarrier_root (b : Nat) (v : Barrier) (s : State) (i : Nat) : (State.setBarrier b v s).root i = s.root i := rfl
@[simp] theorem State.setBarrier_template (b : Nat) (v : Barrier) (s : State) (i : Nat) : (State.setBarrier b v s).template i = s.template i := rfl
@[simp] theorem State.setBarrier_stitch (b : Nat) (v : Barrier) (s : State) (i : Nat) : (State.setBarrier b v s).stitch i = s.stitch i := rfl

-- the accessors after State.setRoot
@[simp] theorem State.setRoot_strand (r : Nat) (v : Root) (s : State) (i : Nat) : (State.setRoot r v s).strand i = s.strand i := rfl
@[simp] theorem State.setRoot_elem (r : Nat) (v : Root) (s : State) (i : Nat) : (State.setRoot r v s).elem i = s.elem i := rfl
@[simp] theorem State.setRoot_job (r : Nat) (v : Root) (s : State) (i : Nat) : (State.setRoot r v s).job i = s.job i := rfl
@[simp] theorem State.setRoot_bankAt (r : Nat) (v : Root) (s : State) (i : Nat) : (State.setRoot r v s).bankAt i = s.bankAt i := rfl
@[simp] theorem State.setRoot_queue (r : Nat) (v : Root) (s : State) (i : Nat) : (State.setRoot r v s).queue i = s.queue i := rfl
@[simp] theorem State.setRoot_barrier (r : Nat) (v : Root) (s : State) (i : Nat) : (State.setRoot r v s).barrier i = s.barrier i := rfl
@[simp] theorem State.setRoot_template (r : Nat) (v : Root) (s : State) (i : Nat) : (State.setRoot r v s).template i = s.template i := rfl
@[simp] theorem State.setRoot_stitch (r : Nat) (v : Root) (s : State) (i : Nat) : (State.setRoot r v s).stitch i = s.stitch i := rfl

-- the accessors after State.updTemplate
@[simp] theorem State.updTemplate_strand (t : Nat) (f : Template → Template) (s : State) (i : Nat) : (State.updTemplate t f s).strand i = s.strand i := rfl
@[simp] theorem State.updTemplate_elem (t : Nat) (f : Template → Template) (s : State) (i : Nat) : (State.updTemplate t f s).elem i = s.elem i := rfl
@[simp] theorem State.updTemplate_job (t : Nat) (f : Template → Template) (s : State) (i : Nat) : (State.updTemplate t f s).job i = s.job i := rfl
@[simp] theorem State.updTemplate_bankAt (t : Nat) (f : Template → Template) (s : State) (i : Nat) : (State.updTemplate t f s).bankAt i = s.bankAt i := rfl
@[simp] theorem State.updTemplate_queue (t : Nat) (f : Template → Template) (s : State) (i : Nat) : (State.updTemplate t f s).queue i = s.queue i := rfl
@[simp] theorem State.updTemplate_barrier (t : Nat) (f : Template → Template) (s : State) (i : Nat) : (State.updTemplate t f s).barrier i = s.barrier i := rfl
@[simp] theorem State.updTemplate_root (t : Nat) (f : Template → Template) (s : State) (i : Nat) : (State.updTemplate t f s).root i = s.root i := rfl
@[simp] theorem State.updTemplate_stitch (t : Nat) (f : Template → Template) (s : State) (i : Nat) : (State.updTemplate t f s).stitch i = s.stitch i := rfl

-- the accessors after State.updStitch
@[simp] theorem State.updStitch_strand (u : Nat) (f : Stitch → Stitch) (s : State) (i : Nat) : (State.updStitch u f s).strand i = s.strand i := rfl
@[simp] theorem State.updStitch_elem (u : Nat) (f : Stitch → Stitch) (s : State) (i : Nat) : (State.updStitch u f s).elem i = s.elem i := rfl
@[simp] theorem State.updStitch_job (u : Nat) (f : Stitch → Stitch) (s : State) (i : Nat) : (State.updStitch u f s).job i = s.job i := rfl
@[simp] theorem State.updStitch_bankAt (u : Nat) (f : Stitch → Stitch) (s : State) (i : Nat) : (State.updStitch u f s).bankAt i = s.bankAt i := rfl
@[simp] theorem State.updStitch_queue (u : Nat) (f : Stitch → Stitch) (s : State) (i : Nat) : (State.updStitch u f s).queue i = s.queue i := rfl
@[simp] theorem State.updStitch_barrier (u : Nat) (f : Stitch → Stitch) (s : State) (i : Nat) : (State.updStitch u f s).barrier i = s.barrier i := rfl
@[simp] theorem State.updStitch_root (u : Nat) (f : Stitch → Stitch) (s : State) (i : Nat) : (State.updStitch u f s).root i = s.root i := rfl
@[simp] theorem State.updStitch_template (u : Nat) (f : Stitch → Stitch) (s : State) (i : Nat) : (State.updStitch u f s).template i = s.template i := rfl

-- the accessors after State.poke
@[simp] theorem State.poke_strand (a n v : Nat) (s : State) (i : Nat) : (State.poke a n v s).strand i = s.strand i := rfl
@[simp] theorem State.poke_elem (a n v : Nat) (s : State) (i : Nat) : (State.poke a n v s).elem i = s.elem i := rfl
@[simp] theorem State.poke_job (a n v : Nat) (s : State) (i : Nat) : (State.poke a n v s).job i = s.job i := rfl
@[simp] theorem State.poke_bankAt (a n v : Nat) (s : State) (i : Nat) : (State.poke a n v s).bankAt i = s.bankAt i := rfl
@[simp] theorem State.poke_queue (a n v : Nat) (s : State) (i : Nat) : (State.poke a n v s).queue i = s.queue i := rfl
@[simp] theorem State.poke_barrier (a n v : Nat) (s : State) (i : Nat) : (State.poke a n v s).barrier i = s.barrier i := rfl
@[simp] theorem State.poke_root (a n v : Nat) (s : State) (i : Nat) : (State.poke a n v s).root i = s.root i := rfl
@[simp] theorem State.poke_template (a n v : Nat) (s : State) (i : Nat) : (State.poke a n v s).template i = s.template i := rfl
@[simp] theorem State.poke_stitch (a n v : Nat) (s : State) (i : Nat) : (State.poke a n v s).stitch i = s.stitch i := rfl

-- the accessors after State.setFull
@[simp] theorem State.setFull_strand (a : Nat) (v : Bool) (s : State) (i : Nat) : (State.setFull a v s).strand i = s.strand i := rfl
@[simp] theorem State.setFull_elem (a : Nat) (v : Bool) (s : State) (i : Nat) : (State.setFull a v s).elem i = s.elem i := rfl
@[simp] theorem State.setFull_job (a : Nat) (v : Bool) (s : State) (i : Nat) : (State.setFull a v s).job i = s.job i := rfl
@[simp] theorem State.setFull_bankAt (a : Nat) (v : Bool) (s : State) (i : Nat) : (State.setFull a v s).bankAt i = s.bankAt i := rfl
@[simp] theorem State.setFull_queue (a : Nat) (v : Bool) (s : State) (i : Nat) : (State.setFull a v s).queue i = s.queue i := rfl
@[simp] theorem State.setFull_barrier (a : Nat) (v : Bool) (s : State) (i : Nat) : (State.setFull a v s).barrier i = s.barrier i := rfl
@[simp] theorem State.setFull_root (a : Nat) (v : Bool) (s : State) (i : Nat) : (State.setFull a v s).root i = s.root i := rfl
@[simp] theorem State.setFull_template (a : Nat) (v : Bool) (s : State) (i : Nat) : (State.setFull a v s).template i = s.template i := rfl
@[simp] theorem State.setFull_stitch (a : Nat) (v : Bool) (s : State) (i : Nat) : (State.setFull a v s).stitch i = s.stitch i := rfl

end Sys2Proof.Machine
end

