-- ==== Sys2Proof/Laws/Fire.lean ====
section
/-!
SUPPORT. What a firing does, once for every form: the heads that it takes, the tokens that it sends, and that it changes nothing else.
-/

namespace Sys2Proof.Machine

-- routes and inputs -------------------------------------------------------------------------------

theorem Elem.flights_windows (x : Elem) (g : Nat × Route → Nat) (c : Nat × Route → Bool) (p : Nat) :
    ({ x with routes := x.routes.map (fun q => if c q then (q.1, { q.2 with window := g q }) else q) } : Elem).flights p
      = x.flights p := by
  simp only [Elem.flights, Elem.routesOf]
  induction x.routes with
  | nil => rfl
  | cons q r ih =>
    simp only [List.map_cons, List.filter_cons]
    by_cases hc : c q = true
    · simp only [hc, if_true]
      by_cases hp : (q.2.srcPort == p) = true
      · simp only [hp, if_true, List.map_cons]; exact congrArg _ ih
      · simp only [hp]; exact ih
    · simp only [hc]
      by_cases hp : (q.2.srcPort == p) = true
      · simp only [hp, if_true, List.map_cons, Bool.false_eq_true, if_false]; exact congrArg _ ih
      · simp only [hp, Bool.false_eq_true, if_false]; exact ih

/-- What taking tokens from the inputs of element e leaves: `eat` counts the tokens taken from each input. -/
structure Took (e : Nat) (eat : List Nat) (s t : State) : Prop where
  took : ∀ p, (t.elem e).standing p = ((s.elem e).standing p).drop (eat.count p)
  others : ∀ k, k ≠ e → ∀ p, (t.elem k).standing p = (s.elem k).standing p
  flights : ∀ k p, (t.elem k).flights p = (s.elem k).flights p
  still : ∀ k, { t.elem k with chans := [], routes := [] } = { s.elem k with chans := [], routes := [] }
  rest : { t with elems := s.elems } = s

theorem Took.refl (e : Nat) (s : State) : Took e [] s s :=
  ⟨fun _ => by simp, fun _ _ _ => rfl, fun _ _ => rfl, fun _ => rfl, rfl⟩

theorem took_setElem (s : State) (e p : Nat) (v : List InTok) (k : Nat) :
    ({ s.elem e with chans := (s.elem e).chans.put p v } : Elem).standing k =
      if k = p then v.map (·.tok) else (s.elem e).standing k := by
  simp only [Elem.standing, Elem.chan, Tab.look_put]
  split <;> rfl

/-- R291: one head consumed. -/
theorem took_consume (e p : Nat) (s : State) : Took e [p] s (s.consume e p) := by
  unfold State.consume
  cases h : (s.elem e).chan p with
  | nil =>
    refine ⟨fun k => ?_, fun _ _ _ => rfl, fun _ _ => rfl, fun _ => rfl, rfl⟩
    by_cases hk : k = p
    · subst hk; simp [Elem.standing, h]
    · simp [Ne.symm hk]
  | cons t r =>
    dsimp only
    refine ⟨fun k => ?_, fun j hj k => ?_, fun j k => ?_, fun j => ?_, ?_⟩
    · by_cases hs : t.src = e
      · simp only [State.updElem_eq, State.elem_setElem, hs, if_true]
        show ({ s.elem e with chans := _ } : Elem).standing k = _
        rw [took_setElem]
        by_cases hk : k = p
        · subst hk; simp [Elem.standing, h]
        · simp [hk, Ne.symm hk]
      · simp only [State.updElem_eq, State.elem_setElem, if_neg (Ne.symm hs), if_true]
        rw [took_setElem]
        by_cases hk : k = p
        · subst hk; simp [Elem.standing, h]
        · simp [hk, Ne.symm hk]
    · simp only [State.updElem_eq, State.elem_setElem, if_neg hj]
      by_cases h1 : j = t.src
      · subst h1; simp only [if_true, if_neg hj]; rfl
      · simp only [if_neg h1]
    · simp only [State.updElem_eq, State.elem_setElem]
      by_cases h1 : j = t.src
      · subst h1
        simp only [if_true]
        have hw := Elem.flights_windows (if t.src = e then { s.elem e with chans := (s.elem e).chans.put p r } else s.elem t.src)
          (fun q => q.2.window - 1) (fun q => decide (q.1 = t.entry)) k
        simp only [decide_eq_true_eq] at hw
        rw [hw]
        by_cases he : t.src = e
        · simp only [he, if_true]; rfl
        · simp only [if_neg he]
      · simp only [if_neg h1]
        by_cases he : j = e
        · subst he; simp only [if_true]; rfl
        · simp only [if_neg he]
    · simp only [State.updElem_eq, State.elem_setElem]
      by_cases h1 : j = t.src
      · subst h1
        by_cases he : t.src = e
        · simp only [he, if_true]
        · simp only [if_neg he, if_true]
      · by_cases he : j = e
        · subst he; simp only [if_neg h1, if_true]
        · simp only [if_neg h1, if_neg he]
    · simp only [State.updElem_eq]; rfl

theorem Took.trans {e : Nat} {a b : List Nat} {s t u : State} (h : Took e a s t) (g : Took e b t u) : Took e (a ++ b) s u where
  took p := by rw [g.took, h.took, List.drop_drop, List.count_append]
  others k hk p := by rw [g.others k hk, h.others k hk]
  flights k p := by rw [g.flights, h.flights]
  still k := by rw [g.still, h.still]
  rest := by
    have h1 := h.rest
    have h2 := g.rest
    rw [← h1, ← h2]

/-- R130: the heads listed consumed. -/
theorem took_consumeAll (e : Nat) (eat : List Nat) (s : State) : Took e eat s (State.consumeAll e eat s) := by
  induction eat generalizing s with
  | nil => exact Took.refl e s
  | cons p r ih => exact (took_consume e p s).trans (ih _)

-- emissions -----------------------------------------------------------------------------------------

theorem flights_emit (x : Elem) (q : Nat) (t : Token) (p : Nat) :
    (x.emit q t).flights p = (x.flights p).map (· ++ (if q = p then [t] else [])) := by
  simp only [Elem.flights, Elem.emit, Elem.routesOf]
  induction x.routes with
  | nil => rfl
  | cons r rs ih =>
    simp only [List.map_cons, List.filter_cons]
    by_cases hq : r.2.srcPort = q
    · simp only [if_pos hq]
      by_cases hp : q = p
      · subst hp; simp [hq]; simpa using ih
      · have h1 : (r.2.srcPort == p) = false := by rw [hq]; simpa using hp
        simp only [h1, Bool.false_eq_true, if_false]
        exact ih
    · simp only [if_neg hq]
      by_cases hp : (r.2.srcPort == p) = true
      · simp only [hp, if_true, List.map_cons]
        rw [ih]
        have hqp : ¬ q = p := fun h => hq ((beq_iff_eq.mp hp).trans h.symm)
        simp [hqp]
      · simp only [hp, Bool.false_eq_true, if_false]
        exact ih

theorem emit_still (x : Elem) (q : Nat) (t : Token) :
    { x.emit q t with routes := [] } = { x with routes := [] } := rfl

/-- R292: tokens emitted in order: each travels on every branch of its port. -/
theorem flights_emitAll (out : List (Nat × Token)) (x : Elem) (p : Nat) :
    (Elem.emitAll out x).flights p = (x.flights p).map (· ++ onPort p out) := by
  induction out generalizing x with
  | nil => simp [Elem.emitAll, onPort]
  | cons o r ih =>
    obtain ⟨q, t⟩ := o
    simp only [Elem.emitAll]
    rw [ih, flights_emit, List.map_map]
    apply List.map_congr_left
    intro l _
    simp only [Function.comp, List.append_assoc, onPort, List.filter_cons]
    by_cases h : q = p <;> simp [h]

theorem emitAll_still (out : List (Nat × Token)) (x : Elem) :
    { Elem.emitAll out x with routes := [] } = { x with routes := [] } := by
  induction out generalizing x with
  | nil => rfl
  | cons o r ih => simp only [Elem.emitAll]; rw [ih, emit_still]

theorem emitAll_chans (out : List (Nat × Token)) (x : Elem) : (Elem.emitAll out x).chans = x.chans := by
  induction out generalizing x with
  | nil => rfl
  | cons o r ih => simp only [Elem.emitAll]; rw [ih]; rfl

theorem meter_still (out : List (Nat × Token)) (x : Elem) : (x.meter out).still = x.still := rfl
theorem meter_routes (out : List (Nat × Token)) (x : Elem) : (x.meter out).routes = x.routes := rfl
theorem meter_chans (out : List (Nat × Token)) (x : Elem) : (x.meter out).chans = x.chans := rfl

/-- R182: tokens that are admitted enter the fabric at once. -/
theorem send_true (out : List (Nat × Token)) (x : Elem) : x.send true out = Elem.emitAll out (x.meter out) := rfl

/-- R182: where all of a firing's tokens are admitted, no port of it holds a token back. -/
theorem portsFree_of_admits {x : Elem} {out : List (Nat × Token)} (h : x.admits out = true) : x.portsFree out = true := by
  simp only [Elem.admits, Bool.and_eq_true] at h; exact h.1

/-- R193: activity touches the quiet count of the element's strand alone. -/
theorem activity_elems (e : Nat) (s : State) : (s.activity e).elems = s.elems := by
  unfold State.activity; split
  · split <;> rfl
  · rfl
theorem activity_strand (e : Nat) (s : State) (k : Nat) :
    { (s.activity e).strand k with quiet := 0 } = { s.strand k with quiet := 0 } := by
  unfold State.activity; split
  · split
    · rfl
    · next j _ _ =>
      simp only [State.updStrand_eq, State.strand_setStrand]
      split
      · next h => subst h; rfl
      · rfl
  · rfl
theorem activity_rest (e : Nat) (s : State) : { s.activity e with strands := s.strands } = s := by
  unfold State.activity; split
  · split <;> rfl
  · rfl

/-- R380: counting a firing touches the performance counters alone. -/
theorem countPerf_rest (d ev j n : Nat) (s : State) : { s.countPerf d ev j n with perf := s.perf } = s := rfl
theorem countPorts_rest (e n : Nat) (s : State) : { s.countPorts e n with perf := s.perf } = s := by
  unfold State.countPorts; split <;> rfl
theorem countFiring_rest (code : Nat) (sl : Slot) (data : Bool) (s : State) :
    { s.countFiring code sl data with perf := s.perf } = s := by
  have hc (t : State) (d ev j n : Nat) : { t.countPerf d ev j n with perf := s.perf } = { t with perf := s.perf } := rfl
  unfold State.countFiring
  generalize hd : dieOf (panelOf s.site.elem) = d
  generalize hj : (s.strand (s.strandOf s.site.elem)).job = j
  dsimp only
  split <;> split
  · exact (hc _ _ _ _ _).trans ((hc _ _ _ _ _).trans (hc _ _ _ _ _))
  · exact (hc _ _ _ _ _).trans (hc _ _ _ _ _)
  · exact (hc _ _ _ _ _).trans (hc _ _ _ _ _)
  · exact hc _ _ _ _ _

/-- R28, R130: a firing that may take place takes place whole: the spec of `fireSlot` for a firing that writes no bytes. -/
theorem fireSlot_go {code : Nat} {sl : Slot} {source : Bool} {eff : Effect} {s : State}
    (h : CanFire code sl source eff.out s) (hw : eff.writes = [])
    (hc : eff.elem.chans = (s.elem s.site.elem).chans) (hr : eff.elem.routes = (s.elem s.site.elem).routes) :
    ∃ t, s.fireSlot code sl source (.go eff) = .next t ∧ Fired eff.elem eff.eat eff.out s t ∧ SameBytes s t := by
  have hk : s.checkReads code sl (.go eff) = .go eff := by
    simp only [State.checkReads, h.good]; split <;> rfl
  refine ⟨s.applyFire code sl (.go eff), ?_, ?_⟩
  · unfold State.fireSlot
    simp only [h.free, h.tile, Bool.false_eq_true, if_false, hk, Bool.or_self]
  · unfold State.applyFire
    simp only [h.room, h.admits, portsFree_of_admits h.admits, Bool.and_self, if_true, hw, State.writeAll, send_true]
    generalize he : s.site.elem = e
    have T := took_consumeAll e eff.eat (s.setElem e eff.elem)
    generalize hu : State.consumeAll e eff.eat (s.setElem e eff.elem) = u at T
    generalize hv0 : (u.updElem e (fun x => Elem.emitAll eff.out (x.meter eff.out))) = v0
    generalize hv : v0.countPorts e (eff.out.length + (s.elem e).age.ports.length) = v
    have hvv : { v with perf := v0.perf } = v0 := by rw [← hv]; exact countPorts_rest _ _ _
    have hvr : { v with elems := u.elems, perf := u.perf } = u := by
      have h1 := congrArg (fun (q : State) => { q with elems := u.elems, perf := u.perf }) hvv
      exact h1.trans (by rw [← hv0]; rfl)
    have hve (k : Nat) : v.elem k = if k = e then Elem.emitAll eff.out ((u.elem e).meter eff.out) else u.elem k := by
      have h0 := congrArg State.elems hvv
      have h1 : v.elem k = v0.elem k := congrArg (fun l => Tab.look ({} : Elem) l k) h0
      rw [h1, ← hv0]; exact State.elem_setElem _ _ _ _
    have hse (k : Nat) : (s.setElem e eff.elem).elem k = if k = e then eff.elem else s.elem k := State.elem_setElem _ _ _ _
    have hte (k : Nat) : ((v.activity e).countFiring code sl eff.data).elem k = v.elem k := by
      have h1 := congrArg State.elems (countFiring_rest code sl eff.data (v.activity e))
      have h2 := activity_elems e v
      exact congrArg (fun l => Tab.look ({} : Elem) l k) (h1.trans h2)
    have hts (k : Nat) : ((v.activity e).countFiring code sl eff.data).strand k = (v.activity e).strand k := by
      have h1 := congrArg State.strands (countFiring_rest code sl eff.data (v.activity e))
      exact congrArg (fun l => Tab.look ({} : Strand) l k) h1
    have hus (k : Nat) : v.strand k = s.strand k := by
      have h1 := congrArg State.strands hvr
      have h2 := congrArg State.strands T.rest
      exact congrArg (fun l => Tab.look ({} : Strand) l k) (h1.trans h2)
    rw [he] at hc hr
    refine ⟨⟨fun p => ?_, fun p => ?_, ?_, fun k hk => ?_, fun k => ?_, ?_⟩, fun a => ?_⟩
    · rw [he, hte, hve, if_pos rfl]
      have h1 : (Elem.emitAll eff.out ((u.elem e).meter eff.out)).standing p = (u.elem e).standing p := by
        simp only [Elem.standing, Elem.chan, emitAll_chans, meter_chans]
      rw [h1, T.took, hse, if_pos rfl]
      simp only [Elem.standing, Elem.chan, hc]
    · rw [he, hte, hve, if_pos rfl, flights_emitAll]
      have h1 : ((u.elem e).meter eff.out).flights p = (u.elem e).flights p := by
        simp only [Elem.flights, Elem.routesOf, meter_routes]
      rw [h1, T.flights, hse, if_pos rfl]
      simp only [Elem.flights, Elem.routesOf, hr]
    · rw [he, hte, hve, if_pos rfl]
      have h1 := congrArg (fun x : Elem => { x with chans := [], age := { x.age with bridle := {} } }) (emitAll_still eff.out ((u.elem e).meter eff.out))
      have h2 := meter_still eff.out (u.elem e)
      have h3 := congrArg (fun x : Elem => { x with age := { x.age with bridle := {} } }) (T.still e)
      rw [hse, if_pos rfl] at h3
      exact h1.trans (h2.trans h3)
    · rw [he] at hk
      rw [hte, hve, if_neg hk]
      have h3 := congrArg (fun x : Elem => { x with age := { x.age with bridle := {} } }) (T.still k)
      rw [hse, if_neg hk] at h3
      refine ⟨h3, fun p => ⟨?_, ?_⟩⟩
      · rw [T.others k hk, hse, if_neg hk]
      · rw [T.flights, hse, if_neg hk]
    · rw [hts, activity_strand, hus]
    · have h1 := countFiring_rest code sl eff.data (v.activity e)
      have h2 := activity_rest e v
      have h3 := T.rest
      generalize hz : (v.activity e).countFiring code sl eff.data = z at h1 ⊢
      generalize hy : v.activity e = y at h1 h2
      have := congrArg (fun (q : State) => { q with elems := s.elems, strands := s.strands, perf := s.perf, mem := s.mem }) h1
      have b := congrArg (fun (q : State) => { q with elems := s.elems, strands := s.strands, perf := s.perf, mem := s.mem }) h2
      have c := congrArg (fun (q : State) => { q with elems := s.elems, strands := s.strands, perf := s.perf, mem := s.mem }) hvr
      have d := congrArg (fun (q : State) => { q with elems := s.elems, strands := s.strands, perf := s.perf, mem := s.mem }) h3
      exact this.trans (b.trans (c.trans d))
    · have h1 := congrArg State.mem (countFiring_rest code sl eff.data (v.activity e))
      have h2 := congrArg State.mem (activity_rest e v)
      have h3 := congrArg State.mem hvr
      have h4 := congrArg State.mem T.rest
      exact congrArg (fun m => memGet m a) (h1.trans (h2.trans (h3.trans h4)))

end Sys2Proof.Machine
end

