-- ==== Sys2Proof/Laws/Command.lean ====
section
/-!
SUPPORT. What an AGE's shared operations do, once for every command: a step of a place, an element read, an element written.
-/

namespace Sys2Proof.Machine

/-- A place read after a place was replaced. -/
theorem place_setPlace (e p : Nat) (v : Place) (s : State) (k q : Nat) :
    (s.setPlace e p v).place k q = if k = e ∧ q = p then v else s.place k q := by
  unfold State.setPlace State.place
  simp only [State.updAge, State.updElem_eq, State.elem_setElem]
  by_cases hk : k = e
  · subst hk
    simp only [if_true, true_and, Tab.look_put]
  · simp [hk]

theorem updPlace_eq (e p : Nat) (f : Place → Place) (s : State) : s.updPlace e p f = s.setPlace e p (f (s.place e p)) := rfl

/-- A place changed, and nothing else. -/
theorem stepped_updPlace (p : Nat) (f : Place → Place) (s : State) :
    Stepped p (f (s.place s.site.elem p)) s (s.updPlace s.site.elem p f) where
  place := by rw [updPlace_eq]; show (s.setPlace _ p _).place s.site.elem p = _; rw [place_setPlace]; simp
  others e q h := by
    rw [updPlace_eq, place_setPlace]
    have : ¬ (e = s.site.elem ∧ q = p) := by rintro ⟨rfl, rfl⟩; simp at h
    simp [this]
  strands k := rfl
  full := rfl

theorem updPlace_mem (e p : Nat) (f : Place → Place) (s : State) : (s.updPlace e p f).mem = s.mem := rfl

/-- Activity leaves a step as it is. -/
theorem Stepped.activity {p : Nat} {y : Place} {s t : State} (h : Stepped p y s t) (e : Nat) : Stepped p y s (t.activity e) where
  place := by
    have := activity_elems e t
    unfold State.place State.elem at *
    rw [this]; exact h.place
  others k q hq := by
    have := activity_elems e t
    have h2 := h.others k q hq
    unfold State.place State.elem at *
    rw [this]; exact h2
  strands k := by rw [activity_strand, h.strands]
  full := by
    have := congrArg State.full (activity_rest e t)
    exact (this.symm ▸ h.full : _)

theorem activity_mem (e : Nat) (s : State) : (s.activity e).mem = s.mem := by
  exact (congrArg State.mem (activity_rest e s) : _)

/-- A command in a place takes its own step. -/
theorem runCommand_steps {p op : Nat} {c : Cmd} {s : State} (h : s.Steps p op c) (d : Cmd) (o : Nat) (ready : State → Bool)
    (init : Place → Place) (step : Nat → Nat → Place → State → State) :
    s.runCommand d o ready init step = .next (step s.site.elem p (s.place s.site.elem p) s) := by
  unfold State.runCommand
  simp only [h.site]
  unfold State.advancePlace
  simp only [h.site, h.active, h.free, h.going, h.out]
  have hu : (unitOp (s.place s.site.elem p).op && s.rowHeld) = false := by
    rw [h.code]
    cases hc : unitOp op
    · rfl
    · rw [h.rows hc]; rfl
  simp [hu]

/-- A command's place finished. -/
theorem finish_stepped (p r : Nat) (s : State) :
    Stepped p { s.place s.site.elem p with done := true, reply := BitVec.ofNat 64 r } s (s.finish s.site.elem p r) :=
  stepped_updPlace p (fun x => { x with done := true, reply := BitVec.ofNat 64 r }) s

-- an element read ---------------------------------------------------------------------------------

/-- Two states in which a memory request meets the same things. -/
structure SameMemory (s t : State) : Prop where
  rest : { t with elems := s.elems, tlbs := s.tlbs } = s
  places : ∀ e p, t.place e p = s.place e p
  elems : ∀ e, { t.elem e with age := { (t.elem e).age with heat := [] } } = { s.elem e with age := { (s.elem e).age with heat := [] } }

theorem SameMemory.refl (s : State) : SameMemory s s := ⟨rfl, fun _ _ => rfl, fun _ => rfl⟩

theorem sameMemory_cacheLeaf (o : TlbOwner) (d j a : Nat) (s : State) : SameMemory s (s.cacheLeaf o d j a) := by
  unfold State.cacheLeaf
  split
  · split
    · exact ⟨rfl, fun _ _ => rfl, fun _ => rfl⟩
    · exact SameMemory.refl s
  · exact SameMemory.refl s

theorem heatTouch_empty {e job va : Nat} {s : State} (h : (s.elem e).age.heat = []) : SameMemory s (s.heatTouch e job va) := by
  unfold State.heatTouch
  simp only [h, List.any_nil, Bool.false_eq_true, if_false, List.drop_nil, List.foldl_nil, List.take_nil]
  refine ⟨rfl, fun k p => ?_, fun k => ?_⟩
  · unfold State.place
    simp only [State.updAge, State.updElem_eq, State.elem_setElem]
    split
    · next hk => subst hk; rfl
    · rfl
  · simp only [State.updAge, State.updElem_eq, State.elem_setElem]
    split
    · next hk => subst hk; simp
    · rfl

theorem SameMemory.trans {s t u : State} (h : SameMemory s t) (g : SameMemory t u) : SameMemory s u where
  rest := by rw [← h.rest, ← g.rest]
  places e p := by rw [g.places, h.places]
  elems e := by rw [g.elems, h.elems]

theorem SameMemory.reqs {s t : State} (h : SameMemory s t) : t.reqs = s.reqs := by have := congrArg State.reqs h.rest; exact this
theorem SameMemory.mem {s t : State} (h : SameMemory s t) : t.mem = s.mem := by have := congrArg State.mem h.rest; exact this
theorem SameMemory.banks {s t : State} (h : SameMemory s t) : t.banks = s.banks := by have := congrArg State.banks h.rest; exact this
theorem SameMemory.cap {s t : State} (h : SameMemory s t) : t.cap = s.cap := by have := congrArg State.cap h.rest; exact this
theorem SameMemory.groupLinear {s t : State} (h : SameMemory s t) : t.groupLinear = s.groupLinear := by have := congrArg State.groupLinear h.rest; exact this
theorem SameMemory.tiles {s t : State} (h : SameMemory s t) : t.tiles = s.tiles := by have := congrArg State.tiles h.rest; exact this
theorem SameMemory.dieLines {s t : State} (h : SameMemory s t) : t.dieLines = s.dieLines := by have := congrArg State.dieLines h.rest; exact this
theorem SameMemory.streamLines {s t : State} (h : SameMemory s t) : t.streamLines = s.streamLines := by have := congrArg State.streamLines h.rest; exact this
theorem SameMemory.full {s t : State} (h : SameMemory s t) : t.full = s.full := by have := congrArg State.full h.rest; exact this
theorem SameMemory.strands {s t : State} (h : SameMemory s t) : t.strands = s.strands := by have := congrArg State.strands h.rest; exact this
theorem SameMemory.site {s t : State} (h : SameMemory s t) : t.site = s.site := by have := congrArg State.site h.rest; exact this
theorem SameMemory.fill {s t : State} (h : SameMemory s t) : t.fill = s.fill := by have := congrArg State.fill h.rest; exact this
theorem SameMemory.prompt {s t : State} (h : SameMemory s t) : t.prompt = s.prompt := by have := congrArg State.prompt h.rest; exact this

theorem SameMemory.performs {s t : State} (h : SameMemory s t) {r : Req} (g : s.Performs r) : t.Performs r where
  first := by have := g.first; unfold State.earlier at *; rw [h.reqs]; exact this
  ageFirst := by have := g.ageFirst; unfold State.earlierAge State.spillFlies at *; rw [h.reqs, h.dieLines]; exact this
  row := by
    have := g.row
    unfold State.homeHeld State.homeBank State.bankOf State.linear State.groupOf State.groupBytes State.bankAt at *
    rw [h.banks, h.cap, h.groupLinear]; exact this
  tile := by
    have := g.tile
    unfold State.tileHolds at *
    simp only [h.places, h.tiles]; exact this
  queue hw hv := by
    have := g.queue hw hv
    unfold State.queuedAt State.homeBank State.bankOf State.linear State.groupOf State.groupBytes at *
    rw [h.reqs, h.cap, h.groupLinear]; exact this

/-- R355: what accesses under a key find does not depend on the elements and the caches of translations. -/
theorem reseal_elems (el : Tab Elem) (tl : List Tlb) (new n : Nat) (s : State) :
    State.reseal new n ({ s with elems := el, tlbs := tl } : State) = { s.reseal new n with elems := el, tlbs := tl } := by
  unfold State.reseal
  dsimp only
  split
  · rfl
  · rfl
theorem underKey_elems (el : Tab Elem) (tl : List Tlb) (key a n : Nat) (s : State) :
    ({ s with elems := el, tlbs := tl } : State).underKey key a n = { s.underKey key a n with elems := el, tlbs := tl } := by
  unfold State.underKey
  dsimp only
  split
  · rfl
  · have go : ∀ (l : List Nat) (u : State),
        l.foldl (fun s k => State.reseal (s.sealOf key) (a / 64 + k) s) ({ u with elems := el, tlbs := tl } : State) =
          { l.foldl (fun s k => State.reseal (s.sealOf key) (a / 64 + k) s) u with elems := el, tlbs := tl } := by
      intro l
      induction l with
      | nil => intro u; rfl
      | cons k r ih => intro u; simp only [List.foldl_cons]; rw [← ih, ← reseal_elems]; rfl
    exact go _ s

theorem SameMemory.eq {s t : State} (h : SameMemory s t) : t = { s with elems := t.elems, tlbs := t.tlbs } := by
  have := congrArg (fun u : State => ({ u with elems := t.elems, tlbs := t.tlbs } : State)) h.rest
  exact this

theorem SameMemory.readValue {s t : State} (h : SameMemory s t) (r : Req) : t.readValue r = s.readValue r := by
  rw [h.eq]
  generalize t.elems = el, t.tlbs = tl
  have hk (k a n : Nat) : ({ s with elems := el, tlbs := tl } : State).peekKey k a n = s.peekKey k a n := by
    unfold State.peekKey; rw [underKey_elems]; rfl
  have hl (k a n d l : Nat) : (({ s with elems := el, tlbs := tl } : State).underKey k a n).lineSeen d l = (s.underKey k a n).lineSeen d l := by
    rw [underKey_elems]; rfl
  unfold State.readValue
  rw [hk, hl]
  rfl

/-- What reading a line in may leave in stream buffers, die points and home queues. -/
structure Filled (s t : State) : Prop where
  rest : { t with dieLines := s.dieLines, streamLines := s.streamLines, reqs := s.reqs, fresh := s.fresh, perf := s.perf } = s

theorem Filled.refl (s : State) : Filled s s := ⟨rfl⟩
theorem Filled.trans {s t u : State} (h : Filled s t) (g : Filled t u) : Filled s u := ⟨by
  have h1 := congrArg (fun q : State => ({ q with
    dieLines := s.dieLines, streamLines := s.streamLines, reqs := s.reqs, fresh := s.fresh, perf := s.perf } : State)) g.rest
  exact h1.trans h.rest⟩

/-- R315 move 4 in the making of room: a sector sent home. -/
theorem filled_sendSector (die line sector : Nat) (s : State) : Filled s (s.sendSector die line sector) := by
  unfold State.sendSector
  split
  · exact Filled.refl s
  · split
    · exact Filled.refl s
    · exact ⟨rfl⟩

theorem filled_makeRoom (die line : Nat) (s : State) : Filled s (s.makeRoom die line) := by
  unfold State.makeRoom
  split
  · exact Filled.refl s
  · exact ((filled_sendSector _ _ _ s).trans (filled_sendSector _ _ _ _)).trans ⟨rfl⟩

theorem filled_fillDie (r : Req) (s : State) : Filled s (s.fillDie r) := by
  unfold State.fillDie
  dsimp only
  split
  · exact Filled.refl s
  · exact (filled_makeRoom _ _ s).trans ⟨rfl⟩

theorem fillLines_rest (r : Req) (s : State) : Filled s (s.fillLines r) := by
  unfold State.fillLines
  split
  · exact Filled.refl s
  · split
    · unfold State.touchStream; split
      · exact ⟨rfl⟩
      · exact Filled.refl s
    · split
      · exact Filled.refl s
      · dsimp only
        split
        · exact (filled_fillDie r s).trans ⟨rfl⟩
        · exact filled_fillDie r s

/-- A read performed at once. -/
theorem performNow_read {r : Req} {s : State} (g : s.Performs r) (hk : r.kind = .read) :
    ∃ t, s.performNow r = (t, .value (s.readValue r)) ∧ Filled s t := by
  refine ⟨(s.fillLines r).countMiss r (s.missesL2 r), ?_, ?_⟩
  · unfold State.performNow
    simp only [g.first, g.ageFirst, g.row, g.tile, Req.writes, hk]
    simp
  · refine (fillLines_rest r s).trans ?_
    unfold State.countMiss; split
    · exact ⟨rfl⟩
    · exact Filled.refl _

/-- R226: an element of a command read at once: the bytes stand in the place under their index, and the command has counted it. -/
theorem readElem_reads {p space size idx : Nat} {a : Int} {form : AccForm} {l : Loc} {s : State}
    (h : s.Reads p space a size idx form l) (hf : form ≠ .syncRead) (ok : Place → Place)  :
    ∃ y : Place, Stepped p (ok y) s (s.readElem s.site.elem p space a size idx form ok) ∧
      SameBytes s (s.readElem s.site.elem p space a size idx form ok) ∧
      y.got = (s.place s.site.elem p).got.put idx (BitVec.ofNat 512 (s.valueAt p a size idx l)) ∧
      { y with got := (s.place s.site.elem p).got, vas := (s.place s.site.elem p).vas, full := (s.place s.site.elem p).full } = s.place s.site.elem p := by
  have hb : (decide (space = 4) && (s.spillBlocks s.site.elem p a.toNat size ||
      s.walkWaits (.age s.site.elem) (dieOf (panelOf s.site.elem)) (s.strand (s.place s.site.elem p).strand).job a.toNat)) = false := by
    by_cases h4 : space = 4
    · simp [h.unblocked h4, h.walk h4]
    · simp [h4]
  have hsync : (form == AccForm.syncRead) = false := by simpa using hf
  generalize hs1 : (if l.virt then ((s.cacheLeaf (.age s.site.elem) (dieOf (panelOf s.site.elem)) (s.strand (s.place s.site.elem p).strand).job a.toNat).heatTouch s.site.elem (s.strand (s.place s.site.elem p).strand).job a.toNat) else s) = s1
  have M : SameMemory s s1 := by
    rw [← hs1]; split
    · have hc := sameMemory_cacheLeaf (.age s.site.elem) (dieOf (panelOf s.site.elem)) (s.strand (s.place s.site.elem p).strand).job a.toNat s
      refine hc.trans (heatTouch_empty ?_)
      have := congrArg (fun x : Elem => x) (hc.elems s.site.elem)
      have h2 : (s.cacheLeaf (.age s.site.elem) (dieOf (panelOf s.site.elem)) (s.strand (s.place s.site.elem p).strand).job a.toNat).elem s.site.elem = s.elem s.site.elem := by
        unfold State.cacheLeaf; split
        · split <;> rfl
        · rfl
      rw [h2]; exact h.heat
    · exact SameMemory.refl s
  obtain ⟨t, ht, ⟨hrest⟩⟩ := performNow_read (M.performs h.performs) rfl
  have hval : s1.readValue (s.placeReq s.site.elem p idx l a.toNat size .read 0) = s.valueAt p a size idx l := M.readValue _
  have hsite : t.site = s.site := (congrArg State.site hrest).trans M.site
  have htp (e q : Nat) : t.place e q = s.place e q := by
    have h1 := congrArg State.elems hrest
    have h2 := M.places e q
    unfold State.place State.elem at *
    rw [show t.elems = s1.elems from h1]; exact h2
  have hexec : s.readElem s.site.elem p space a size idx form ok =
      ((t.answer (s.placeReq s.site.elem p idx l a.toNat size .read 0) (s.valueAt p a size idx l)).updPlace s.site.elem p (fun x =>
        ok { x with vas := if l.virt then x.vas.put idx a.toNat else x.vas })).activity s.site.elem := by
    unfold State.readElem
    simp only [hb, h.reached, h.good, hsync, h.prompt, Bool.false_eq_true, if_false, Bool.not_true, Bool.false_and, hs1, ht, hval]
  generalize hr : s.placeReq s.site.elem p idx l a.toNat size .read 0 = r at hexec
  have hdest : r.dest = .elem s.site.elem p idx := by rw [← hr]; rfl
  generalize hv : s.valueAt p a size idx l = v at hexec
  obtain ⟨y1, hy1, hg1, hk1, hu⟩ : ∃ y1 : Place, t.answer r v = t.setPlace s.site.elem p y1 ∧ y1.got = (s.place s.site.elem p).got.put idx (BitVec.ofNat 512 v) ∧
      { y1 with got := (s.place s.site.elem p).got, full := (s.place s.site.elem p).full } = s.place s.site.elem p ∧ True := by
    refine ⟨{ s.place s.site.elem p with got := (s.place s.site.elem p).got.put idx (BitVec.ofNat 512 v), full := if r.virt && r.regionKind == 1 then (s.place s.site.elem p).full.put idx (BitVec.ofNat 8 (packBits 1 ((wordsOf r.home r.size).map (fun w => if t.isFull w then 1 else 0)))) else (s.place s.site.elem p).full }, ?_, rfl, rfl, trivial⟩
    unfold State.answer
    simp only [hdest, updPlace_eq, htp]
  rw [hexec, hy1]
  have hs : t.setPlace s.site.elem p y1 = t.setPlace t.site.elem p y1 := by rw [hsite]
  have hplace : (t.setPlace s.site.elem p y1).place s.site.elem p = y1 := by rw [place_setPlace]; simp
  refine ⟨{ y1 with vas := if l.virt then y1.vas.put idx a.toNat else y1.vas }, ?_, ?_, hg1, ?_⟩
  · refine Stepped.activity ⟨?_, fun e q hq => ?_, fun k => ?_, ?_⟩ _
    · rw [updPlace_eq, place_setPlace, hplace]; simp
    · have hne : ¬ (e = s.site.elem ∧ q = p) := by rintro ⟨rfl, rfl⟩; simp at hq
      rw [updPlace_eq, place_setPlace, if_neg hne, place_setPlace, if_neg hne, htp]
    · have h1 := congrArg State.strands hrest
      have h2 := M.strands
      show { State.strand t k with quiet := 0 } = _
      unfold State.strand
      rw [show t.strands = s1.strands from h1, h2]
    · have h1 := congrArg State.full hrest
      have h2 := M.full
      exact (show t.full = s1.full from h1).trans h2
  · intro b
    rw [activity_mem]
    have h1 := congrArg State.mem hrest
    show memGet t.mem b = _
    rw [show t.mem = s1.mem from h1, M.mem]
  · rw [← hk1]

end Sys2Proof.Machine
end

