-- ==== Sys2Proof/Laws/Forms.lean ====
section
/-!
SUPPORT. The shared forms of element instructions: what each does when its operands stand ready.
-/

namespace Sys2Proof.Machine

/-- R133: one-beat DATA tokens at every head. -/
theorem heads_data {el : Elem} {ports : List Nat} (h : el.rowsAt ports) : el.heads ports = .data := by
  have h1 : ports.any (fun p => (el.head p).isNone) = false := by
    rw [List.any_eq_false]
    intro p hp
    obtain ⟨t, ht, -⟩ := h p hp
    simp [ht]
  have h2 : (ports.filterMap (fun p => (el.head p).map (fun t => (p, t)))).find? (fun x => x.2.kind.isControl) = none := by
    rw [List.find?_eq_none]
    intro x hx
    obtain ⟨p, hp, hx⟩ := List.mem_filterMap.mp hx
    obtain ⟨t, ht, hk, -⟩ := h p hp
    simp only [ht, Option.map_some, Option.some.injEq] at hx
    subst hx
    simp [hk, TokKind.isControl]
  unfold Elem.heads
  simp only [h1, h2, Bool.false_eq_true, if_false]

/-- R186: none of them is a tile token. -/
theorem shapes_ok {el : Elem} {ports : List Nat} (h : el.rowsAt ports) : el.wrongShape ports true = none := by
  unfold Elem.wrongShape
  rw [List.find?_eq_none]
  intro p hp
  obtain ⟨t, ht, -, hs⟩ := h p hp
  simp [ht, hs]

theorem toPorts_room (e : Elem) (m : BitVec 8) (t u : Token) : e.roomFor (toPorts m t) = e.roomFor (toPorts m u) := by
  have hc : ∀ p, countPort p (toPorts m t) = countPort p (toPorts m u) := by
    intro p
    simp only [countPort, toPorts]
    induction maskPorts m with
    | nil => rfl
    | cons a r ih => simp only [List.map_cons, List.filter_cons]; split <;> simp_all
  simp only [Elem.roomFor, hc]
  simp [toPorts, List.all_map, Function.comp_def]

theorem toPorts_admits (e : Elem) (m : BitVec 8) (r q : Row) :
    e.admits (toPorts m (Token.dat r)) = e.admits (toPorts m (Token.dat q)) := by
  have hf : e.portsFree (toPorts m (Token.dat r)) = e.portsFree (toPorts m (Token.dat q)) := by
    simp only [Elem.portsFree, toPorts, List.all_map, Function.comp_def]
  have ha : ∀ n, e.age.bridle.admitsFrom n (toPorts m (Token.dat r)) = e.age.bridle.admitsFrom n (toPorts m (Token.dat q)) := by
    unfold toPorts
    induction maskPorts m with
    | nil => intro n; rfl
    | cons p l ih => intro n; simp only [List.map_cons, Bridle.admitsFrom, ih]; rfl
  rw [Elem.admits, Elem.admits, hf, ha]

theorem CanFire.dat {code : Nat} {sl : Slot} {source : Bool} {s : State} {m : BitVec 8} {q : Row}
    (h : CanFire code sl source (toPorts m (Token.dat q)) s) (r : Row) :
    CanFire code sl source (toPorts m (Token.dat r)) s :=
  ⟨h.free, h.tile, by rw [toPorts_room _ _ _ (Token.dat q)]; exact h.room, by rw [toPorts_admits _ _ _ q]; exact h.admits, h.good⟩

/-- The parts of an element that no operand form moves. -/
def Elem.lanes (e : Elem) : Tab (List InTok) × Tab Route := (e.chans, e.routes)

theorem tileWrite_lanes (n : Nat) (sl : Slot) (r : Row) (e : Elem) : (e.tileWrite n sl r).lanes = e.lanes := by
  unfold Elem.tileWrite; dsimp only; split
  · rfl
  · split <;> rfl

theorem tick_lanes (n : Nat) (e : Elem) : (e.tick n).lanes = e.lanes := rfl

/-- R126-R133: the row form fires with the row that `f` gives, when it leaves the element as it was. -/
theorem fireSlot_rowForm {code : Nat} {sl : Slot} {b : Nat} {rows : List Row} {s : State} (f : Elem → List Row → Row × Elem)
    (h : RowReady code sl b rows s) (hf : (f (s.elem s.site.elem) rows).2 = s.elem s.site.elem) :
    ∃ t, s.fireSlot code sl false (s.rowForm code sl b f) = .next t ∧ RowFired code sl (f (s.elem s.site.elem) rows).1 s t := by
  have hg : s.rowForm code sl b f = .go { eat := slotChannels code sl, out := toPorts sl.outmask (Token.dat (f (s.elem s.site.elem) rows).1), elem := ((s.elem s.site.elem).tileWrite s.site.slot sl (f (s.elem s.site.elem) rows).1).tick s.site.slot } := by
    unfold State.rowForm
    simp only [heads_data h.heads, shapes_ok h.heads, h.operands, hf]
  rw [hg]
  have hl := tileWrite_lanes s.site.slot sl (f (s.elem s.site.elem) rows).1 (s.elem s.site.elem)
  obtain ⟨t, ht, hfr, hb⟩ := fireSlot_go (eff := { eat := slotChannels code sl, out := toPorts sl.outmask (Token.dat (f (s.elem s.site.elem) rows).1), elem := ((s.elem s.site.elem).tileWrite s.site.slot sl (f (s.elem s.site.elem) rows).1).tick s.site.slot })
    (h.fire.dat _) rfl (congrArg Prod.fst hl) (congrArg Prod.snd hl)
  exact ⟨t, ht, hfr, hb⟩

/-- R136: an FP form. -/
theorem fpForm_fires {code : Nat} {sl : Slot} {rows : List Row} {s : State} {t : FFmt} (f : FFmt → Nat → Nat → Nat → Nat)
    (hn : numOf (s.elem s.site.elem).fmt = some (.flt t)) (h : RowReady code sl t.bits rows s) :
    ∃ u, s.fpForm code sl f = .next u ∧ RowFired code sl (laneWise code sl t.bits (f t) rows) s u := by
  unfold State.fpForm
  simp only [hn]
  exact fireSlot_rowForm (fun el rows => (laneWise code sl t.bits (f t) rows, el)) h rfl

/-- R141: an integer form. -/
theorem intForm_fires {code : Nat} {sl : Slot} {rows : List Row} {s : State} {t : IFmt} (f : IFmt → Nat → Nat → Nat → Nat)
    (hn : numOf (s.elem s.site.elem).fmt = some (.int t)) (h : RowReady code sl t.n rows s) :
    ∃ u, s.intForm code sl f = .next u ∧ RowFired code sl (laneWise code sl t.n (f t) rows) s u := by
  unfold State.intForm
  simp only [hn]
  exact fireSlot_rowForm (fun el rows => (laneWise code sl t.n (f t) rows, el)) h rfl

/-- R141: a form on bit patterns. -/
theorem bitForm_fires {code : Nat} {sl : Slot} {rows : List Row} {s : State} {t : Num} (f : Nat → Nat → Nat → Nat)
    (hn : numOf (s.elem s.site.elem).fmt = some t) (h : RowReady code sl t.bits rows s) :
    ∃ u, s.bitForm code sl f = .next u ∧ RowFired code sl (laneWise code sl t.bits f rows) s u := by
  unfold State.bitForm
  simp only [hn]
  exact fireSlot_rowForm (fun el rows => (laneWise code sl t.bits f rows, el)) h rfl

end Sys2Proof.Machine
end

