-- ==== Sys2Proof/Laws/Memory.lean ====
section
/-!
SUPPORT. The laws of the one list of bytes: its canonical form as a plain condition, every operation over memory keeps that form, and what a
byte reads as after a write.
-/

namespace Sys2Proof.Machine

/-- The canonical form, said plainly: addresses rise strictly, and no listed byte is zero. -/
theorem Memory.wf_iff (m : List Host.Cell) :
    Memory.wf m = true ↔ m.Pairwise (fun a b => a.1 < b.1) ∧ ∀ c ∈ m, c.2 ≠ 0 := by
  induction m with
  | nil => simp [Memory.wf]
  | cons x r ih =>
    obtain ⟨a, v⟩ := x
    cases r with
    | nil => simp [Memory.wf]
    | cons y r =>
      obtain ⟨b, w⟩ := y
      simp only [Memory.wf, Bool.and_eq_true, decide_eq_true_eq, bne_iff_ne, ne_eq, ih]
      constructor
      · rintro ⟨⟨h1, h2⟩, hp, hz⟩
        refine ⟨List.pairwise_cons.2 ⟨?_, hp⟩, ?_⟩
        · intro c hc
          rcases List.mem_cons.1 hc with rfl | hc
          · exact h1
          · exact Nat.lt_trans h1 ((List.pairwise_cons.1 hp).1 c hc)
        · intro c hc
          rcases List.mem_cons.1 hc with rfl | hc
          · exact h2
          · exact hz c hc
      · rintro ⟨hp, hz⟩
        obtain ⟨hp1, hp2⟩ := List.pairwise_cons.1 hp
        exact ⟨⟨hp1 _ (.head _), hz _ (.head _)⟩, hp2, fun c hc => hz c (.tail _ hc)⟩

/-- An entry of a table after a value is put at a key is that value, or was an entry. -/
theorem Tab.mem_put {α : Type} {t : Tab α} {k : Nat} {v : α} {c : Nat × α} (h : c ∈ t.put k v) : c = (k, v) ∨ c ∈ t := by
  induction t with
  | nil => simpa [Tab.put] using h
  | cons x r ih =>
    obtain ⟨j, w⟩ := x
    simp only [Tab.put] at h
    split at h
    · simpa using h
    · split at h
      · rcases List.mem_cons.1 h with rfl | h
        · exact .inl rfl
        · exact .inr (.tail _ h)
      · rcases List.mem_cons.1 h with rfl | h
        · exact .inr (.head _)
        · exact (ih h).imp id (.tail _)

/-- A value put at a key keeps the keys rising. -/
theorem Tab.pairwise_put {α : Type} (t : Tab α) (k : Nat) (v : α) (h : t.Pairwise (fun a b => a.1 < b.1)) :
    (t.put k v).Pairwise (fun a b => a.1 < b.1) := by
  induction t with
  | nil => simp [Tab.put]
  | cons x r ih =>
    obtain ⟨j, w⟩ := x
    obtain ⟨h1, h2⟩ := List.pairwise_cons.1 h
    simp only [Tab.put]
    split
    · next hk =>
      refine List.pairwise_cons.2 ⟨fun c hc => ?_, h⟩
      rcases List.mem_cons.1 hc with rfl | hc
      · exact hk
      · exact Nat.lt_trans hk (h1 c hc)
    · split
      · next hk => subst hk; exact List.pairwise_cons.2 ⟨h1, h2⟩
      · next hk hk' =>
        refine List.pairwise_cons.2 ⟨fun c hc => ?_, ih h2⟩
        rcases Tab.mem_put hc with rfl | hc
        · simp only; omega
        · exact h1 c hc

/-- A deleted key leaves a part of the table. -/
theorem Tab.sublist_del {α : Type} (t : Tab α) (k : Nat) : (t.del k).Sublist t := by
  induction t with
  | nil => exact .slnil
  | cons x r ih =>
    obtain ⟨j, w⟩ := x
    simp only [Tab.del]
    split
    · exact .cons _ ih
    · exact .cons_cons _ ih

/-- A part of a memory in canonical form is in canonical form. -/
theorem Memory.wf_sublist {m n : List Host.Cell} (h : n.Sublist m) (hm : Memory.wf m = true) : Memory.wf n = true := by
  rw [Memory.wf_iff] at *
  exact ⟨hm.1.sublist h, fun c hc => hm.2 c (h.subset hc)⟩

/-- One byte written keeps the form. -/
theorem memPut_wf {m : List Host.Cell} (a : Nat) (v : Byte) (h : Memory.wf m = true) : Memory.wf (memPut m a v) = true := by
  unfold memPut
  split
  · exact Memory.wf_sublist (Tab.sublist_del m a) h
  · next hv =>
    rw [Memory.wf_iff] at *
    refine ⟨Tab.pairwise_put m a v h.1, fun c hc => ?_⟩
    rcases Tab.mem_put hc with rfl | hc
    · exact hv
    · exact h.2 c hc

/-- Bytes written keep the form. -/
theorem memStore_wf (bs : List Byte) {m : List Host.Cell} (a : Nat) (h : Memory.wf m = true) : Memory.wf (memStore m a bs) = true := by
  induction bs generalizing m a with
  | nil => exact h
  | cons b r ih => exact ih (a + 1) (memPut_wf a b h)

/-- Bytes set to zero keep the form. -/
theorem memZero_wf {m : List Host.Cell} (a n : Nat) (h : Memory.wf m = true) : Memory.wf (memZero m a n) = true :=
  Memory.wf_sublist List.filter_sublist h

/-- A masked store keeps the form. -/
theorem maskedStore_wf (n : Nat) {m : List Host.Cell} (a v k : Nat) (h : Memory.wf m = true) :
    Memory.wf (maskedStore m a n v k) = true := by
  induction n generalizing m a v k with
  | zero => exact h
  | succ n ih =>
    simp only [maskedStore]
    split
    · exact ih _ _ _ (memPut_wf a _ h)
    · exact ih _ _ _ h

/-- A number stored keeps the form. -/
theorem poke_memWf (a n v : Nat) {s : State} (h : Memory.wf s.mem = true) : Memory.wf (s.poke a n v).mem = true := memStore_wf _ _ h

/-- Memory after reset is in canonical form. -/
theorem reset_wf : Memory.wf State.reset.mem = true := rfl

/-- What any byte reads as after one is written. -/
theorem memGet_memPut (m : List Host.Cell) (a b : Nat) (v : Byte) : memGet (memPut m a v) b = if b = a then v else memGet m b := by
  unfold memGet memPut
  split
  · next hv => subst hv; rw [Tab.look_del]
  · rw [Tab.look_put]

/-- What any byte reads as after bytes are written from a up. -/
theorem memGet_memStore (bs : List Byte) (m : List Host.Cell) (a b : Nat) :
    memGet (memStore m a bs) b = if a ≤ b ∧ b < a + bs.length then bs.getD (b - a) 0 else memGet m b := by
  induction bs generalizing m a with
  | nil => rw [memStore, if_neg (by simp only [List.length_nil]; omega)]
  | cons v r ih =>
    rw [memStore, ih, memGet_memPut]
    by_cases h1 : b = a
    · subst h1; rw [if_neg (by omega), if_pos rfl, if_pos (by simp only [List.length_cons]; omega)]; simp
    · by_cases h2 : a + 1 ≤ b ∧ b < a + 1 + r.length
      · rw [if_pos h2, if_pos (by simp only [List.length_cons]; omega)]
        have : b - a = (b - (a + 1)) + 1 := by omega
        rw [this]; simp
      · rw [if_neg h2, if_neg h1, if_neg (by simp only [List.length_cons]; omega)]

/-- What any byte reads as after a run of zeros. -/
theorem memGet_memZero (m : List Host.Cell) (a n b : Nat) :
    memGet (memZero m a n) b = if a ≤ b ∧ b < a + n then 0 else memGet m b := by
  unfold memGet memZero
  induction m with
  | nil => simp [Tab.look]
  | cons x r ih =>
    obtain ⟨j, w⟩ := x
    simp only [List.filter_cons, Tab.look]
    split
    · next h =>
      simp only [Bool.not_eq_true', Bool.and_eq_false_iff, decide_eq_false_iff_not] at h
      simp only [Tab.look]
      split
      · next hj => subst hj; rw [if_neg (by omega)]
      · exact ih
    · next h =>
      simp only [Bool.not_eq_true', Bool.and_eq_false_iff, decide_eq_false_iff_not, not_or, Decidable.not_not] at h
      rw [ih]
      split
      · rfl
      · split
        · next hj => subst hj; omega
        · rfl

/-- The bytes of a number are as many as asked. -/
@[simp] theorem length_toBytes (n v : Nat) : (toBytes n v).length = n := by
  induction n generalizing v with
  | zero => rfl
  | succ n ih => simp [toBytes, ih]

/-- A number stored changes no byte outside its own. -/
theorem memGet_poke_outside (a n v b : Nat) (s : State) (h : b < a ∨ a + n ≤ b) : memGet (s.poke a n v).mem b = memGet s.mem b := by
  simp only [State.poke, memGet_memStore, length_toBytes]
  rw [if_neg (by omega)]

/-- The n bytes read are as many as asked. -/
@[simp] theorem length_memBytes (m : List Host.Cell) (a n : Nat) : (memBytes m a n).length = n := by
  induction n generalizing a with
  | zero => rfl
  | succ n ih => simp [memBytes, ih]

/-- Bytes written are the bytes then read there. -/
theorem memBytes_memStore (bs : List Byte) (m : List Host.Cell) (a : Nat) : memBytes (memStore m a bs) a bs.length = bs := by
  have h : ∀ (n k : Nat) (m' : List Host.Cell), (∀ i, i < n → memGet m' (a + k + i) = bs.getD (k + i) 0) →
      memBytes m' (a + k) n = (List.range n).map (fun i => bs.getD (k + i) 0) := by
    intro n
    induction n with
    | zero => intros; rfl
    | succ n ih =>
      intro k m' hm
      have h0 := hm 0 (Nat.succ_pos n)
      have hr := ih (k + 1) m' (fun i hi => by
        have := hm (i + 1) (Nat.succ_lt_succ hi)
        rwa [show a + k + (i + 1) = a + (k + 1) + i by omega, show k + (i + 1) = k + 1 + i by omega] at this)
      simp only [memBytes, List.range_succ_eq_map, List.map_cons, List.map_map]
      simp only [Nat.add_zero] at h0
      rw [h0, show a + k + 1 = a + (k + 1) by omega, hr]
      simp only [Nat.add_zero, List.cons.injEq, true_and]
      apply List.map_congr_left
      intro i _
      simp only [Function.comp, show k + 1 + i = k + (i + 1) by omega]
  have h1 := h bs.length 0 (memStore m a bs) (fun i hi => by
    rw [memGet_memStore, if_pos (by omega)]
    congr 1; omega)
  simp only [Nat.add_zero, Nat.zero_add] at h1
  rw [h1]
  apply List.ext_getElem
  · simp
  · intro i h2 h3
    simp [List.getD_eq_getElem?_getD, h3]

/-- R4: the number that the bytes of a number hold. -/
theorem ofBytes_toBytes (n v : Nat) : ofBytes (toBytes n v) = v % 2^(8 * n) := by
  induction n generalizing v with
  | zero => simp [toBytes, ofBytes, Nat.mod_one]
  | succ n ih =>
    simp only [toBytes, ofBytes, ih, BitVec.toNat_ofNat]
    rw [show 2^(8 * (n + 1)) = 2^8 * 2^(8 * n) by rw [Nat.mul_add, Nat.pow_add, Nat.mul_comm]]
    exact (Nat.mod_mul).symm

/-- A number stored is the number then read there. -/
theorem peek_poke (a n v : Nat) (s : State) : (s.poke a n v).peek a n = v % 2^(8 * n) := by
  have := memBytes_memStore (toBytes n v) s.mem a
  rw [length_toBytes] at this
  rw [State.peek, State.poke, this, ofBytes_toBytes]

end Sys2Proof.Machine
end

