-- ==== Sys2Proof/Laws/PerInstr.lean ====
section
/-!
SUPPORT. Per instruction: the word that an instruction encodes to has the length of its layer, 32, 64 or 128 bits.
-/

namespace Sys2Proof.Laws.WordFits

/-- The word of an instruction lies in the number of bits that its layer gives it (R38, R47, R57, R60). -/
def Statement (i : Instr) : Prop := ∀ n w, encode i = some (n, w) → w < 2 ^ n

theorem of_seq {i : Instr} {w : Nat} (h : encodeSeq i = some w) (hw : w < 2 ^ 32) : Statement i := by
  intro n v e
  simp only [encode, h, Option.some.injEq, Prod.mk.injEq] at e
  obtain ⟨rfl, rfl⟩ := e
  exact hw

theorem of_bank {i : Instr} {w : Nat} (h : encodeSeq i = none) (hb : encodeBank i = some w) (hw : w < 2 ^ 64) :
    Statement i := by
  intro n v e
  simp only [encode, h, hb, Option.some.injEq, Prod.mk.injEq] at e
  obtain ⟨rfl, rfl⟩ := e
  exact hw

theorem slotFields_lt (code : Nat) (sl : Slot) (h : code < 256) : encodeSlotFields code sl < 2 ^ 64 := by
  unfold encodeSlotFields
  have := sl.mod.isLt; have := sl.in0.isLt; have := sl.in1.isLt; have := sl.in2.isLt
  have := sl.outmask.isLt; have := sl.tw.isLt; have := sl.imm.isLt
  omega

theorem cmdFields_lt (op : Nat) (c : Cmd) (h : op < 256) : encodeCmdFields op c < 2 ^ 128 := by
  unfold encodeCmdFields
  have := c.fused.isLt; have := c.size.isLt; have := c.space.isLt; have := c.port.isLt; have := c.reply.isLt
  have := c.count.isLt; have := c.addr.isLt; have := c.flags.isLt
  omega

theorem of_slot {i : Instr} {code : Nat} {sl : Slot} (h : encodeSeq i = none) (hb : encodeBank i = none)
    (hs : i.slotCode = some (code, sl)) (hc : code < 256) : Statement i := by
  intro n v e
  simp only [encode, h, hb, encodeSlot, hs, Option.map_some, Option.some.injEq, Prod.mk.injEq] at e
  obtain ⟨rfl, rfl⟩ := e
  exact slotFields_lt code sl hc

theorem of_cmd {i : Instr} {op : Nat} {c : Cmd} (h : encodeSeq i = none) (hb : encodeBank i = none)
    (hs : i.slotCode = none) (hk : i.cmdCode = some (op, c)) (hc : op < 256) : Statement i := by
  intro n v e
  simp only [encode, h, hb, encodeSlot, hs, encodeCmd, hk, Option.map_some, Option.map_none, Option.some.injEq, Prod.mk.injEq] at e
  obtain ⟨rfl, rfl⟩ := e
  exact cmdFields_lt op c hc

/-- An event of the package has no word. -/
theorem of_event {i : Instr} (h : encode i = none) : Statement i := by
  intro n w e
  simp [h] at e

theorem regs3_lt (b : Nat) (d x y : Reg) (h : b < 2 ^ 32 - 2 ^ 26) : regs3 b d x y < 2 ^ 32 := by
  have := d.isLt; have := x.isLt; have := y.isLt; unfold regs3; omega
theorem regs2_lt (b : Nat) (d x : Reg) (v : BitVec 16) (h : b < 2 ^ 32 - 2 ^ 26) : regs2 b d x v < 2 ^ 32 := by
  have := d.isLt; have := x.isLt; have := v.isLt; unfold regs2; omega
theorem regsSh_lt (b : Nat) (d x : Reg) (v : BitVec 6) (h : b < 2 ^ 32 - 2 ^ 26) : regsSh b d x v < 2 ^ 32 := by
  have := d.isLt; have := x.isLt; have := v.isLt; unfold regsSh; omega
theorem regsField_lt (b : Nat) (d x : Reg) (p v : BitVec 6) (h : b < 2 ^ 32 - 2 ^ 26) : regsField b d x p v < 2 ^ 32 := by
  have := d.isLt; have := x.isLt; have := p.isLt; have := v.isLt; unfold regsField; omega
theorem qcWord_lt (b : Nat) (c : Qc) (h : b < 2 ^ 32 - 2 ^ 26) : qcWord b c < 2 ^ 32 := by
  have := c.xs.isLt; have := c.row.isLt; have := c.wait.isLt; have := c.token.isLt; have := Bool.toNat_le c.named
  unfold qcWord; omega

theorem scope_code_le (s : Scope) : s.code ≤ 4 := by cases s <;> decide
theorem sysReg_code_le (r : SysReg) : r.code ≤ 33 := by
  cases r with
  | ic n => have := n.isLt; show 0x010 + n.toNat ≤ 33; omega
  | _ => decide

theorem add (d a b : Reg) : Statement (.add d a b) := of_seq rfl (regs3_lt _ _ _ _ (by decide))
theorem sub (d a b : Reg) : Statement (.sub d a b) := of_seq rfl (regs3_lt _ _ _ _ (by decide))
theorem mul (d a b : Reg) : Statement (.mul d a b) := of_seq rfl (regs3_lt _ _ _ _ (by decide))
theorem mulh (d a b : Reg) : Statement (.mulh d a b) := of_seq rfl (regs3_lt _ _ _ _ (by decide))
theorem mulhu (d a b : Reg) : Statement (.mulhu d a b) := of_seq rfl (regs3_lt _ _ _ _ (by decide))
theorem div (d a b : Reg) : Statement (.div d a b) := of_seq rfl (regs3_lt _ _ _ _ (by decide))
theorem divu (d a b : Reg) : Statement (.divu d a b) := of_seq rfl (regs3_lt _ _ _ _ (by decide))
theorem rem (d a b : Reg) : Statement (.rem d a b) := of_seq rfl (regs3_lt _ _ _ _ (by decide))
theorem remu (d a b : Reg) : Statement (.remu d a b) := of_seq rfl (regs3_lt _ _ _ _ (by decide))
theorem and (d a b : Reg) : Statement (.and d a b) := of_seq rfl (regs3_lt _ _ _ _ (by decide))
theorem or (d a b : Reg) : Statement (.or d a b) := of_seq rfl (regs3_lt _ _ _ _ (by decide))
theorem xor (d a b : Reg) : Statement (.xor d a b) := of_seq rfl (regs3_lt _ _ _ _ (by decide))
theorem andn (d a b : Reg) : Statement (.andn d a b) := of_seq rfl (regs3_lt _ _ _ _ (by decide))
theorem shl (d a b : Reg) : Statement (.shl d a b) := of_seq rfl (regs3_lt _ _ _ _ (by decide))
theorem shr (d a b : Reg) : Statement (.shr d a b) := of_seq rfl (regs3_lt _ _ _ _ (by decide))
theorem sar (d a b : Reg) : Statement (.sar d a b) := of_seq rfl (regs3_lt _ _ _ _ (by decide))
theorem min (d a b : Reg) : Statement (.min d a b) := of_seq rfl (regs3_lt _ _ _ _ (by decide))
theorem max (d a b : Reg) : Statement (.max d a b) := of_seq rfl (regs3_lt _ _ _ _ (by decide))
theorem minu (d a b : Reg) : Statement (.minu d a b) := of_seq rfl (regs3_lt _ _ _ _ (by decide))
theorem maxu (d a b : Reg) : Statement (.maxu d a b) := of_seq rfl (regs3_lt _ _ _ _ (by decide))
theorem slt (d a b : Reg) : Statement (.slt d a b) := of_seq rfl (regs3_lt _ _ _ _ (by decide))
theorem sltu (d a b : Reg) : Statement (.sltu d a b) := of_seq rfl (regs3_lt _ _ _ _ (by decide))
theorem seq (d a b : Reg) : Statement (.seq d a b) := of_seq rfl (regs3_lt _ _ _ _ (by decide))
theorem clz (d a : Reg) : Statement (.clz d a) := of_seq rfl (regs3_lt _ _ _ _ (by decide))
theorem ctz (d a : Reg) : Statement (.ctz d a) := of_seq rfl (regs3_lt _ _ _ _ (by decide))
theorem popc (d a : Reg) : Statement (.popc d a) := of_seq rfl (regs3_lt _ _ _ _ (by decide))
theorem amadd (d a b : Reg) : Statement (.amadd d a b) := of_seq rfl (regs3_lt _ _ _ _ (by decide))
theorem amswp (d a b : Reg) : Statement (.amswp d a b) := of_seq rfl (regs3_lt _ _ _ _ (by decide))
theorem amcas (d a b : Reg) : Statement (.amcas d a b) := of_seq rfl (regs3_lt _ _ _ _ (by decide))
theorem ammax (d a b : Reg) : Statement (.ammax d a b) := of_seq rfl (regs3_lt _ _ _ _ (by decide))
theorem cfgld (a : Reg) : Statement (.cfgld a) := of_seq rfl (regs3_lt _ _ _ _ (by decide))
theorem qpush (a b : Reg) : Statement (.qpush a b) := of_seq rfl (regs3_lt _ _ _ _ (by decide))
theorem qpushWt (a b : Reg) : Statement (.qpushWt a b) := of_seq rfl (regs3_lt _ _ _ _ (by decide))
theorem qpop (d a : Reg) : Statement (.qpop d a) := of_seq rfl (regs3_lt _ _ _ _ (by decide))
theorem qtry (d a : Reg) : Statement (.qtry d a) := of_seq rfl (regs3_lt _ _ _ _ (by decide))
theorem spawn (a b : Reg) : Statement (.spawn a b) := of_seq rfl (regs3_lt _ _ _ _ (by decide))
theorem qroot (d : Reg) : Statement (.qroot d) := of_seq rfl (regs3_lt _ _ _ _ (by decide))
theorem wret (a : Reg) : Statement (.wret a) := of_seq rfl (regs3_lt _ _ _ _ (by decide))
theorem waitq (a : Reg) : Statement (.waitq a) := of_seq rfl (regs3_lt _ _ _ _ (by decide))
theorem qchk (d a : Reg) : Statement (.qchk d a) := of_seq rfl (regs3_lt _ _ _ _ (by decide))
theorem bari (a b : Reg) : Statement (.bari a b) := of_seq rfl (regs3_lt _ _ _ _ (by decide))
theorem bara (a : Reg) : Statement (.bara a) := of_seq rfl (regs3_lt _ _ _ _ (by decide))
theorem barx (a b : Reg) : Statement (.barx a b) := of_seq rfl (regs3_lt _ _ _ _ (by decide))
theorem barw (a : Reg) : Statement (.barw a) := of_seq rfl (regs3_lt _ _ _ _ (by decide))
theorem fence (scope : Scope) : Statement (.fence scope) := of_seq rfl (by have := scope_code_le scope; omega)
theorem trap (a : Reg) : Statement (.trap a) := of_seq rfl (regs3_lt _ _ _ _ (by decide))
theorem jr (a : Reg) : Statement (.jr a) := of_seq rfl (regs3_lt _ _ _ _ (by decide))
theorem addi (d a : Reg) (imm : BitVec 16) : Statement (.addi d a imm) := of_seq rfl (regs2_lt _ _ _ _ (by decide))
theorem andi (d a : Reg) (imm : BitVec 16) : Statement (.andi d a imm) := of_seq rfl (regs2_lt _ _ _ _ (by decide))
theorem ori (d a : Reg) (imm : BitVec 16) : Statement (.ori d a imm) := of_seq rfl (regs2_lt _ _ _ _ (by decide))
theorem xori (d a : Reg) (imm : BitVec 16) : Statement (.xori d a imm) := of_seq rfl (regs2_lt _ _ _ _ (by decide))
theorem shli (d a : Reg) (sh : BitVec 6) : Statement (.shli d a sh) := of_seq rfl (regsSh_lt _ _ _ _ (by decide))
theorem shri (d a : Reg) (sh : BitVec 6) : Statement (.shri d a sh) := of_seq rfl (regsSh_lt _ _ _ _ (by decide))
theorem sari (d a : Reg) (sh : BitVec 6) : Statement (.sari d a sh) := of_seq rfl (regsSh_lt _ _ _ _ (by decide))
theorem slti (d a : Reg) (imm : BitVec 16) : Statement (.slti d a imm) := of_seq rfl (regs2_lt _ _ _ _ (by decide))
theorem lih (d : Reg) (q : BitVec 2) (imm : BitVec 16) : Statement (.lih d q imm) := of_seq rfl (by have := d.isLt; have := q.isLt; have := imm.isLt; omega)
theorem bfx (d a : Reg) (pos widthM1 : BitVec 6) : Statement (.bfx d a pos widthM1) := of_seq rfl (regsField_lt _ _ _ _ _ (by decide))
theorem bfxu (d a : Reg) (pos widthM1 : BitVec 6) : Statement (.bfxu d a pos widthM1) := of_seq rfl (regsField_lt _ _ _ _ _ (by decide))
theorem bfi (d a : Reg) (pos widthM1 : BitVec 6) : Statement (.bfi d a pos widthM1) := of_seq rfl (regsField_lt _ _ _ _ _ (by decide))
theorem mfs (d : Reg) (r : SysReg) : Statement (.mfs d r) := of_seq rfl (by have := d.isLt; have := sysReg_code_le r; omega)
theorem mts (r : SysReg) (a : Reg) : Statement (.mts r a) := of_seq rfl (by have := sysReg_code_le r; have := a.isLt; omega)
theorem waitk (mask : BitVec 8) : Statement (.waitk mask) := of_seq rfl (by have := mask.isLt; omega)
theorem ldb (d a : Reg) (off : BitVec 16) : Statement (.ldb d a off) := of_seq rfl (regs2_lt _ _ _ _ (by decide))
theorem ldh (d a : Reg) (off : BitVec 16) : Statement (.ldh d a off) := of_seq rfl (regs2_lt _ _ _ _ (by decide))
theorem ldw (d a : Reg) (off : BitVec 16) : Statement (.ldw d a off) := of_seq rfl (regs2_lt _ _ _ _ (by decide))
theorem ldd (d a : Reg) (off : BitVec 16) : Statement (.ldd d a off) := of_seq rfl (regs2_lt _ _ _ _ (by decide))
theorem stb (v a : Reg) (off : BitVec 16) : Statement (.stb v a off) := of_seq rfl (regs2_lt _ _ _ _ (by decide))
theorem sth (v a : Reg) (off : BitVec 16) : Statement (.sth v a off) := of_seq rfl (regs2_lt _ _ _ _ (by decide))
theorem stw (v a : Reg) (off : BitVec 16) : Statement (.stw v a off) := of_seq rfl (regs2_lt _ _ _ _ (by decide))
theorem std (v a : Reg) (off : BitVec 16) : Statement (.std v a off) := of_seq rfl (regs2_lt _ _ _ _ (by decide))
theorem ldp (d a : Reg) (off : BitVec 16) : Statement (.ldp d a off) := of_seq rfl (regs2_lt _ _ _ _ (by decide))
theorem stp (v a : Reg) (off : BitVec 16) : Statement (.stp v a off) := of_seq rfl (regs2_lt _ _ _ _ (by decide))
theorem clrp (a : Reg) (off : BitVec 16) : Statement (.clrp a off) := of_seq rfl (regs2_lt _ _ _ _ (by decide))
theorem beq (a b : Reg) (off : BitVec 16) : Statement (.beq a b off) := of_seq rfl (regs2_lt _ _ _ _ (by decide))
theorem bne (a b : Reg) (off : BitVec 16) : Statement (.bne a b off) := of_seq rfl (regs2_lt _ _ _ _ (by decide))
theorem blt (a b : Reg) (off : BitVec 16) : Statement (.blt a b off) := of_seq rfl (regs2_lt _ _ _ _ (by decide))
theorem bge (a b : Reg) (off : BitVec 16) : Statement (.bge a b off) := of_seq rfl (regs2_lt _ _ _ _ (by decide))
theorem bltu (a b : Reg) (off : BitVec 16) : Statement (.bltu a b off) := of_seq rfl (regs2_lt _ _ _ _ (by decide))
theorem bgeu (a b : Reg) (off : BitVec 16) : Statement (.bgeu a b off) := of_seq rfl (regs2_lt _ _ _ _ (by decide))
theorem loopd (n : BitVec 2) (off : BitVec 16) : Statement (.loopd n off) := of_seq rfl (by have := n.isLt; have := off.isLt; omega)
theorem jmp (off : BitVec 26) : Statement (.jmp off) := of_seq rfl (by have := off.isLt; omega)
theorem jal (off : BitVec 26) : Statement (.jal off) := of_seq rfl (by have := off.isLt; omega)
theorem cmd (c : Qc) : Statement (.cmd c) := of_seq rfl (qcWord_lt _ _ (by decide))
theorem cmdnb (c : Qc) : Statement (.cmdnb c) := of_seq rfl (qcWord_lt _ _ (by decide))
theorem fadd (sl : Slot) : Statement (.fadd sl) := of_slot rfl rfl rfl (by decide)
theorem fsub (sl : Slot) : Statement (.fsub sl) := of_slot rfl rfl rfl (by decide)
theorem fmul (sl : Slot) : Statement (.fmul sl) := of_slot rfl rfl rfl (by decide)
theorem ffma (sl : Slot) : Statement (.ffma sl) := of_slot rfl rfl rfl (by decide)
theorem fmin (sl : Slot) : Statement (.fmin sl) := of_slot rfl rfl rfl (by decide)
theorem fmax (sl : Slot) : Statement (.fmax sl) := of_slot rfl rfl rfl (by decide)
theorem fcmp (sl : Slot) : Statement (.fcmp sl) := of_slot rfl rfl rfl (by decide)
theorem frnd (sl : Slot) : Statement (.frnd sl) := of_slot rfl rfl rfl (by decide)
theorem fexpx (sl : Slot) : Statement (.fexpx sl) := of_slot rfl rfl rfl (by decide)
theorem fexpi (sl : Slot) : Statement (.fexpi sl) := of_slot rfl rfl rfl (by decide)
theorem fexp2f (sl : Slot) : Statement (.fexp2f sl) := of_slot rfl rfl rfl (by decide)
theorem frcp (sl : Slot) : Statement (.frcp sl) := of_slot rfl rfl rfl (by decide)
theorem frsq (sl : Slot) : Statement (.frsq sl) := of_slot rfl rfl rfl (by decide)
theorem fclas (sl : Slot) : Statement (.fclas sl) := of_slot rfl rfl rfl (by decide)
theorem iadd (sl : Slot) : Statement (.iadd sl) := of_slot rfl rfl rfl (by decide)
theorem isub (sl : Slot) : Statement (.isub sl) := of_slot rfl rfl rfl (by decide)
theorem imul (sl : Slot) : Statement (.imul sl) := of_slot rfl rfl rfl (by decide)
theorem imad (sl : Slot) : Statement (.imad sl) := of_slot rfl rfl rfl (by decide)
theorem imin (sl : Slot) : Statement (.imin sl) := of_slot rfl rfl rfl (by decide)
theorem imax (sl : Slot) : Statement (.imax sl) := of_slot rfl rfl rfl (by decide)
theorem iand (sl : Slot) : Statement (.iand sl) := of_slot rfl rfl rfl (by decide)
theorem ior (sl : Slot) : Statement (.ior sl) := of_slot rfl rfl rfl (by decide)
theorem ixor (sl : Slot) : Statement (.ixor sl) := of_slot rfl rfl rfl (by decide)
theorem ishl (sl : Slot) : Statement (.ishl sl) := of_slot rfl rfl rfl (by decide)
theorem ishr (sl : Slot) : Statement (.ishr sl) := of_slot rfl rfl rfl (by decide)
theorem isar (sl : Slot) : Statement (.isar sl) := of_slot rfl rfl rfl (by decide)
theorem icmp (sl : Slot) : Statement (.icmp sl) := of_slot rfl rfl rfl (by decide)
theorem iclz (sl : Slot) : Statement (.iclz sl) := of_slot rfl rfl rfl (by decide)
theorem ipopc (sl : Slot) : Statement (.ipopc sl) := of_slot rfl rfl rfl (by decide)
theorem isel (sl : Slot) : Statement (.isel sl) := of_slot rfl rfl rfl (by decide)
theorem cvt (sl : Slot) : Statement (.cvt sl) := of_slot rfl rfl rfl (by decide)
theorem qnt4 (sl : Slot) : Statement (.qnt4 sl) := of_slot rfl rfl rfl (by decide)
theorem dqn4 (sl : Slot) : Statement (.dqn4 sl) := of_slot rfl rfl rfl (by decide)
theorem bfly (sl : Slot) : Statement (.bfly sl) := of_slot rfl rfl rfl (by decide)
theorem rsum (sl : Slot) : Statement (.rsum sl) := of_slot rfl rfl rfl (by decide)
theorem rmax (sl : Slot) : Statement (.rmax sl) := of_slot rfl rfl rfl (by decide)
theorem rmin (sl : Slot) : Statement (.rmin sl) := of_slot rfl rfl rfl (by decide)
theorem scan (sl : Slot) : Statement (.scan sl) := of_slot rfl rfl rfl (by decide)
theorem intsc (sl : Slot) : Statement (.intsc sl) := of_slot rfl rfl rfl (by decide)
theorem union (sl : Slot) : Statement (.union sl) := of_slot rfl rfl rfl (by decide)
theorem filt (sl : Slot) : Statement (.filt sl) := of_slot rfl rfl rfl (by decide)
theorem stopg (sl : Slot) : Statement (.stopg sl) := of_slot rfl rfl rfl (by decide)
theorem stopx (sl : Slot) : Statement (.stopx sl) := of_slot rfl rfl rfl (by decide)
theorem cnt (sl : Slot) : Statement (.cnt sl) := of_slot rfl rfl rfl (by decide)
theorem route (sl : Slot) : Statement (.route sl) := of_slot rfl rfl rfl (by decide)
theorem mux (sl : Slot) : Statement (.mux sl) := of_slot rfl rfl rfl (by decide)
theorem dup (sl : Slot) : Statement (.dup sl) := of_slot rfl rfl rfl (by decide)
theorem hold (sl : Slot) : Statement (.hold sl) := of_slot rfl rfl rfl (by decide)
theorem accu (sl : Slot) : Statement (.accu sl) := of_slot rfl rfl rfl (by decide)
theorem drn (sl : Slot) : Statement (.drn sl) := of_slot rfl rfl rfl (by decide)
theorem tldi (sl : Slot) : Statement (.tldi sl) := of_slot rfl rfl rfl (by decide)
theorem trd (sl : Slot) : Statement (.trd sl) := of_slot rfl rfl rfl (by decide)
theorem ttr (sl : Slot) : Statement (.ttr sl) := of_slot rfl rfl rfl (by decide)
theorem xpnd (sl : Slot) : Statement (.xpnd sl) := of_slot rfl rfl rfl (by decide)
theorem mma (sl : Slot) : Statement (.mma sl) := of_slot rfl rfl rfl (by decide)
theorem mmas (sl : Slot) : Statement (.mmas sl) := of_slot rfl rfl rfl (by decide)
theorem mmz (sl : Slot) : Statement (.mmz sl) := of_slot rfl rfl rfl (by decide)
theorem mrd (sl : Slot) : Statement (.mrd sl) := of_slot rfl rfl rfl (by decide)
theorem mscl (sl : Slot) : Statement (.mscl sl) := of_slot rfl rfl rfl (by decide)
theorem const (sl : Slot) : Statement (.const sl) := of_slot rfl rfl rfl (by decide)
theorem iter (sl : Slot) : Statement (.iter sl) := of_slot rfl rfl rfl (by decide)
theorem sink (sl : Slot) : Statement (.sink sl) := of_slot rfl rfl rfl (by decide)
theorem xlt (sl : Slot) : Statement (.xlt sl) := of_slot rfl rfl rfl (by decide)
theorem channelDelivery (elem entry : Nat) : Statement (.channelDelivery elem entry) := of_event rfl
theorem sld1 (c : Cmd) : Statement (.sld1 c) := of_cmd rfl rfl rfl rfl (by decide)
theorem sld2 (c : Cmd) : Statement (.sld2 c) := of_cmd rfl rfl rfl rfl (by decide)
theorem sld3 (c : Cmd) : Statement (.sld3 c) := of_cmd rfl rfl rfl rfl (by decide)
theorem sst1 (c : Cmd) : Statement (.sst1 c) := of_cmd rfl rfl rfl rfl (by decide)
theorem sst2 (c : Cmd) : Statement (.sst2 c) := of_cmd rfl rfl rfl rfl (by decide)
theorem sst3 (c : Cmd) : Statement (.sst3 c) := of_cmd rfl rfl rfl rfl (by decide)
theorem gath (c : Cmd) : Statement (.gath c) := of_cmd rfl rfl rfl rfl (by decide)
theorem scat (c : Cmd) : Statement (.scat c) := of_cmd rfl rfl rfl rfl (by decide)
theorem scad (c : Cmd) : Statement (.scad c) := of_cmd rfl rfl rfl rfl (by decide)
theorem bmld (c : Cmd) : Statement (.bmld c) := of_cmd rfl rfl rfl rfl (by decide)
theorem blkx (c : Cmd) : Statement (.blkx c) := of_cmd rfl rfl rfl rfl (by decide)
theorem copy (c : Cmd) : Statement (.copy c) := of_cmd rfl rfl rfl rfl (by decide)
theorem cpms (c : Cmd) : Statement (.cpms c) := of_cmd rfl rfl rfl rfl (by decide)
theorem cpsm (c : Cmd) : Statement (.cpsm c) := of_cmd rfl rfl rfl rfl (by decide)
theorem cpss (c : Cmd) : Statement (.cpss c) := of_cmd rfl rfl rfl rfl (by decide)
theorem tarm (c : Cmd) : Statement (.tarm c) := of_cmd rfl rfl rfl rfl (by decide)
theorem tdis (c : Cmd) : Statement (.tdis c) := of_cmd rfl rfl rfl rfl (by decide)
theorem tfir (c : Cmd) : Statement (.tfir c) := of_cmd rfl rfl rfl rfl (by decide)
theorem amos (c : Cmd) : Statement (.amos c) := of_cmd rfl rfl rfl rfl (by decide)
theorem tfil (c : Cmd) : Statement (.tfil c) := of_cmd rfl rfl rfl rfl (by decide)
theorem tdrn (c : Cmd) : Statement (.tdrn c) := of_cmd rfl rfl rfl rfl (by decide)
theorem pref (c : Cmd) : Statement (.pref c) := of_cmd rfl rfl rfl rfl (by decide)
theorem lock (c : Cmd) : Statement (.lock c) := of_cmd rfl rfl rfl rfl (by decide)
theorem unlk (c : Cmd) : Statement (.unlk c) := of_cmd rfl rfl rfl rfl (by decide)
theorem flsh (c : Cmd) : Statement (.flsh c) := of_cmd rfl rfl rfl rfl (by decide)
theorem xinv (c : Cmd) : Statement (.xinv c) := of_cmd rfl rfl rfl rfl (by decide)
theorem xpre (c : Cmd) : Statement (.xpre c) := of_cmd rfl rfl rfl rfl (by decide)
theorem fnew (c : Cmd) : Statement (.fnew c) := of_cmd rfl rfl rfl rfl (by decide)
theorem fmrg (c : Cmd) : Statement (.fmrg c) := of_cmd rfl rfl rfl rfl (by decide)
theorem fmrgPort (c : Cmd) : Statement (.fmrgPort c) := of_cmd rfl rfl rfl rfl (by decide)
theorem fscn (c : Cmd) : Statement (.fscn c) := of_cmd rfl rfl rfl rfl (by decide)
theorem fprb (c : Cmd) : Statement (.fprb c) := of_cmd rfl rfl rfl rfl (by decide)
theorem ftop (c : Cmd) : Statement (.ftop c) := of_cmd rfl rfl rfl rfl (by decide)
theorem fcnt (c : Cmd) : Statement (.fcnt c) := of_cmd rfl rfl rfl rfl (by decide)
theorem fclr (c : Cmd) : Statement (.fclr c) := of_cmd rfl rfl rfl rfl (by decide)
theorem ffre (c : Cmd) : Statement (.ffre c) := of_cmd rfl rfl rfl rfl (by decide)
theorem voxl (c : Cmd) : Statement (.voxl c) := of_cmd rfl rfl rfl rfl (by decide)
theorem bkld (c : Cmd) : Statement (.bkld c) := of_cmd rfl rfl rfl rfl (by decide)
theorem bkrn (c : Cmd) : Statement (.bkrn c) := of_cmd rfl rfl rfl rfl (by decide)
theorem bkrl (c : Cmd) : Statement (.bkrl c) := of_cmd rfl rfl rfl rfl (by decide)
theorem cbld (c : Cmd) : Statement (.cbld c) := of_cmd rfl rfl rfl rfl (by decide)
theorem brow (row : BitVec 15) : Statement (.brow row) := of_bank rfl rfl (by have := row.isLt; omega)
theorem bldk (v : BitVec 32) : Statement (.bldk v) := of_bank rfl rfl (by have := v.isLt; omega)
theorem bldm (v : BitVec 32) : Statement (.bldm v) := of_bank rfl rfl (by have := v.isLt; omega)
theorem btt (a b c out : BitVec 5) (table : BitVec 8) : Statement (.btt a b c out table) := of_bank rfl rfl (by have := a.isLt; have := b.isLt; have := c.isLt; have := out.isLt; have := table.isLt; omega)
theorem bshf (n : BitVec 10) : Statement (.bshf n) := of_bank rfl rfl (by have := n.isLt; omega)
theorem eventRecordPost (job : Nat) : Statement (.eventRecordPost job) := of_event rfl
theorem eventRingControlWrite (vf box : Nat) (v : Word) : Statement (.eventRingControlWrite vf box v) := of_event rfl
theorem cancelLaunch (job node : Nat) : Statement (.cancelLaunch job node) := of_event rfl
theorem cancelGraph (job : Nat) : Statement (.cancelGraph job) := of_event rfl
theorem cancelPhase (job : Nat) : Statement (.cancelPhase job) := of_event rfl
theorem cancelJob (job : Nat) : Statement (.cancelJob job) := of_event rfl
theorem mailboxWrite (vf box : Nat) (v : Word) : Statement (.mailboxWrite vf box v) := of_event rfl
theorem jobResidency (vf box : Nat) : Statement (.jobResidency vf box) := of_event rfl
theorem priorityAging (job : Nat) : Statement (.priorityAging job) := of_event rfl
theorem allocatorPlacement (act : PlacementAct) : Statement (.allocatorPlacement act) := of_event rfl
theorem preemptionRequest (job : Nat) : Statement (.preemptionRequest job) := of_event rfl
theorem stepDeadlineExpiry (job : Nat) : Statement (.stepDeadlineExpiry job) := of_event rfl
theorem contextRestore (job index die : Nat) : Statement (.contextRestore job index die) := of_event rfl
theorem graphLaunchNode (job : Nat) : Statement (.graphLaunchNode job) := of_event rfl
theorem graphConditionalNode (job : Nat) : Statement (.graphConditionalNode job) := of_event rfl
theorem graphLoopNode (job : Nat) : Statement (.graphLoopNode job) := of_event rfl
theorem graphEndNode (job : Nat) : Statement (.graphEndNode job) := of_event rfl
theorem phaseCompletion (job : Nat) : Statement (.phaseCompletion job) := of_event rfl
theorem edgeBufferFree (job edge : Nat) : Statement (.edgeBufferFree job edge) := of_event rfl
theorem panelZeroing (panel : Nat) : Statement (.panelZeroing panel) := of_event rfl
theorem chunkRelease (unit : Nat) : Statement (.chunkRelease unit) := of_event rfl
theorem templateFiring (t : Nat) : Statement (.templateFiring t) := of_event rfl
theorem templateDonePush (t : Nat) : Statement (.templateDonePush t) := of_event rfl
theorem depart (req : Nat) : Statement (.depart req) := of_event rfl
theorem reachDiePoint (req : Nat) : Statement (.reachDiePoint req) := of_event rfl
theorem sendHome (what : SendWhat) : Statement (.sendHome what) := of_event rfl
theorem serialise (req : Nat) : Statement (.serialise req) := of_event rfl
theorem read (req : Nat) : Statement (.read req) := of_event rfl
theorem drop (what : DropWhat) : Statement (.drop what) := of_event rfl
theorem defer (req : Nat) : Statement (.defer req) := of_event rfl
theorem deferredReadResend (req : Nat) : Statement (.deferredReadResend req) := of_event rfl
theorem merge (unit : Nat) : Statement (.merge unit) := of_event rfl
theorem bridleControlWrite (age : Nat) (v : Word) : Statement (.bridleControlWrite age v) := of_event rfl
theorem powerLimitWrite (age : Nat) (p : BitVec 16) : Statement (.powerLimitWrite age p) := of_event rfl
theorem linkDown (link : Nat) : Statement (.linkDown link) := of_event rfl
theorem flitReplay (link : Nat) : Statement (.flitReplay link) := of_event rfl
theorem packageReset (flash : FlashImage) : Statement (.packageReset flash) := of_event rfl
theorem recoveryImage (image : FlashImage) : Statement (.recoveryImage image) := of_event rfl
theorem spdmRequest (req : SpdmReq) : Statement (.spdmRequest req) := of_event rfl
theorem functionLevelReset (fn : Nat) : Statement (.functionLevelReset fn) := of_event rfl
theorem hostWindowAccess (acc : WindowAccess) : Statement (.hostWindowAccess acc) := of_event rfl
theorem keySlotWrite (k : KeyCommand) : Statement (.keySlotWrite k) := of_event rfl
theorem toolingDescriptor (vf : Nat) : Statement (.toolingDescriptor vf) := of_event rfl
theorem chipWindowWrite (die slot : Nat) (v : Word) : Statement (.chipWindowWrite die slot v) := of_event rfl
theorem frameGroupModeWrite (group : Nat) (linear : Bool) : Statement (.frameGroupModeWrite group linear) := of_event rfl
theorem registerWrite (r : RegTarget) (v : BitVec 512) : Statement (.registerWrite r v) := of_event rfl
theorem illegalInstruction (w : BitVec 32) : Statement (.illegalInstruction w) := of_event rfl
theorem commandDecodeFault (raw : BitVec 128) : Statement (.commandDecodeFault raw) := of_event rfl
theorem jobLeavingResidency (job : Nat) : Statement (.jobLeavingResidency job) := of_event rfl
theorem cfggo : Statement (.cfggo) := of_seq rfl (by decide)
theorem cfgnx : Statement (.cfgnx) := of_seq rfl (by decide)
theorem cfgwt : Statement (.cfgwt) := of_seq rfl (by decide)
theorem yield : Statement (.yield) := of_seq rfl (by decide)
theorem snap : Statement (.snap) := of_seq rfl (by decide)
theorem halt : Statement (.halt) := of_seq rfl (by decide)
theorem nop : Statement (.nop) := of_seq rfl (by decide)
theorem tileExchange : Statement (.tileExchange) := of_event rfl
theorem fretSwap : Statement (.fretSwap) := of_event rfl
theorem commandCompletion : Statement (.commandCompletion) := of_event rfl
theorem spillDrainAttempt : Statement (.spillDrainAttempt) := of_event rfl
theorem brel : Statement (.brel) := of_bank rfl rfl (by decide)
theorem bcmp : Statement (.bcmp) := of_bank rfl rfl (by decide)
theorem bcmpa : Statement (.bcmpa) := of_bank rfl rfl (by decide)
theorem bcmpo : Statement (.bcmpo) := of_bank rfl rfl (by decide)
theorem bwr : Statement (.bwr) := of_bank rfl rfl (by decide)
theorem btset : Statement (.btset) := of_bank rfl rfl (by decide)
theorem btclr : Statement (.btclr) := of_bank rfl rfl (by decide)
theorem btnot : Statement (.btnot) := of_bank rfl rfl (by decide)
theorem bcnt : Statement (.bcnt) := of_bank rfl rfl (by decide)
theorem bfst : Statement (.bfst) := of_bank rfl rfl (by decide)
theorem bend : Statement (.bend) := of_bank rfl rfl (by decide)
theorem refresh : Statement (.refresh) := of_event rfl
theorem retry : Statement (.retry) := of_event rfl
theorem resume : Statement (.resume) := of_event rfl
theorem freeze : Statement (.freeze) := of_event rfl
theorem cancel : Statement (.cancel) := of_event rfl
theorem regionFrozen : Statement (.regionFrozen) := of_event rfl
theorem hangDeclaration : Statement (.hangDeclaration) := of_event rfl
theorem launchLoad : Statement (.launchLoad) := of_event rfl
theorem preemptionHalt : Statement (.preemptionHalt) := of_event rfl
theorem contextSave : Statement (.contextSave) := of_event rfl
theorem scanStep : Statement (.scanStep) := of_event rfl
theorem bridleAdmission : Statement (.bridleAdmission) := of_event rfl
theorem bridleWindowEnd : Statement (.bridleWindowEnd) := of_event rfl
theorem snapshotLatch : Statement (.snapshotLatch) := of_event rfl
theorem snapshotExternalTrigger : Statement (.snapshotExternalTrigger) := of_event rfl
theorem criticalTemperature : Statement (.criticalTemperature) := of_event rfl
theorem hardwareTrip : Statement (.hardwareTrip) := of_event rfl
theorem fetchFault : Statement (.fetchFault) := of_event rfl

end Sys2Proof.Laws.WordFits
end

