-- ==== Sys2Proof/Laws/Sequencer.lean ====
section
/-!
SUPPORT. What the shared operations of the panel sequencer do, once each: a register written and the next word reached, a jump, a wait, and
taking a precise fault.
-/

namespace Sys2Proof.Machine

theorem Reg.toNat_ne {r d : Reg} (h : r ≠ d) : r.toNat ≠ d.toNat := fun e => h (BitVec.eq_of_toNat_eq e)

/-- R42, R62: what a register reads after a write. -/
theorem Strand.reg_setReg (t : Strand) (d r : Reg) (v : Word) :
    (t.setReg d.toNat v).reg r.toNat = if r = d ∧ r ≠ 0 then v else t.reg r.toNat := by
  unfold Strand.setReg Strand.reg
  by_cases hd : d.toNat = 0
  · have h0 : d = 0 := BitVec.eq_of_toNat_eq hd
    simp only [hd, if_true]
    by_cases hr : r = d
    · subst hr; simp [h0]
    · simp [hr]
  · simp only [if_neg hd]
    by_cases hr : r = d
    · subst hr
      have : r ≠ 0 := fun e => hd (by rw [e]; rfl)
      have h0 : ¬ r = 0#5 := this
      simp [hd, h0]
    · simp only [Tab.look_put, if_neg (Reg.toNat_ne hr), hr, false_and, if_false]

theorem Strand.setReg_alike (t : Strand) (d : Nat) (v : Word) : { t.setReg d v with x := t.x } = t := by
  unfold Strand.setReg; split <;> rfl

theorem State.put_put (s : State) (k : Nat) (v w : Strand) : (s.setStrand k v).setStrand k w = s.setStrand k w := by
  have h : ∀ l : Tab Strand, (l.put k v).put k w = l.put k w := by
    intro l
    induction l with
    | nil => simp [Tab.put]
    | cons x r ih =>
      obtain ⟨j, u⟩ := x
      simp only [Tab.put]
      split
      · simp [Tab.put]
      · split
        · simp [Tab.put]
        · next h1 h2 => simp only [Tab.put, if_neg h1, if_neg h2, ih]
  simp only [State.setStrand, h]

theorem State.self_setStrand (s : State) (v : Strand) : (s.setStrand s.site.strand v).self = v := by
  show (s.setStrand s.site.strand v).strand s.site.strand = v
  simp

/-- A change of the acting strand alone. -/
theorem onlySelf_set (s : State) (v : Strand) : OnlySelf s (s.setStrand s.site.strand v) :=
  ⟨fun k hk => by simp [State.strand_setStrand, hk], rfl, fun _ => rfl⟩

theorem regs_set (s : State) (v : Strand) (r : Reg) : (s.setStrand s.site.strand v).reg r = v.reg r.toNat := by
  show (s.setStrand s.site.strand v).self.reg r.toNat = _
  rw [State.self_setStrand]

/-- R63: a register written and the next word reached. -/
theorem writeBack_wrote (d : Reg) (v : Word) (s : State) : ∃ t, s.writeBack d v = .next t ∧ Wrote d v s t := by
  refine ⟨_, rfl, ?_⟩
  have h : (s.setReg d v).advance = s.setStrand s.site.strand { s.self.setReg d.toNat v with spt := s.self.spt + 4, waiting := false } := by
    unfold State.advance State.setReg
    simp only [State.updSelf_eq, State.setStrand_site, State.self_setStrand, State.put_put]
    have hs : (s.self.setReg d.toNat v).spt = s.self.spt := by unfold Strand.setReg; split <;> rfl
    rw [hs]
  rw [h]
  refine ⟨fun r => ?_, ?_, ?_, onlySelf_set _ _⟩
  · rw [regs_set]
    exact Strand.reg_setReg s.self d r v
  · rw [State.self_setStrand]
  · rw [State.self_setStrand]
    unfold Strand.alike
    exact congrArg (fun q : Strand => { q with spt := s.self.spt, waiting := s.self.waiting }) (Strand.setReg_alike s.self d.toNat v)

theorem goto_eq (a : BitVec 60) (s : State) : s.goto a = s.setStrand s.site.strand { s.self with spt := a, waiting := false } := rfl
theorem advance_eq (s : State) : s.advance = s.setStrand s.site.strand { s.self with spt := s.self.spt + 4, waiting := false } := rfl
theorem wait_eq (s : State) : s.wait = s.setStrand s.site.strand { s.self with waiting := true } := rfl

/-- A control transfer changes `spt` alone. -/
theorem goto_jumped (a : BitVec 60) (s : State) : Jumped a s (s.goto a) := by
  rw [goto_eq]
  exact ⟨fun r => by rw [regs_set]; rfl, by rw [State.self_setStrand], by rw [State.self_setStrand]; rfl, onlySelf_set _ _⟩

/-- R63: the next word. -/
theorem advance_jumped (s : State) : Jumped (s.self.spt + 4) s s.advance := goto_jumped _ s

/-- R97: a wait. -/
theorem wait_waited (s : State) : Waited s s.wait := by
  rw [wait_eq]
  exact ⟨fun r => by rw [regs_set]; rfl, by rw [State.self_setStrand], by rw [State.self_setStrand], by rw [State.self_setStrand]; rfl,
    onlySelf_set _ _⟩

/-- R74: a conditional branch. -/
theorem branchIf_jumped (c : Bool) (off : BitVec 16) (s : State) :
    ∃ t, s.branchIf c off = .next t ∧ Jumped (if c then branchTarget s.self.spt off.toInt else s.self.spt + 4) s t := by
  refine ⟨_, rfl, ?_⟩
  cases c
  · exact advance_jumped s
  · exact goto_jumped _ s

/-- R41: the branch target in bit-vector arithmetic. -/
theorem branchTarget_eq {n : Nat} (spt : BitVec 60) (off : BitVec n) (h : n ≤ 60) :
    branchTarget spt off.toInt = spt + 4 * off.signExtend 60 := by
  unfold branchTarget
  congr 1
  apply BitVec.eq_of_toInt_eq
  have h1 : (off.signExtend 60).toInt = off.toInt := BitVec.toInt_signExtend_of_le h
  rw [BitVec.toInt_mul, h1, BitVec.toInt_ofInt]
  rfl

/-- R189, R97: the freeze of a region begins: one strand changes, in its region's state and, where a deferred `LDP` is withdrawn, in its wait. -/
theorem beginFreeze_spec (k : Nat) (s : State) : ∃ (q : List Req) (v : Strand),
    s.beginFreeze k = ({ s with reqs := q } : State).setStrand k v ∧
    { v with awaits := (s.strand k).awaits, answer := (s.strand k).answer, waiting := (s.strand k).waiting, region := (s.strand k).region } = s.strand k ∧
    v.region = { (s.strand k).region with state := if (s.strand k).region.state = .running then .freezing else (s.strand k).region.state } := by
  unfold State.beginFreeze State.withdrawLdp
  split
  · refine ⟨s.reqs.filter (fun r => !(r.agent == Agent.seq k && r.kind == ReqKind.syncRead)),
      { s.strand k with
        awaits := none, answer := none, waiting := false
        region := { (s.strand k).region with
          state := if (s.strand k).region.state = .running then .freezing else (s.strand k).region.state } }, ?_, rfl, rfl⟩
    simp only [State.updStrand_eq, State.strand_setStrand_self, State.put_put]
    rfl
  · exact ⟨s.reqs, _, rfl, rfl, rfl⟩

theorem mark_state (cyc : BitVec 64) (p e src : Nat) (r : Region) : (r.mark cyc p e src).state = r.state := by
  unfold Region.mark; split <;> rfl
theorem mark_fault (cyc : BitVec 64) (p e src : Nat) (r : Region) : (r.mark cyc p e src).fault = true := by
  unfold Region.mark; split <;> rfl

/-- R96, R46, R185: taking a precise fault. -/
theorem raise_faulted (cls cause word addr : Nat) (s : State) : Faulted cls cause word addr s (s.raise cls cause word addr) := by
  unfold State.raise State.faultRegion
  simp only [State.updSelf_eq, State.updStrand_eq, State.strand_setStrand_self, State.put_put]
  have hs : s.strand s.site.strand = s.self := rfl
  split
  · next h =>
    generalize hu : s.setStrand s.site.strand _ = u
    obtain ⟨q, v, hb, hv, hr⟩ := beginFreeze_spec s.site.strand u
    have hus := congrArg (fun q : State => q.strand s.site.strand) hu
    simp only [State.strand_setStrand_self] at hus
    have hul : { u with strands := s.strands } = s := by rw [← hu]; rfl
    have huo (k : Nat) (hk : k ≠ s.site.strand) : u.strand k = s.strand k := by rw [← hu]; simp [State.strand_setStrand, hk]
    rw [hb]
    rw [← hus] at hv hr
    have hf := congrArg Strand.fault hv
    have hx := congrArg Strand.x hv
    have hp := congrArg Strand.spt hv
    have hc := congrArg Strand.cpc hv
    have hk := congrArg Strand.kpend hv
    have hw := congrArg Strand.w hv
    have hi := congrArg Strand.ic hv
    have he := congrArg State.elems hul
    have hm := congrArg State.mem hul
    have hz := congrArg State.site hul
    have key : ∀ t : State, t.strands = (({ u with reqs := q } : State).setStrand s.site.strand v).strands → t.elems = u.elems → t.mem = u.mem →
        t.site = u.site → Faulted cls cause word addr s t := by
      intro t h1 h2 h3 h4
      have hself : t.self = v := by
        show t.strand t.site.strand = v
        rw [h4, hz]
        exact (congrArg (fun l => Tab.look ({} : Strand) l s.site.strand) h1).trans (State.strand_setStrand_self _ _ _)
      refine ⟨by rw [hself]; exact hf, fun r => ?_, by rw [hself]; exact hp, by rw [hself]; exact hc, by rw [hself]; exact hk, by rw [hself]; exact hw,
        by rw [hself]; exact hi, ⟨by rw [hself, hr]; exact mark_fault _ _ _ _ _, fun hrun => ?_⟩, fun k hne => ?_, h2.trans he, fun a => congrArg (fun m => memGet m a) (h3.trans hm)⟩
      · unfold State.reg; rw [hself]; exact congrArg (fun l => Strand.reg { s.self with x := l } r.toNat) hx
      · rw [hself, hr]
        exact if_pos ((mark_state _ _ _ _ _).trans hrun)
      · have h5 : t.strand k = (({ u with reqs := q } : State).setStrand s.site.strand v).strand k := congrArg (fun l => Tab.look ({} : Strand) l k) h1
        rw [h5, State.strand_setStrand, if_neg hne]
        exact huo k hne
    unfold State.triggerSnapshot State.postEvent
    simp only [State.updJob_snapAt, State.setStrand_snapAt, State.strand_setStrand_self]
    split <;> exact key _ rfl rfl rfl rfl
  · next h =>
    split
    all_goals refine ⟨?_, fun r => ?_, ?_, ?_, ?_, ?_, ?_, ⟨?_, fun hr => ?_⟩, fun k hk => ?_, rfl, fun _ => rfl⟩
    all_goals first
      | (show ((s.setStrand s.site.strand _).strand s.site.strand).fault = _; rw [State.strand_setStrand_self])
      | (show ((s.setStrand s.site.strand _).strand s.site.strand).reg r.toNat = _; rw [State.strand_setStrand_self]; rfl)
      | (show ((s.setStrand s.site.strand _).strand s.site.strand).spt = _; rw [State.strand_setStrand_self])
      | (show ((s.setStrand s.site.strand _).strand s.site.strand).cpc = _; rw [State.strand_setStrand_self])
      | (show ((s.setStrand s.site.strand _).strand s.site.strand).kpend = _; rw [State.strand_setStrand_self])
      | (show ((s.setStrand s.site.strand _).strand s.site.strand).w = _; rw [State.strand_setStrand_self])
      | (show ((s.setStrand s.site.strand _).strand s.site.strand).ic = _; rw [State.strand_setStrand_self])
      | (show ((s.setStrand s.site.strand _).strand s.site.strand).region.fault = _; rw [State.strand_setStrand_self]; exact mark_fault _ _ _ _ _)
      | (exact absurd (Or.inl hr) h)
      | (show (s.setStrand s.site.strand _).strand k = _; simp [State.strand_setStrand, hk])

end Sys2Proof.Machine
end

