-- ==== Sys2Proof/Tests/Slice0.lean ====
section
/-!
SUPPORT. Tests: well-formedness and its refusals, decoding of words written out from the encoding tables of R40-R61, examples that the manual
works out, and for each statement for the provers a state and operands that meet its hypotheses.
-/

namespace Sys2Proof.Tests

-- one theorem after another: side by side their kernel evaluations take too many threads
set_option Elab.async false

open Sys2Proof Sys2Proof.Machine

-- helpers ---------------------------------------------------------------------------------------------

theorem ok_of {ε α : Type} {x : Except ε α} {a : α} (h : x.toOption = some a) : x = .ok a := by
  cases x with
  | error e => exact absurd h (by simp [Except.toOption])
  | ok b => simpa [Except.toOption] using h

theorem ok_some {ε α : Type} {x : Except ε α} (h : x.toOption.isSome = true) : ∃ a, x = .ok a := by
  cases x with
  | error e => exact absurd h (by simp [Except.toOption])
  | ok b => exact ⟨b, rfl⟩

/-- The error of a computation. -/
def errOf {ε α : Type} : Except ε α → Option ε
  | .error e => some e
  | .ok _ => none

theorem error_of {ε α : Type} {x : Except ε α} {e : ε} (h : errOf x = some e) : x = .error e := by
  cases x with
  | error e' => simpa [errOf] using h
  | ok b => exact absurd h (by simp [errOf])

/-- Whether a request is performed at once. -/
def performsAt (s : State) (r : Req) : Bool :=
  !s.earlier r && !s.earlierAge r && !s.homeHeld r && !s.tileHolds r && (!(r.writes && r.virt) || (s.queuedAt (s.bankOf r.home)).isEmpty)

theorem performs_of {s : State} {r : Req} (h : performsAt s r = true) : s.Performs r := by
  simp only [performsAt, Bool.and_eq_true, Bool.not_eq_true', Bool.or_eq_true, List.isEmpty_iff] at h
  obtain ⟨⟨⟨⟨h1, h2⟩, h3⟩, h4⟩, h5⟩ := h
  exact ⟨h1, h2, h3, h4, fun hw hv => h5.resolve_left (by simp [hw, hv])⟩

/-- Strand 0 of job 0 on panel 0 runs, with register r holding v; its first 128 MiB are PLAIN, the next SYNC, the next FIBRE. -/
def plain : State :=
  let s := State.reset.fetchable
  let s1 := (s.poke (18 * 65536 + 8) 8 (1 + 2 + 4 + 2^14 + 2048 * 2^18)).poke (18 * 65536 + 16) 8 (1 + 2 + 8 + 2^14 + 4096 * 2^18)
  { s1 with jobs := s1.jobs.put 0 { resident := true } }

/-- The state with registers of strand 0 set. -/
def regs (l : List (Nat × Word)) (s : State) : State :=
  s.updStrand 0 (fun t => l.foldl (fun t p => t.setReg p.1 p.2) t)

/-- The leaf of a PLAIN, SYNC or FIBRE address of the test's job. -/
def leafAt (va : Nat) : Leaf := { pa := va, kind := va / 2^27, key := 0, writable := true, egress := false, policy := 0 }

-- well-formedness: for each check a term that it refuses ----------------------------------------------------------------

/-- A slot that names input 0 and output 0, changed by f. -/
def slotWith (f : Slot → Slot) : Slot := f ⟨0, 0, 0, 0, 1, 0, 0⟩

/-- A command whose every field is zero but space 4, changed by f. -/
def cmdWith (f : Cmd → Cmd) : Cmd := f ⟨0, 0, 4, 0, 0, 0, 0, 0⟩

/-- R47-R49, R56, R128-R131, R153, R174: an operand that the form does not use, an unassigned operand, no channel, a mod bit and a tile write that the
group refuses, immediate bits that the form does not define, a number of outputs that it refuses, an immediate where it reads none,
and pair mode without a channel in in0. -/
theorem test_slot_checks : ([.fcmp (slotWith fun s => { s with in2 := 1 }), .fadd (slotWith fun s => { s with in1 := 12 }),
    .fadd (slotWith fun s => { s with in0 := 9, in1 := 11 }), .iadd (slotWith fun s => { s with mod := 1 }), .imin (slotWith fun s => { s with mod := 4 }),
    .fclas (slotWith fun s => { s with mod := 8 }), .dqn4 (slotWith fun s => { s with mod := 8 }), .cnt (slotWith fun s => { s with tw := 1 }),
    .fadd (slotWith fun s => { s with tw := 3 }), .fadd (slotWith fun s => { s with imm := 1 }), .fcmp (slotWith fun s => { s with imm := 8 }),
    .icmp (slotWith fun s => { s with imm := 6 }), .stopg (slotWith fun s => { s with imm := 5 }), .cvt (slotWith fun s => { s with imm := 7 }),
    .mma (slotWith fun s => { s with outmask := 0, imm := 0x40 * 3 + 62 }), .fadd (slotWith fun s => { s with outmask := 0 }),
    .accu (slotWith fun s => s), .intsc (slotWith fun s => { s with outmask := 7 }), .xlt (slotWith fun s => { s with outmask := 3 }),
    .fcmp (slotWith fun s => { s with in1 := 9 }),
    .mmas (slotWith fun s => { s with in0 := 8, in1 := 8, outmask := 0 }), .fadd (slotWith fun s => { s with in0 := 8, imm := 0x8000 })]
    : List Instr).all (fun i => !i.wf) = true := by decide +kernel

/-- R57-R59, R224, R230: a fused code that is unassigned or that the op refuses, a size or space code that is unassigned, a reply where the op has none,
and fields that the op's own description fixes, for each op that fixes some. -/
theorem test_command_checks : ([.sld1 (cmdWith fun c => { c with fused := 5 }), .sld1 (cmdWith fun c => { c with fused := 1, size := 3 }),
    .sst1 (cmdWith fun c => { c with fused := 1, size := 2, port := 8 }), .scat (cmdWith fun c => { c with fused := 0x80, size := 2, port := 8 }),
    .sld1 (cmdWith fun c => { c with size := 5 }), .sld1 (cmdWith fun c => { c with space := 5 }), .sld1 (cmdWith fun c => { c with reply := 1 }),
    .sld1 (cmdWith fun c => { c with port := 8 }), .sst1 (cmdWith fun c => { c with port := 7 }), .gath (cmdWith fun c => { c with size := 2, count := 1 }),
    .scad (cmdWith fun c => { c with size := 2, port := 8 }), .bmld (cmdWith fun c => { c with size := 3 }), .blkx (cmdWith fun c => { c with size := 2, space := 0 }),
    .cpms (cmdWith fun c => { c with port := 8 }), .cpsm (cmdWith fun c => { c with port := 0 }), .cpss (cmdWith fun c => { c with space := 4 }),
    .tarm (cmdWith fun c => { c with addr := 16 }), .tdis (cmdWith fun c => { c with space := 4 }), .tfir (cmdWith fun c => { c with space := 0, count := 256 }),
    .amos (cmdWith fun c => { c with size := 2, port := 8, flags := 7 }), .tfil (cmdWith fun c => { c with size := 4, port := 16, count := 1000 }),
    .tdrn (cmdWith fun c => { c with size := 4, port := 16, flags := 2 }), .pref (cmdWith fun c => { c with flags := 2 }),
    .lock (cmdWith fun c => { c with addr := 64 }), .unlk (cmdWith fun c => { c with flags := 1 }), .flsh (cmdWith fun c => { c with addr := 64 }),
    .xinv (cmdWith fun c => { c with addr := 0x10000 }), .xpre (cmdWith fun c => { c with flags := 1 }), .fnew (cmdWith fun c => { c with size := 3, count := 0x300 }),
    .fmrg (cmdWith fun c => { c with size := 3, flags := 1 }), .fmrgPort (cmdWith fun c => { c with size := 3, port := 8 }),
    .fscn (cmdWith fun c => { c with size := 3, flags := 2 }), .fprb (cmdWith fun c => { c with size := 3, count := 1 }), .ftop (cmdWith fun c => { c with size := 3 }),
    .fcnt (cmdWith fun c => { c with size := 2 }), .fclr (cmdWith fun c => { c with size := 3, count := 1 }), .ffre (cmdWith fun c => { c with size := 3, port := 1 }),
    .voxl (cmdWith fun c => { c with size := 3, port := 8, flags := 3 }), .bkld (cmdWith fun c => { c with size := 3, port := 1 }),
    .bkrn (cmdWith fun c => { c with size := 2 }), .bkrl (cmdWith fun c => { c with size := 2, count := 1, addr := 0x10000 }),
    .cbld (cmdWith fun c => { c with size := 3, port := 0x10 })] : List Instr).all (fun i => !i.wf) = true := by decide +kernel

/-- R73, R43, R12, R60: a bit field past bit 63, a command register pair at x31, a token number without the mark of a token, a shift of 512. -/
theorem test_other_checks : ([.bfx 1 2 33 31, .bfxu 1 2 1 63, .bfi 1 2 63 1, .cmd ⟨31, 0, 0, 0, false⟩, .cmdnb ⟨1, 0, 0, 1, false⟩, .bshf 512]
    : List Instr).all (fun i => !i.wf) = true := by decide +kernel

/-- R42, R45, R46, R60, R61: words with a field that must be zero, a fence scope 5 to 7, an unassigned register number, op or fn are no instructions. -/
theorem test_refused_words : ([0x00000000, 0xFFFFFFFF, 0x04221817, 0x08220800, 0x10200000, 0x14220101, 0x14200204, 0x18220001, 0x1C000500, 0x1C000025,
    0x1C000104, 0x30220040, 0x40A61234, 0x44221000, 0x44000FC1, 0x50000005, 0x50010004, 0x54200010, 0x58000100, 0x88200000, 0xB8800000, 0xC8000004,
    0xC8000002, 0xCBE00000] : List Nat).all (fun w => (decodeTableWord 32 w).isNone) = true ∧
    ([0, 0x7800000000000001, 0x1000000000000001, 0x0800000000008000, 0x6800000000000200, 0x9000000000000000, 0x1000100100010000] : List Nat).all
      (fun w => (decodeBank w).toOption.isNone) = true ∧
    ([0x1000100100010000, 0x0F00000100000000, 0x1000C00100000000] : List Nat).all (fun w => (decodeSlot w).toOption.isNone) = true ∧
    ([0, 0x04 * 2^120, 0x010054 * 2^104] : List Nat).all (fun w => (decodeCmd w).toOption.isNone) = true := by decide +kernel

/-- The encodings that the manual works out in R46, R47, R60, R67, R79, R82, R84, R90, R136, R138, R141, R145, R158, R163, R173-R177, R346. -/
theorem test_words_of_the_manual : ([(32, 0x2060000A, .addi 3 0 10), (32, 0x04841800, .add 4 4 3), (32, 0xA460FFFE, .bne 3 0 0xFFFE), (32, 0xC8806001, .cmd ⟨4, 3, 0, 0, true⟩),
    (32, 0x50A00004, .mfs 5 .cyc), (32, 0x54040010, .mts (.ic 0) 4), (32, 0x84C10040, .stp 6 1 64), (32, 0x0C642802, .amcas 3 4 5), (32, 0xCC804005, .cmdnb ⟨4, 2, 0, 1, true⟩),
    (32, 0x54070021, .mts .cpnl 7), (32, 0x58000007, .waitk 7), (32, 0x10050000, .cfgld 5), (64, 0x1000900180003F80, .fadd ⟨0, 0, 9, 0, 1, 2, 0x3F80⟩),
    (64, 0x1300120100000000, .ffma ⟨0, 0, 1, 2, 1, 0, 0⟩), (64, 0x1600100200000001, .fcmp ⟨0, 0, 1, 0, 2, 0, 1⟩), (64, 0x23401A0100000000, .imad ⟨4, 0, 1, 10, 1, 0, 0⟩),
    (64, 0x3300000100000001, .bfly ⟨0, 0, 0, 0, 1, 0, 1⟩), (64, 0x4A80000000000000, .accu ⟨8, 0, 0, 0, 0, 0, 0⟩), (64, 0x6108100000001000, .mmas ⟨0, 8, 1, 0, 0, 0, 0x1000⟩),
    (64, 0x6413000000000002, .mscl ⟨1, 3, 0, 0, 0, 0, 2⟩), (64, 0x6300000100000014, .mrd ⟨0, 0, 0, 0, 1, 0, 0x14⟩), (64, 0x48000000096C4100, .btt 0 8 16 24 0x96),
    (128, 0x5800348030001A0F * 2^64 + 0x10000001, .cbld ⟨0, 3, 4, 0x80, 6, 0x1A0F, 0x1000000, 1⟩)] : List (Nat × Nat × Instr)).all
      (fun p => decodeTableWord p.1 p.2.1 == some p.2.2) = true := by decide +kernel


-- decoding: words written out from the encoding tables --------------------------------------------------------------

/-- Sequencer words (R40-R45): opcode, register, immediate and code fields each at its place in R40 and R45. -/
def seqWords_1 : List (Nat × Instr) := [
  (0x06AA6800, .add 21 10 13),
  (0x06AA6801, .sub 21 10 13),
  (0x06AA6802, .mul 21 10 13),
  (0x06AA6803, .mulh 21 10 13),
  (0x06AA6804, .mulhu 21 10 13),
  (0x06AA6805, .div 21 10 13),
  (0x06AA6806, .divu 21 10 13),
  (0x06AA6807, .rem 21 10 13),
  (0x06AA6808, .remu 21 10 13),
  (0x06AA6809, .and 21 10 13),
  (0x06AA680A, .or 21 10 13),
  (0x06AA680B, .xor 21 10 13),
  (0x06AA680C, .andn 21 10 13),
  (0x06AA680D, .shl 21 10 13),
  (0x06AA680E, .shr 21 10 13),
  (0x06AA680F, .sar 21 10 13),
  (0x06AA6810, .min 21 10 13),
  (0x06AA6811, .max 21 10 13),
  (0x06AA6812, .minu 21 10 13),
  (0x06AA6813, .maxu 21 10 13),
  (0x06AA6814, .slt 21 10 13),
  (0x06AA6815, .sltu 21 10 13),
  (0x06AA6816, .seq 21 10 13),
  (0x0AAA0000, .clz 21 10)]

theorem test_seqWords_1 : seqWords_1.all (fun p => decodeTableWord 32 p.1 == some p.2) = true := by decide +kernel

/-- Sequencer words (R40-R45): opcode, register, immediate and code fields each at its place in R40 and R45. -/
def seqWords_2 : List (Nat × Instr) := [
  (0x0AAA0001, .ctz 21 10),
  (0x0AAA0002, .popc 21 10),
  (0x0EAA6800, .amadd 21 10 13),
  (0x0EAA6801, .amswp 21 10 13),
  (0x0EAA6802, .amcas 21 10 13),
  (0x0EAA6803, .ammax 21 10 13),
  (0x100A0000, .cfgld 10),
  (0x10000001, .cfggo),
  (0x10000002, .cfgnx),
  (0x10000003, .cfgwt),
  (0x140A6800, .qpush 10 13),
  (0x140A6900, .qpushWt 10 13),
  (0x16AA0001, .qpop 21 10),
  (0x16AA0002, .qtry 21 10),
  (0x140A6803, .spawn 10 13),
  (0x16A00004, .qroot 21),
  (0x140A0005, .wret 10),
  (0x140A0006, .waitq 10),
  (0x16AA0007, .qchk 21 10),
  (0x180A6800, .bari 10 13),
  (0x180A0001, .bara 10),
  (0x180A6802, .barx 10 13),
  (0x180A0003, .barw 10),
  (0x1C000000, .fence .panel)]

theorem test_seqWords_2 : seqWords_2.all (fun p => decodeTableWord 32 p.1 == some p.2) = true := by decide +kernel

/-- Sequencer words (R40-R45): opcode, register, immediate and code fields each at its place in R40 and R45. -/
def seqWords_3 : List (Nat × Instr) := [
  (0x1C000100, .fence .cluster),
  (0x1C000200, .fence .die),
  (0x1C000300, .fence .package),
  (0x1C000400, .fence .system),
  (0x1C0A0001, .trap 10),
  (0x1C000002, .yield),
  (0x1C000003, .snap),
  (0x1C000004, .halt),
  (0x1C000005, .nop),
  (0x1C0A0006, .jr 10),
  (0x22AA8001, .addi 21 10 0x8001),
  (0x26AA8001, .andi 21 10 0x8001),
  (0x2AAA8001, .ori 21 10 0x8001),
  (0x2EAA8001, .xori 21 10 0x8001),
  (0x32AA0025, .shli 21 10 37),
  (0x36AA0025, .shri 21 10 37),
  (0x3AAA0025, .sari 21 10 37),
  (0x3EAA8001, .slti 21 10 0x8001),
  (0x42A28001, .lih 21 2 0x8001),
  (0x46AA0221, .bfx 21 10 33 8),
  (0x4AAA0221, .bfxu 21 10 33 8),
  (0x4EAA0221, .bfi 21 10 33 8),
  (0x52A00000, .mfs 21 .sqid),
  (0x52A00001, .mfs 21 .jobn)]

theorem test_seqWords_3 : seqWords_3.all (fun p => decodeTableWord 32 p.1 == some p.2) = true := by decide +kernel

/-- Sequencer words (R40-R45): opcode, register, immediate and code fields each at its place in R40 and R45. -/
def seqWords_4 : List (Nat × Instr) := [
  (0x52A00002, .mfs 21 .rpli),
  (0x52A00003, .mfs 21 .rpln),
  (0x52A00004, .mfs 21 .cyc),
  (0x52A00008, .mfs 21 .cpc),
  (0x52A00009, .mfs 21 .spt),
  (0x52A00010, .mfs 21 (.ic 0)),
  (0x52A00013, .mfs 21 (.ic 3)),
  (0x52A00018, .mfs 21 .wgt),
  (0x52A00019, .mfs 21 .proot),
  (0x52A00020, .mfs 21 .kpend),
  (0x52A00021, .mfs 21 .cpnl),
  (0x540A0010, .mts (.ic 0) 10),
  (0x540A0013, .mts (.ic 3) 10),
  (0x540A0021, .mts .cpnl 10),
  (0x580000A5, .waitk 0xa5),
  (0x62AA8002, .ldb 21 10 0x8002),
  (0x66AA8002, .ldh 21 10 0x8002),
  (0x6AAA8002, .ldw 21 10 0x8002),
  (0x6EAA8002, .ldd 21 10 0x8002),
  (0x72CA8002, .stb 22 10 0x8002),
  (0x76CA8002, .sth 22 10 0x8002),
  (0x7ACA8002, .stw 22 10 0x8002),
  (0x7ECA8002, .std 22 10 0x8002),
  (0x82AA8002, .ldp 21 10 0x8002)]

theorem test_seqWords_4 : seqWords_4.all (fun p => decodeTableWord 32 p.1 == some p.2) = true := by decide +kernel

/-- Sequencer words (R40-R45): opcode, register, immediate and code fields each at its place in R40 and R45. -/
def seqWords_5 : List (Nat × Instr) := [
  (0x86CA8002, .stp 22 10 0x8002),
  (0x880A8002, .clrp 10 0x8002),
  (0xA14D8002, .beq 10 13 0x8002),
  (0xA54D8002, .bne 10 13 0x8002),
  (0xA94D8002, .blt 10 13 0x8002),
  (0xAD4D8002, .bge 10 13 0x8002),
  (0xB14D8002, .bltu 10 13 0x8002),
  (0xB54D8002, .bgeu 10 13 0x8002),
  (0xB8608002, .loopd 3 0x8002),
  (0xC3FFFFFD, .jmp 0x3fffffd),
  (0xC7FFFFFD, .jal 0x3fffffd),
  (0xCAA0B4B9, .cmd ⟨21, 5, 0xA5, 6, true⟩),
  (0xCEA0B4B9, .cmdnb ⟨21, 5, 0xA5, 6, true⟩)]

theorem test_seqWords_5 : seqWords_5.all (fun p => decodeTableWord 32 p.1 == some p.2) = true := by decide +kernel

/-- Slot words (R47-R50): opcode [63:56], mod [55:52], in0 [51:48], in1 [47:44], in2 [43:40], outmask [39:32], tw [31:30], imm16 [15:0]. -/
def slotWords_1 : List (Nat × Instr) := [
  (0x1029400100003F80, .fadd ⟨2, 9, 4, 0, 0x01, 0, 0x3F80⟩),
  (0x1112100200008000, .fsub ⟨1, 2, 1, 0, 0x02, 0, 0x8000⟩),
  (0x1203B08180000000, .fmul ⟨0, 3, 11, 0, 0x81, 2, 0x0000⟩),
  (0x13B5121080000000, .ffma ⟨11, 5, 1, 2, 0x10, 2, 0x0000⟩),
  (0x1403B08180000000, .fmin ⟨0, 3, 11, 0, 0x81, 2, 0x0000⟩),
  (0x1503B08180000000, .fmax ⟨0, 3, 11, 0, 0x81, 2, 0x0000⟩),
  (0x1600100200000001, .fcmp ⟨0, 0, 1, 0, 0x02, 0, 0x0001⟩),
  (0x1707004000000000, .frnd ⟨0, 7, 0, 0, 0x40, 0, 0x0000⟩),
  (0x1807004000000000, .fexpx ⟨0, 7, 0, 0, 0x40, 0, 0x0000⟩),
  (0x1903B08180000000, .fexpi ⟨0, 3, 11, 0, 0x81, 2, 0x0000⟩),
  (0x1A07004000000000, .fexp2f ⟨0, 7, 0, 0, 0x40, 0, 0x0000⟩),
  (0x1B07004000000000, .frcp ⟨0, 7, 0, 0, 0x40, 0, 0x0000⟩),
  (0x1C07004000000000, .frsq ⟨0, 7, 0, 0, 0x40, 0, 0x0000⟩),
  (0x1D07004000000000, .fclas ⟨0, 7, 0, 0, 0x40, 0, 0x0000⟩),
  (0x2046B00200000000, .iadd ⟨4, 6, 11, 0, 0x02, 0, 0x0000⟩),
  (0x2103B08180000000, .isub ⟨0, 3, 11, 0, 0x81, 2, 0x0000⟩),
  (0x2203B08180000000, .imul ⟨0, 3, 11, 0, 0x81, 2, 0x0000⟩),
  (0x23401A0100000000, .imad ⟨4, 0, 1, 10, 0x01, 0, 0x0000⟩),
  (0x2403B08180000000, .imin ⟨0, 3, 11, 0, 0x81, 2, 0x0000⟩),
  (0x2503B08180000000, .imax ⟨0, 3, 11, 0, 0x81, 2, 0x0000⟩),
  (0x2603B08180000000, .iand ⟨0, 3, 11, 0, 0x81, 2, 0x0000⟩),
  (0x2703B08180000000, .ior ⟨0, 3, 11, 0, 0x81, 2, 0x0000⟩),
  (0x2803B08180000000, .ixor ⟨0, 3, 11, 0, 0x81, 2, 0x0000⟩),
  (0x2941900200000005, .ishl ⟨4, 1, 9, 0, 0x02, 0, 0x0005⟩)]

theorem test_slotWords_1 : slotWords_1.all (fun p => decodeTableWord 64 p.1 == some p.2) = true := by decide +kernel

/-- Slot words (R47-R50): opcode [63:56], mod [55:52], in0 [51:48], in1 [47:44], in2 [43:40], outmask [39:32], tw [31:30], imm16 [15:0]. -/
def slotWords_2 : List (Nat × Instr) := [
  (0x2A03B08180000000, .ishr ⟨0, 3, 11, 0, 0x81, 2, 0x0000⟩),
  (0x2B03B08180000000, .isar ⟨0, 3, 11, 0, 0x81, 2, 0x0000⟩),
  (0x2C02100200008005, .icmp ⟨0, 2, 1, 0, 0x02, 0, 0x8005⟩),
  (0x2D07004000000000, .iclz ⟨0, 7, 0, 0, 0x40, 0, 0x0000⟩),
  (0x2E07004000000000, .ipopc ⟨0, 7, 0, 0, 0x40, 0, 0x0000⟩),
  (0x2F038A8140000000, .isel ⟨0, 3, 8, 10, 0x81, 1, 0x0000⟩),
  (0x3072000440000014, .cvt ⟨7, 2, 0, 0, 0x04, 1, 0x0014⟩),
  (0x3162000400000000, .qnt4 ⟨6, 2, 0, 0, 0x04, 0, 0x0000⟩),
  (0x3212000400000002, .dqn4 ⟨1, 2, 0, 0, 0x04, 0, 0x0002⟩),
  (0x3303400600000004, .bfly ⟨0, 3, 4, 0, 0x06, 0, 0x0004⟩),
  (0x3831000840000001, .rsum ⟨3, 1, 0, 0, 0x08, 1, 0x0001⟩),
  (0x3981000800000000, .rmax ⟨8, 1, 0, 0, 0x08, 0, 0x0000⟩),
  (0x3A01000880000001, .rmin ⟨0, 1, 0, 0, 0x08, 2, 0x0001⟩),
  (0x3B21000800000000, .scan ⟨2, 1, 0, 0, 0x08, 0, 0x0000⟩),
  (0x4002303000000000, .intsc ⟨0, 2, 3, 0, 0x30, 0, 0x0000⟩),
  (0x4102301000000000, .union ⟨0, 2, 3, 0, 0x10, 0, 0x0000⟩),
  (0x4202301000000000, .filt ⟨0, 2, 3, 0, 0x10, 0, 0x0000⟩),
  (0x4302001000003010, .stopg ⟨0, 2, 0, 0, 0x10, 0, 0x3010⟩),
  (0x4402001000000002, .stopx ⟨0, 2, 0, 0, 0x10, 0, 0x0002⟩),
  (0x4502001100000000, .cnt ⟨0, 2, 0, 0, 0x11, 0, 0x0000⟩),
  (0x4602907000000025, .route ⟨0, 2, 9, 0, 0x70, 0, 0x0025⟩),
  (0x4702560100000000, .mux ⟨0, 2, 5, 6, 0x01, 0, 0x0000⟩),
  (0x4802000300000007, .dup ⟨0, 2, 0, 0, 0x03, 0, 0x0007⟩),
  (0x4902500300000003, .hold ⟨0, 2, 5, 0, 0x03, 0, 0x0003⟩)]

theorem test_slotWords_2 : slotWords_2.all (fun p => decodeTableWord 64 p.1 == some p.2) = true := by decide +kernel

/-- Slot words (R47-R50): opcode [63:56], mod [55:52], in0 [51:48], in1 [47:44], in2 [43:40], outmask [39:32], tw [31:30], imm16 [15:0]. -/
def slotWords_3 : List (Nat × Instr) := [
  (0x4A82000000006005, .accu ⟨8, 2, 0, 0, 0x00, 0, 0x6005⟩),
  (0x4B02000300008000, .drn ⟨0, 2, 0, 0, 0x03, 0, 0x8000⟩),
  (0x500400010000001F, .tldi ⟨0, 4, 0, 0, 0x01, 0, 0x001F⟩),
  (0x510400010000005A, .trd ⟨0, 4, 0, 0, 0x01, 0, 0x005A⟩),
  (0x5204000000000000, .ttr ⟨0, 4, 0, 0, 0x00, 0, 0x0000⟩),
  (0x5304000340000000, .xpnd ⟨0, 4, 0, 0, 0x03, 1, 0x0000⟩),
  (0x6000000000000040, .mma ⟨0, 0, 0, 0, 0x00, 0, 0x0040⟩),
  (0x6108100000001000, .mmas ⟨0, 8, 1, 0, 0x00, 0, 0x1000⟩),
  (0x6202000000000003, .mmz ⟨0, 2, 0, 0, 0x00, 0, 0x0003⟩),
  (0x6300000100000014, .mrd ⟨0, 0, 0, 0, 0x01, 0, 0x0014⟩),
  (0x6413000000000002, .mscl ⟨1, 3, 0, 0, 0x00, 0, 0x0002⟩),
  (0x700300020000FFFE, .const ⟨0, 3, 0, 0, 0x02, 0, 0xFFFE⟩),
  (0x7100000100000003, .iter ⟨0, 0, 0, 0, 0x01, 0, 0x0003⟩),
  (0x7206000000000000, .sink ⟨0, 6, 0, 0, 0x00, 0, 0x0000⟩),
  (0x8006000400000001, .xlt ⟨0, 6, 0, 0, 0x04, 0, 0x0001⟩)]

theorem test_slotWords_3 : slotWords_3.all (fun p => decodeTableWord 64 p.1 == some p.2) = true := by decide +kernel

/-- Stream commands (R57, R58): op [127:120], fused [119:112], size [111:108], space [107:104], port [103:96], reply [95:91], count [90:64], address [63:4], flags [3:0]. -/
def cmdWords_1 : List (Nat × Instr) := [
  (0x014124070000001000ABCDEF01234000, .sld1 ⟨0x41, 2, 4, 0x07, 0, 0x10, 0xABCDEF0123400, 0⟩),
  (0x02002103000000040000000000000400, .sld2 ⟨0x00, 2, 1, 0x03, 0, 0x4, 0x40, 0⟩),
  (0x030423000000000400ABCDEF01234004, .sld3 ⟨0x04, 2, 3, 0x00, 0, 0x4, 0xABCDEF0123400, 4⟩),
  (0x058124093000001000ABCDEF01234001, .sst1 ⟨0x81, 2, 4, 0x09, 6, 0x10, 0xABCDEF0123400, 1⟩),
  (0x0600300F0000000800ABCDEF01234000, .sst2 ⟨0x00, 3, 0, 0x0F, 0, 0x8, 0xABCDEF0123400, 0⟩),
  (0x07102208F800000800ABCDEF01234000, .sst3 ⟨0x10, 2, 2, 0x08, 31, 0x8, 0xABCDEF0123400, 0⟩),
  (0x100024210000000000ABCDEF01234001, .gath ⟨0x00, 2, 4, 0x21, 0, 0x0, 0xABCDEF0123400, 1⟩),
  (0x110024080000000000ABCDEF01234000, .scat ⟨0x00, 2, 4, 0x08, 0, 0x0, 0xABCDEF0123400, 0⟩),
  (0x121224090000000000ABCDEF01234000, .scad ⟨0x12, 2, 4, 0x09, 0, 0x0, 0xABCDEF0123400, 0⟩),
  (0x130024030000000500ABCDEF01234002, .bmld ⟨0x00, 2, 4, 0x03, 0, 0x5, 0xABCDEF0123400, 2⟩),
  (0x140024030000000500ABCDEF01234000, .blkx ⟨0x00, 2, 4, 0x03, 0, 0x5, 0xABCDEF0123400, 0⟩),
  (0x200004000000004000ABCDEF01234000, .copy ⟨0x00, 0, 4, 0x00, 0, 0x40, 0xABCDEF0123400, 0⟩),
  (0x210004020000004000ABCDEF01234000, .cpms ⟨0x00, 0, 4, 0x02, 0, 0x40, 0xABCDEF0123400, 0⟩),
  (0x2282040A4800004000ABCDEF01234000, .cpsm ⟨0x82, 0, 4, 0x0A, 9, 0x40, 0xABCDEF0123400, 0⟩),
  (0x230000310000004D0000000000000000, .cpss ⟨0x00, 0, 0, 0x31, 0, 0x4D, 0x0, 0⟩),
  (0x24000400000000FF00000000000FFE00, .tarm ⟨0x00, 0, 4, 0x00, 0, 0xFF, 0xFFE0, 0⟩),
  (0x25000000000000FE0000000000000000, .tdis ⟨0x00, 0, 0, 0x00, 0, 0xFE, 0x0, 0⟩),
  (0x26000000180000FD0000000000000000, .tfir ⟨0x00, 0, 0, 0x00, 3, 0xFD, 0x0, 0⟩),
  (0x280024A90000000000ABCDEF01234006, .amos ⟨0x00, 2, 4, 0xA9, 0, 0x0, 0xABCDEF0123400, 6⟩),
  (0x2C0044100000080000ABCDEF01234000, .tfil ⟨0x00, 4, 4, 0x10, 0, 0x800, 0xABCDEF0123400, 0⟩),
  (0x2D0044200000040000ABCDEF01234001, .tdrn ⟨0x00, 4, 4, 0x20, 0, 0x400, 0xABCDEF0123400, 1⟩),
  (0x300004000000000900ABCDEF01234001, .pref ⟨0x00, 0, 4, 0x00, 0, 0x9, 0xABCDEF0123400, 1⟩),
  (0x310004003800000900ABCDEF01234000, .lock ⟨0x00, 0, 4, 0x00, 7, 0x9, 0xABCDEF0123400, 0⟩),
  (0x320004004000000900ABCDEF01234000, .unlk ⟨0x00, 0, 4, 0x00, 8, 0x9, 0xABCDEF0123400, 0⟩)]

theorem test_cmdWords_1 : cmdWords_1.all (fun p => decodeTableWord 128 p.1 == some p.2) = true := by decide +kernel

/-- Stream commands (R57, R58): op [127:120], fused [119:112], size [111:108], space [107:104], port [103:96], reply [95:91], count [90:64], address [63:4], flags [3:0]. -/
def cmdWords_2 : List (Nat × Instr) := [
  (0x330004000000000900ABCDEF01234001, .flsh ⟨0x00, 0, 4, 0x00, 0, 0x9, 0xABCDEF0123400, 1⟩),
  (0x380004000000000200000000FFF00000, .xinv ⟨0x00, 0, 4, 0x00, 0, 0x2, 0xFFF0000, 0⟩),
  (0x390004002800000300000000FFF00000, .xpre ⟨0x00, 0, 4, 0x00, 5, 0x3, 0xFFF0000, 0⟩),
  (0x40003400380006A500ABCDEF01234000, .fnew ⟨0x00, 3, 4, 0x00, 7, 0x6A5, 0xABCDEF0123400, 0⟩),
  (0x410034054DFFFF2000ABCDEF01234000, .fmrg ⟨0x00, 3, 4, 0x05, 9, 0x5FFFF20, 0xABCDEF0123400, 0⟩),
  (0x4100340B4800000000ABCDEF01234001, .fmrgPort ⟨0x00, 3, 4, 0x0B, 9, 0x0, 0xABCDEF0123400, 1⟩),
  (0x420034054800000300ABCDEF01234001, .fscn ⟨0x00, 3, 4, 0x05, 9, 0x3, 0xABCDEF0123400, 1⟩),
  (0x430034214800000000ABCDEF01234001, .fprb ⟨0x00, 3, 4, 0x21, 9, 0x0, 0xABCDEF0123400, 1⟩),
  (0x440034054800000A00ABCDEF01234003, .ftop ⟨0x00, 3, 4, 0x05, 9, 0xA, 0xABCDEF0123400, 3⟩),
  (0x450034004800000000ABCDEF01234000, .fcnt ⟨0x00, 3, 4, 0x00, 9, 0x0, 0xABCDEF0123400, 0⟩),
  (0x460034004800000000ABCDEF01234000, .fclr ⟨0x00, 3, 4, 0x00, 9, 0x0, 0xABCDEF0123400, 0⟩),
  (0x470034004800000000ABCDEF01234000, .ffre ⟨0x00, 3, 4, 0x00, 9, 0x0, 0xABCDEF0123400, 0⟩),
  (0x480034A94800000000ABCDEF01234002, .voxl ⟨0x00, 3, 4, 0xA9, 9, 0x0, 0xABCDEF0123400, 2⟩),
  (0x500034003000001000ABCDEF01234000, .bkld ⟨0x00, 3, 4, 0x00, 6, 0x10, 0xABCDEF0123400, 0⟩),
  (0x5100248330FE00030000000000200000, .bkrn ⟨0x00, 2, 4, 0x83, 6, 0xFE0003, 0x20000, 0⟩),
  (0x520024D3300000030000000000400000, .bkrl ⟨0x00, 2, 4, 0xD3, 6, 0x3, 0x40000, 0⟩),
  (0x5800348030001A0F00ABCDEF01234001, .cbld ⟨0x00, 3, 4, 0x80, 6, 0x1A0F, 0xABCDEF0123400, 1⟩)]

theorem test_cmdWords_2 : cmdWords_2.all (fun p => decodeTableWord 128 p.1 == some p.2) = true := by decide +kernel

/-- Bank words (R60): op [63:59], operands in the low bits. -/
def bankWords_1 : List (Nat × Instr) := [
  (0x0800000000007FFE, .brow 0x7FFE),
  (0x1000000000000000, .brel),
  (0x1800000089ABCDEF, .bldk 0x89ABCDEF),
  (0x20000000FEDCBA98, .bldm 0xFEDCBA98),
  (0x2800000000000000, .bcmp),
  (0x3000000000000000, .bcmpa),
  (0x3800000000000000, .bcmpo),
  (0x4000000000000000, .bwr),
  (0x48000000096C4100, .btt 0 8 16 24 0x96),
  (0x5000000000000000, .btset),
  (0x5800000000000000, .btclr),
  (0x6000000000000000, .btnot),
  (0x68000000000003FF, .bshf 0x3FF),
  (0x7000000000000000, .bcnt),
  (0x7800000000000000, .bfst),
  (0x8000000000000000, .bend)]

theorem test_bankWords_1 : bankWords_1.all (fun p => decodeTableWord 64 p.1 == some p.2) = true := by decide +kernel


-- hypotheses met: sequencer ------------------------------------------------------------------------------

theorem test_meets_division : (∃ s : State, s.reg 2 = 0) ∧ (∃ s : State, s.reg 1 = BitVec.ofNat 64 (2^63) ∧ s.reg 2 ≠ 0 ∧ s.reg 2 = BitVec.allOnes 64) :=
  ⟨⟨plain, by decide +kernel⟩, ⟨regs [(1, BitVec.ofNat 64 (2^63)), (2, BitVec.allOnes 64)] plain, by decide +kernel⟩⟩

theorem test_meets_bit_fields : ∃ pos widthM1 : BitVec 6, pos.toNat + widthM1.toNat + 1 ≤ 64 ∧ pos.toNat = 0 ∧ widthM1.toNat = 63 :=
  ⟨0, 63, by decide⟩

theorem test_meets_jr : (∃ s : State, s.reg 1 &&& 3 = 0) ∧ (∃ s : State, s.reg 1 &&& 3 ≠ 0) :=
  ⟨⟨plain, by decide +kernel⟩, ⟨regs [(1, 2)] plain, by decide +kernel⟩⟩

theorem test_meets_cpnl : (∃ s : State, (s.reg 1).toNat % 2^32 < s.self.width * s.self.height ∧ s.self.width * s.self.height ≤ 128) ∧
    (∃ s : State, s.self.width * s.self.height ≤ (s.reg 1).toNat % 2^32) ∧ SysReg.writable .wgt = false :=
  ⟨⟨plain, by decide +kernel⟩, ⟨regs [(1, 1)] plain, by decide +kernel⟩, rfl⟩

theorem test_meets_loads :
    (∃ s : State, s.seqCheck (s.seqAddr 1 8) 8 .load false = .ok (leafAt 0x108) ∧ s.prompt = true ∧
      s.Performs (s.seqReq (leafAt 0x108) (s.seqAddr 1 8) 8 .read 0 (.reg s.site.strand 3))) ∧
    (∃ s : State, s.seqCheck (s.seqAddr 1 0xFFFF) 1 .load false = .ok (leafAt 0xFF) ∧ s.prompt = false) ∧
    (∃ s : State, s.seqCheck (s.seqAddr 1 1) 2 .load false = .error .alignment) :=
  ⟨⟨regs [(1, 0x100)] plain, ok_of (by decide +kernel), by decide +kernel, performs_of (by decide +kernel)⟩,
   ⟨{ regs [(1, 0x100)] plain with prompt := false }, ok_of (by decide +kernel), by decide +kernel⟩,
   ⟨plain, error_of (by decide +kernel)⟩⟩

theorem test_meets_nearest_copy :
    (∃ (s : State) (r : Req), r.streams = false ∧ r.home % r.size = 0 ∧ r.size = 8 ∧ r.virt = true ∧ s.OnlyHome r.die (r.home / 128)) ∧
    (∃ (s : State) (r : Req), r.streams = false ∧ r.home % r.size = 0 ∧ r.size = 64 ∧ r.virt = false ∧ r.key = 0 ∧ s.seals = []) ∧
    (∃ (s : State) (r : Req) (d : DieLine), r.streams = false ∧ r.home % r.size = 0 ∧ r.size = 64 ∧ r.virt = true ∧ r.regionKind ≠ 3 ∧
      s.dieLine r.die (r.home / 128) = some d ∧ d.holds (r.home % 128 / 64) = true) :=
  ⟨⟨plain, { home := 0x108, size := 8, agent := .seq 0, virt := true }, by decide +kernel, by decide +kernel, by decide +kernel, by decide +kernel,
     by decide +kernel, by decide +kernel⟩,
   ⟨plain, { home := 0x140, size := 64, agent := .seq 0, virt := false }, by decide +kernel⟩,
   ⟨{ plain with dieLines := [{ line := 2, present := 1 }] }, { home := 0x100, size := 64, agent := .seq 0 }, { line := 2, present := 1 },
    by decide +kernel⟩⟩

theorem test_meets_stores :
    (∃ s : State, s.seqCheck (s.seqAddr 1 8) 4 .store true = .ok (leafAt 0x108) ∧ s.prompt = true ∧ s.CleanLine (0x108 / 128) ∧
      s.Performs (s.seqReq (leafAt 0x108) (s.seqAddr 1 8) 4 .write (s.reg 2).toNat .none)) ∧
    (∃ s : State, s.seqCheck (s.seqAddr 1 0) 2 .store true = .ok (leafAt 0x100) ∧ s.prompt = false) ∧
    (∃ s : State, s.seqCheck (s.seqAddr 1 0) 8 .store true = .error .region) :=
  ⟨⟨regs [(1, 0x100)] plain, ok_of (by decide +kernel), by decide +kernel, by unfold State.CleanLine; decide +kernel,
     performs_of (by decide +kernel)⟩,
   ⟨{ regs [(1, 0x100)] plain with prompt := false }, ok_of (by decide +kernel), by decide +kernel⟩,
   ⟨regs [(1, 0x8000000)] plain, error_of (by decide +kernel)⟩⟩

theorem test_meets_atomics : ∃ s : State, s.seqCheck (s.reg 1).toNat 8 .atomic true = .ok (leafAt 0x100) ∧ s.prompt = true ∧
    s.CleanLine (0x100 / 128) ∧ ∀ op ∈ [AmoOp.add64, .swp64, .cas64, .max64],
      s.Performs { s.seqReq (leafAt 0x100) (s.reg 1).toNat 8 (.amo op) (s.reg 2).toNat (.reg s.site.strand 3) with expect := s.reg 3 } := by
  refine ⟨regs [(1, 0x100)] plain, ok_of (by decide +kernel), by decide +kernel, by unfold State.CleanLine; decide +kernel, ?_⟩
  simp only [List.mem_cons, List.not_mem_nil, or_false]
  rintro op (rfl | rfl | rfl | rfl) <;> exact performs_of (by decide +kernel)

/-- A word of a SYNC page, empty. -/
def syncAt : State := regs [(1, 0x8000000)] plain

theorem test_meets_presence :
    (∀ s ∈ [syncAt, syncAt.setFull 0x8000000 true], s.prompt = true ∧ s.self.awaits = none ∧ s.CleanLine (0x8000000 / 128) ∧ s.NoDeferred ∧
      s.seqCheck (s.seqAddr 1 0) 8 .presence false = .ok (leafAt 0x8000000) ∧
      s.earlier (s.seqReq (leafAt 0x8000000) (s.seqAddr 1 0) 8 .syncRead 0 (.await s.site.strand)) = false ∧
      s.homeHeld (s.seqReq (leafAt 0x8000000) (s.seqAddr 1 0) 8 .syncRead 0 (.await s.site.strand)) = false ∧
      s.seqCheck (s.seqAddr 1 0) 8 .presence true = .ok (leafAt 0x8000000) ∧ s.performedAt (.seq s.site.strand) 3 = true ∧
      s.Performs (s.seqReq (leafAt 0x8000000) (s.seqAddr 1 0) 8 .stp (s.reg 2).toNat (.await s.site.strand)) ∧
      s.Performs (s.seqReq (leafAt 0x8000000) (s.seqAddr 1 0) 8 .clrp 0 .none)) ∧
    syncAt.isFull 0x8000000 = false ∧ (syncAt.setFull 0x8000000 true).isFull 0x8000000 = true := by
  refine ⟨?_, by decide +kernel, by decide +kernel⟩
  simp only [List.mem_cons, List.not_mem_nil, or_false]
  rintro s (rfl | rfl) <;>
    exact ⟨by decide +kernel, by decide +kernel, by unfold State.CleanLine; decide +kernel, by unfold State.NoDeferred; decide +kernel,
      ok_of (by decide +kernel), by decide +kernel, by decide +kernel, ok_of (by decide +kernel), by decide +kernel,
      performs_of (by decide +kernel), performs_of (by decide +kernel)⟩

/-- A read of strand 1 deferred on the empty word. -/
def deferredAt : State :=
  ({ syncAt with reqs := [{ id := 5, agent := .seq 1, kind := .syncRead, home := 0x8000000, size := 8, stage := .deferred, dest := .await 1
                            va := 0x8000000, regionKind := 1 }] } : State).updStrand 1 (fun t => { t with awaits := some 5 })

theorem test_meets_filled : ∃ (s : State) (q : Req), s.prompt = true ∧ s.self.awaits = none ∧ s.CleanLine (0x8000000 / 128) ∧
    s.seqCheck (s.seqAddr 1 0) 8 .presence true = .ok (leafAt 0x8000000) ∧ s.performedAt (.seq s.site.strand) 3 = true ∧
    s.Performs (s.seqReq (leafAt 0x8000000) (s.seqAddr 1 0) 8 .stp (s.reg 2).toNat (.await s.site.strand)) ∧
    s.isFull 0x8000000 = false ∧ s.reqs = [q] ∧ q.stage = .deferred ∧ q.kind = .syncRead ∧ q.home = 0x8000000 ∧ q.size = 8 ∧
    q.dest = .await 1 ∧ q.key = (leafAt 0x8000000).key ∧ 1 ≠ s.site.strand ∧ (s.strand 1).awaits = some q.id :=
  ⟨deferredAt, _, by decide +kernel, by decide +kernel, by unfold State.CleanLine; decide +kernel, ok_of (by decide +kernel),
   by decide +kernel, performs_of (by decide +kernel), by decide +kernel, rfl, by decide +kernel, by decide +kernel, by decide +kernel,
   by decide +kernel, by decide +kernel, by decide +kernel, by decide +kernel, by decide +kernel⟩

theorem test_meets_fence :
    (∃ s : State, s.performedAt (.seq s.site.strand) 4 = true ∧ s.readsReturned (.seq s.site.strand) = true) ∧
    (∃ s : State, s.performedAt (.seq s.site.strand) 4 = false) ∧ (∃ s : State, s.readsReturned (.seq s.site.strand) = false) :=
  ⟨⟨plain, by decide +kernel⟩, ⟨{ plain with reqs := [{ agent := .seq 0, kind := .write }] }, by decide +kernel⟩,
   ⟨{ plain with reqs := [{ agent := .seq 0, kind := .read }] }, by decide +kernel⟩⟩

-- hypotheses met: control, queues, weights, barriers -------------------------------------------------------

theorem open_of {s : State} {q : Nat} {c : List Nat}
    (h : (decide (q < 2^10) && (s.queue q).valid && decide ((s.queue q).job = s.self.job) &&
      withinScope (s.queue q).scope (q / 256) (s.queue q).homePanel ((s.queue q).homePanel % 8) s.self.lead &&
      c.contains (s.queue q).cls) = true) : s.QueueOpen q c := by
  simp only [Bool.and_eq_true, decide_eq_true_eq, List.contains_iff_mem] at h
  exact ⟨h.1.1.1.1, h.1.1.1.2, h.1.1.2, h.1.2, h.2⟩

/-- Queue 5 of job 0 in the state given, named by x1; the strand holds the weight w. -/
def queued (d : Queue) (w : Word) : State :=
  ((regs [(1, 5)] plain).setQueue 5 { d with valid := true, scope := 3 }).updStrand 0 (fun t => { t with w, proot := 7 })

theorem test_meets_waitk : (∃ s : State, s.self.kpend &&& 0xFF = 0) ∧ (∃ s : State, s.self.kpend &&& 0x80 ≠ 0) :=
  ⟨⟨plain, by decide +kernel⟩, ⟨plain.updStrand 0 (fun t => { t with kpend := 0x80 }), by decide +kernel⟩⟩

theorem test_meets_pushes :
    (∀ c ∈ [0, 1, 2], ∃ s : State, s.QueueOpen (s.reg 1).toNat [c] ∧ (s.queue 5).spillCount = 0 ∧ (s.queue 5).spillCap = 0 ∧ (s.queue 5).count < (s.queue 5).depth ∧
      s.performedAt (.seq s.site.strand) (s.queue 5).scope = true ∧ s.self.w ≠ 0) ∧
    (∃ s : State, s.QueueOpen (s.reg 1).toNat [0, 2] ∧ (s.queue 5).depth ≤ (s.queue 5).count ∧ (s.queue 5).spillCap ≤ (s.queue 5).spillCount) ∧
    (∃ s : State, s.QueueOpen (s.reg 1).toNat [0, 1] ∧ (s.queue 5).spillCount = 0 ∧ (s.queue 5).count < (s.queue 5).depth ∧ s.rowHeld = false ∧ s.self.w = 0) ∧
    (∃ s : State, ¬ s.QueueOpen (s.reg 1).toNat [0, 1]) := by
  refine ⟨?_, ⟨queued { depth := 2, count := 2 } 1, open_of (by decide +kernel), by decide +kernel, by decide +kernel⟩,
    ⟨queued { depth := 2, count := 1, spillCap := 4 } 0, open_of (by decide +kernel), by decide +kernel, by decide +kernel, by decide +kernel, by decide +kernel⟩,
    ⟨plain, fun h => absurd h.valid (by decide +kernel)⟩⟩
  intro c hc
  refine ⟨queued { depth := 2, count := 1, cls := c } 1, ?_⟩
  simp only [List.mem_cons, List.not_mem_nil, or_false] at hc
  rcases hc with rfl | rfl | rfl <;>
    exact ⟨open_of (by decide +kernel), by decide +kernel, by decide +kernel, by decide +kernel, by decide +kernel, by decide +kernel⟩

/-- A push of queue 5 that spills: the queue after the refill that is due, and the address of its message. -/
def spillAt (s : State) : Queue × Nat :=
  let d := (s.refill 5).queue 5
  (d, d.spillVa.toNat + 16 * ((d.spillHead + d.spillCount) % d.spillCap))

theorem test_meets_push_spills :
    (∃ (s : State) (l : Leaf), (s.reg 1).toNat = 5 ∧ s.QueueOpen 5 [0, 1] ∧ s.self.w ≠ 0 ∧ s.performedAt (.seq s.site.strand) (s.queue 5).scope = true ∧
      s.rowHeld = false ∧ (spillAt s).1.spillCount < (spillAt s).1.spillCap ∧ (spillAt s).1.depth ≤ (spillAt s).1.count ∧
      (s.refill 5).CleanLine (l.pa / 128) ∧ (s.refill 5).checkVirt (.die 0) 0 (spillAt s).1.job (spillAt s).2 16 .store true = .ok l) ∧
    (∃ s : State, (s.reg 1).toNat = 5 ∧ s.QueueOpen 5 [0, 1] ∧ s.self.w ≠ 0 ∧ s.rowHeld = false ∧
      (spillAt s).1.spillCount < (spillAt s).1.spillCap ∧ (spillAt s).1.spillCount ≠ 0 ∧
      (s.refill 5).checkVirt (.die 0) 0 (spillAt s).1.job (spillAt s).2 16 .store true = .error .region) :=
  ⟨⟨queued { cls := 1, depth := 1, count := 1, spillCap := 4, spillVa := 0x1000 } 1, leafAt 0x1000, by decide +kernel, open_of (by decide +kernel),
     by decide +kernel, by decide +kernel, by decide +kernel, by decide +kernel, by decide +kernel, by unfold State.CleanLine; decide +kernel,
     ok_of (by decide +kernel)⟩,
   ⟨queued { cls := 1, depth := 1, spillCap := 4, spillCount := 3, spillVa := 0x10000000 } 1, by decide +kernel, open_of (by decide +kernel),
     by decide +kernel, by decide +kernel, by decide +kernel, by decide +kernel, error_of (by decide +kernel)⟩⟩

/-- The queue's one message, at its ring in CHIP scratch, with the upper half given. -/
def messaged (hi : Nat) : State :=
  let s := queued { depth := 2, count := 1 } 1
  s.poke (s.ringAddr 5 0) 16 (9 + hi * 2^64)

theorem test_meets_pops :
    (∀ s ∈ [messaged 0, messaged (2^6 + 7 * 2^7), messaged (2^6 + 3 * 2^7), queued { depth := 2 } 1],
      s.QueueOpen (s.reg 1).toNat [0, 1, 2] ∧ (s.queue 5).bound = none ∧ (s.queue 5).spillCount = 0) ∧
    (let s := messaged (2^6 + 7 * 2^7); let m := s.peek (s.ringAddr 5 (s.queue 5).head) 16
      (s.queue 5).count ≠ 0 ∧ m / 2^70 % 2 = 1 ∧ m / 2^71 % 2^10 = s.self.proot.toNat) ∧
    (let s := messaged (2^6 + 3 * 2^7); let m := s.peek (s.ringAddr 5 (s.queue 5).head) 16
      (s.queue 5).count ≠ 0 ∧ m / 2^70 % 2 = 1 ∧ m / 2^71 % 2^10 ≠ s.self.proot.toNat) ∧
    ((queued { depth := 2 } 1).queue 5).count = 0 := by
  refine ⟨?_, by decide +kernel, by decide +kernel, by decide +kernel⟩
  simp only [List.mem_cons, List.not_mem_nil, or_false]
  rintro s (rfl | rfl | rfl | rfl) <;> exact ⟨open_of (by decide +kernel), by decide +kernel, by decide +kernel⟩

theorem test_meets_roots :
    (∃ s : State, s.self.stack.length < 8 ∧ s.self.stack.length = 7 ∧ ∃ n, n < 256 ∧ (s.root (256 * dieOf s.self.lead + n)).kind = 0) ∧
    (∃ s : State, s.self.stack.length < 8 ∧ ∀ n, n < 256 → (s.root (256 * dieOf s.self.lead + n)).kind ≠ 0) ∧
    (∃ s : State, 8 ≤ s.self.stack.length) ∧
    (∃ s : State, (s.reg 1).toNat ≤ s.self.w.toNat ∧ (s.reg 1).toNat = s.self.w.toNat ∧ s.performedAt (.seq s.site.strand) 3 = true) ∧
    (∃ s : State, s.self.w.toNat < (s.reg 1).toNat) :=
  ⟨⟨plain.updStrand 0 (fun t => { t with stack := List.replicate 7 (0, 0) }), by decide +kernel, by decide +kernel, 255, by decide +kernel⟩,
   ⟨{ plain with roots := (List.range 256).map (fun n => (n, { kind := 2 })) }, by decide +kernel, by decide +kernel⟩,
   ⟨plain.updStrand 0 (fun t => { t with stack := List.replicate 8 (0, 0) }), by decide +kernel⟩,
   ⟨(regs [(1, 4)] plain).updStrand 0 (fun t => { t with w := 4 }), by decide +kernel⟩,
   ⟨(regs [(1, 5)] plain).updStrand 0 (fun t => { t with w := 4 }), by decide +kernel⟩⟩

/-- Strand 0 under the nested root 7, of which 1.0 was issued and `back` has returned; it holds w = 0.5. -/
def nested (back : Nat) : State :=
  ((regs [(1, 7)] plain).setRoot 7 { kind := 2, expected := 2^64, returned := BitVec.ofNat 96 back }).updStrand 0 (fun t =>
    { t with w := 0x4000000000000000, proot := 7, stack := [(3, 0)] })

theorem test_meets_waitq :
    (∀ s ∈ [nested (2^63), nested 0], (s.reg 1).toNat = s.self.proot.toNat ∧ (s.root (s.reg 1).toNat).kind = 2 ∧
      s.performedAt (.seq s.site.strand) 3 = true ∧ s.self.stack = [(3, 0)]) ∧
    (let s := nested (2^63); (s.root 7).returned + BitVec.ofNat 96 (s.self.w.toNat * 2) = (s.root 7).expected) ∧
    (let s := nested 0; (s.root 7).returned + BitVec.ofNat 96 (s.self.w.toNat * 2) ≠ (s.root 7).expected) ∧
    (∃ s : State, (s.reg 1).toNat = s.self.proot.toNat ∧ (s.root (s.reg 1).toNat).kind ≠ 2) ∧
    (∃ s : State, (s.reg 1).toNat < 2^10 ∧ (s.root (s.reg 1).toNat).kind ≠ 0 ∧ (s.root (s.reg 1).toNat).job = s.self.job) ∧
    (∃ s : State, (s.reg 1).toNat < 2^10 ∧ (s.root (s.reg 1).toNat).kind = 0) :=
  ⟨by decide +kernel, by decide +kernel, by decide +kernel, ⟨plain, by decide +kernel⟩, ⟨nested 0, by decide +kernel⟩,
   ⟨plain, by decide +kernel⟩⟩

/-- Barrier 4 of die 0, named by x1 with P = 0; x2 as given. -/
def barred (b : Barrier) (v : Word) : State := (regs [(1, 4), (2, v)] plain).setBarrier 4 b

theorem test_meets_bari :
    (∃ s : State, (s.reg 2).toNat % 2^16 ≠ 0 ∧ (s.reg 2).toNat < 2^19 ∧ (s.reg 2).toNat / 2^16 % 8 ≤ 3 ∧ (s.barrier 4).valid = false ∧
      4 / 128 = dieOf s.self.lead) ∧
    (∃ s : State, (s.reg 2).toNat % 2^16 = 0xFFFF ∧ (s.barrier 4).valid = true ∧ (s.barrier 4).job = s.self.job ∧
      withinScope (s.barrier 4).scope 0 (s.barrier 4).home (clusterOf (s.barrier 4).home) s.self.lead = true ∧
      (s.barrier 4).outstanding = (s.barrier 4).n ∧ (s.barrier 4).pending = 0) ∧
    (∃ s : State, (s.reg 2).toNat % 2^16 = 0 ∧ (s.barrier 4).valid = true ∧ (s.barrier 4).job = s.self.job ∧
      withinScope (s.barrier 4).scope 0 (s.barrier 4).home (clusterOf (s.barrier 4).home) s.self.lead = true ∧
      (s.barrier 4).outstanding = (s.barrier 4).n ∧ (s.barrier 4).pending = 0 ∧ (s.barrier 4).waiting = []) ∧
    (∃ s : State, (s.barrier 4).valid = true ∧ (s.barrier 4).job ≠ s.self.job) ∧
    (∃ s : State, (s.barrier 4).valid = true ∧ (s.barrier 4).outstanding ≠ (s.barrier 4).n) ∧
    (∃ s : State, (s.reg 2).toNat % 2^16 = 0 ∧ (s.barrier 4).valid = false) ∧
    (∃ s : State, (s.reg 2).toNat % 2^16 = 0 ∧ (s.barrier 4).waiting ≠ []) ∧
    (∃ s : State, (s.reg 1).toNat / 2^7 % 4 ≠ dieOf s.self.lead ∧ (s.reg 2).toNat % 2^16 ≠ 0 ∧ (s.reg 2).toNat / 2^16 % 8 < 2) :=
  ⟨⟨barred {} (3 + 2^16), by decide +kernel⟩, ⟨barred { valid := true, n := 2, outstanding := 2 } 0xFFFF, by decide +kernel⟩,
   ⟨barred { valid := true, n := 2, outstanding := 2 } 0, by decide +kernel⟩, ⟨barred { valid := true, job := 1 } 0, by decide +kernel⟩,
   ⟨barred { valid := true, n := 2, outstanding := 1 } 0, by decide +kernel⟩, ⟨barred {} 0, by decide +kernel⟩, ⟨barred { valid := true, waiting := [0] } 0, by decide +kernel⟩,
   ⟨regs [(1, 0x84), (2, 1 + 2^16)] plain, by decide +kernel⟩⟩

theorem test_meets_barriers :
    (∀ s ∈ [barred { valid := true, n := 2, outstanding := 1 } 8, barred { valid := true, n := 2 } 8,
        barred { valid := true, n := 2, phase := true } (2^47)],
      (s.reg 1).toNat < 2^10 ∧ (s.barrier 4).valid = true ∧ (s.barrier 4).job = s.self.job ∧
      withinScope (s.barrier 4).scope (4 / 128) (s.barrier 4).home (clusterOf (s.barrier 4).home) s.self.lead = true) ∧
    (let s := barred { valid := true, n := 2, outstanding := 1 } 8; (s.reg 2).toNat < 2^47 ∧ (s.barrier 4).outstanding ≠ 0 ∧
      s.performedAt (.seq s.site.strand) (s.barrier 4).scope = true ∧ (s.barrier 4).phase = decide ((s.reg 1).toNat / 2^9 % 2 = 1)) ∧
    (let s := barred { valid := true, n := 2 } 8; (s.barrier 4).outstanding = 0 ∧
      s.performedAt (.seq s.site.strand) (s.barrier 4).scope = true) ∧
    (let s : State := { barred { valid := true, n := 2, scope := 2 } 8 with reqs := [{ agent := .seq 0, kind := .write }] };
      s.performedAt (.seq s.site.strand) (s.barrier 4).scope = false) ∧
    (let s := barred { valid := true, n := 2, phase := true } (2^47); 2^47 ≤ (s.reg 2).toNat ∧
      (s.barrier 4).phase ≠ decide ((s.reg 1).toNat / 2^9 % 2 = 1)) := by decide +kernel

-- hypotheses met: commands, configuration, the end of a strand ----------------------------------------------

/-- Element 7 with a command queue of n entries, a shape word owed or not. -/
def queueOf (n : Nat) (owed : Bool) : State :=
  plain.updAge 7 (fun a => { a with queue := List.replicate n {}, shapeOwed := owed })

theorem test_meets_commands :
    (∃ s : State, s.self.kpend &&& 0x01 ≠ 0) ∧
    (∃ s : State, s.self.kpend &&& 0 = 0 ∧ s.self.ageAt s.self.cpnl.toNat 0 = 7 ∧ (s.elem 7).age.queue.length = 13) ∧
    (∃ s : State, (s.elem 7).age.queue.length = 15 ∧ (s.elem 7).age.shapeOwed = true) ∧
    (∃ s : State, (s.elem 7).age.queue.length = 15 ∧ (BitVec.ofNat 128 ((s.reg 1).toNat + (s.reg (1 + 1)).toNat * 2^64)).toNat / 2^120 = 0x26) ∧
    (∃ s : State, ¬ ((s.elem 7).age.queue.length < 14 ∨ ((s.elem 7).age.queue.length < 16 ∧ (s.elem 7).age.shapeOwed = true))) :=
  ⟨⟨plain.updStrand 0 (fun t => { t with kpend := 1 }), by decide +kernel⟩, ⟨queueOf 13 false, by decide +kernel⟩,
   ⟨queueOf 15 true, by decide +kernel⟩, ⟨regs [(2, 0x2600000000000000)] (queueOf 15 false), by decide +kernel⟩,
   ⟨queueOf 14 false, by decide +kernel⟩⟩

theorem test_meets_drain : plain.drained plain.site.strand = true ∧ (queueOf 1 false).drained 0 = false ∧ plain.partOf plain.self = none ∧
    (∀ x ∈ [true, false], ∃ (s : State) (p : Part), s.partOf s.self = some p ∧ s.groupLoaded p.group = x) := by
  refine ⟨by decide +kernel, by decide +kernel, by decide +kernel, ?_⟩
  simp only [List.mem_cons, List.not_mem_nil, or_false]
  rintro x (rfl | rfl)
  · exact ⟨{ plain with parts := [(0, { group := 1, number := 1 })] }, _, rfl, by decide +kernel⟩
  · exact ⟨{ plain with parts := [(0, { group := 1, number := 1 }), (1, { group := 1, number := 2, away := 1 })] }, _, rfl, by decide +kernel⟩

/-- A record at 0x1000 of an image of one panel at 0x4000 in which no element is present, with its script after it, and another at 0x2000. -/
def recorded : State :=
  (((regs [(1, 0x1000)] plain).poke 0x1000 16 (0x4000 + 4096 * 2^64)).poke 0x2000 32 (0x4000 + 4096 * 2^64 + 0x1000 * 2^128)).updStrand 0
    (fun t => { t with cpc := 0x2000 })

theorem recorded_loads : ∃ p, recorded.loadCheck 0 0x1000 = .ok p := ok_some (by decide +kernel)

theorem test_meets_cfgld :
    (∃ (s : State) (p : LoadPlan), s.drained s.site.strand = true ∧ s.rowHeld = false ∧ s.loadCheck s.site.strand ((s.reg 1).toNat % 2^60) = .ok p) ∧
    (∃ s : State, s.drained s.site.strand = true ∧ s.rowHeld = true) ∧
    (∃ s : State, s.drained s.site.strand = true ∧ s.rowHeld = false ∧ s.loadCheck s.site.strand ((s.reg 1).toNat % 2^60) = .error (.cause 3)) ∧
    (∃ s : State, s.drained s.site.strand = true ∧ s.rowHeld = false ∧ s.loadCheck s.site.strand ((s.reg 1).toNat % 2^60) = .error (.access .translation 0x20000000)) := by
  refine ⟨?_, ⟨{ plain with banks := [(0, { held := true })] }, by decide +kernel⟩,
    ⟨recorded.updStrand 0 (fun t => { t with width := 2 }), by decide +kernel, by decide +kernel, error_of (by decide +kernel)⟩,
    ⟨regs [(1, 0x20000000)] plain, by decide +kernel, by decide +kernel, error_of (by decide +kernel)⟩⟩
  obtain ⟨p, hp⟩ := recorded_loads
  have h : (recorded.reg 1).toNat % 2^60 = 0x1000 ∧ recorded.site.strand = 0 := by decide +kernel
  exact ⟨recorded, p, by decide +kernel, by decide +kernel, by rw [h.1, h.2]; exact hp⟩

theorem test_meets_cfgnx :
    (∃ (s : State) (v : Nat) (p : LoadPlan), s.drained s.site.strand = true ∧ s.rowHeld = false ∧
      s.readVirtNat (.seq 0) (dieOf s.self.lead) s.self.job s.self.cpc.toNat 32 = .ok v ∧ v / 2^128 % 2^60 = 0x1000 ∧
      s.loadCheck 0 0x1000 = .ok p) ∧
    (∃ (s : State) (v : Nat), s.drained s.site.strand = true ∧ s.rowHeld = false ∧
      s.readVirtNat (.seq 0) (dieOf s.self.lead) s.self.job s.self.cpc.toNat 32 = .ok v ∧ v / 2^128 % 2^60 = 0) := by
  refine ⟨?_, ?_⟩
  · obtain ⟨p, hp⟩ := recorded_loads
    exact ⟨recorded, 0x4000 + 4096 * 2^64 + 0x1000 * 2^128, p, by decide +kernel, by decide +kernel, ok_of (by decide +kernel), by decide +kernel, hp⟩
  · exact ⟨recorded.updStrand 0 (fun t => { t with cpc := 0x1000 }), 0x4000 + 4096 * 2^64, by decide +kernel, by decide +kernel, ok_of (by decide +kernel),
      by decide +kernel⟩

theorem test_meets_halt_and_yield :
    (plain.drained 0 = true ∧ plain.self.kpend = 0 ∧ plain.performedAt (.seq 0) 3 = true ∧ plain.self.stack = [] ∧ plain.self.carried = false ∧
      (plain.job 0).preemptAt = none) ∧
    (let s := plain.updJob 0 (fun j => { j with preemptAt := some 0 });
      s.self.carried = false ∧ (s.job s.self.job).preemptAt.isSome = true ∧ s.self.onFabric = true) ∧
    (plain.updStrand 0 (fun t => { t with kpend := 1 })).self.kpend ≠ 0 ∧
    (let s := plain.updStrand 0 (fun t => { t with carried := true }); s.self.carried = true ∧ s.self.stack = [] ∧ s.drained 0 = true ∧
      s.self.kpend = 0 ∧ s.performedAt (.seq 0) 3 = true) ∧
    (let s := plain.updStrand 0 (fun t => { t with carried := true, stack := [(0, 0)] }); s.self.carried = true ∧ s.self.stack ≠ []) ∧
    (let s := plain.updJob 0 (fun j => { j with launches := [(0, { left := 1 })] })
     ((s.job s.self.job).launches.look {} s.self.node : Launch).left ≠ 0) := by decide +kernel

-- hypotheses met: elements ------------------------------------------------------------------------------------

/-- Whether nothing but its own operands keeps the acting slot from a firing. -/
def canFire (code : Nat) (sl : Slot) (source : Bool) (out : List (Nat × Token)) (s : State) : Bool :=
  !s.slotHeld s.site.elem code sl source && !(s.elem s.site.elem).tileWaits s.site.slot sl && (s.elem s.site.elem).roomFor out &&
  (s.elem s.site.elem).admits out && (s.badOperand s.site.elem s.site.slot code sl).isNone

theorem fire_of {code : Nat} {sl : Slot} {source : Bool} {out : List (Nat × Token)} {s : State} (h : canFire code sl source out s = true) :
    CanFire code sl source out s := by
  simp only [canFire, Bool.and_eq_true, Bool.not_eq_true', Option.isNone_iff_eq_none] at h
  exact ⟨h.1.1.1.1, h.1.1.1.2, h.1.1.2, h.1.2, h.2⟩

/-- Whether one-beat DATA tokens stand at the heads of the inputs listed. -/
def rowsReady (e : Elem) (ports : List Nat) : Bool :=
  ports.all (fun p => match e.head p with | some t => t.kind == .data && t.tile == false | none => false)

theorem rowsAt_of {e : Elem} {ports : List Nat} (h : rowsReady e ports = true) : e.rowsAt ports := by
  intro p hp
  have := List.all_eq_true.1 h p hp
  revert this
  cases e.head p with
  | none => simp
  | some t => intro h; simp only [Bool.and_eq_true, beq_iff_eq] at h; exact ⟨t, rfl, h.1, h.2⟩

theorem ready_of {code : Nat} {sl : Slot} {b : Nat} {s : State}
    (h : (rowsReady (s.elem s.site.elem) (slotChannels code sl) &&
      (s.operandRows s.site.elem s.site.slot sl b (pairMode code sl) (slotOperands code sl)).toOption.isSome &&
      canFire code sl false (toPorts sl.outmask (Token.dat 0)) s) = true) : ∃ rows, RowReady code sl b rows s := by
  simp only [Bool.and_eq_true] at h
  obtain ⟨rows, hr⟩ := ok_some h.1.2
  exact ⟨rows, rowsAt_of h.1.1, hr, fire_of h.2⟩

/-- Element e, configured with a format and its `GO`, with the tokens given standing in its inputs; it acts. -/
def elemWith (e fmt : Nat) (chans : List (Nat × List Token)) : State :=
  let s := plain.updElem e (fun x => { x with
    configured := true, kind := kindAt e, fmt, go := true, chans := chans.map (fun c => (c.1, c.2.map (fun t => { tok := t }))) })
  { s with site := { elem := e } }

/-- Three inputs with one row each. -/
def three : List (Nat × List Token) := [(0, [Token.dat 5]), (1, [Token.dat 6]), (2, [Token.dat 7])]

/-- A slot that names the first three inputs as far as its form uses them, with output 0. -/
def slotFor (code imm : Nat) : Slot :=
  let sl : Slot := { mod := 0, in0 := 0, in1 := 1, in2 := 2, outmask := 1, tw := 0, imm := BitVec.ofNat 16 imm }
  let u := slotUses code sl
  { sl with in1 := if u.2.1 then 1 else 0, in2 := if u.2.2 then 2 else 0 }

theorem test_meets_fp : numOf ((elemWith 0 0x10 three).elem (elemWith 0 0x10 three).site.elem).fmt = some (.flt fp32) ∧
    ∀ code ∈ [0x10, 0x11, 0x12, 0x13, 0x14, 0x15, 0x16, 0x17, 0x18, 0x19, 0x1D, 0x1A, 0x1B, 0x1C],
      ∃ rows, RowReady code (slotFor code 0) fp32.bits rows (elemWith 0 0x10 three) := by
  refine ⟨by decide +kernel, ?_⟩
  simp only [List.mem_cons, List.not_mem_nil, or_false]
  rintro code (rfl | rfl | rfl | rfl | rfl | rfl | rfl | rfl | rfl | rfl | rfl | rfl | rfl | rfl) <;> exact ready_of (by decide +kernel)

theorem test_meets_int : numOf ((elemWith 0 0x01 three).elem (elemWith 0 0x01 three).site.elem).fmt = some (.int ⟨8, true⟩) ∧
    ∀ code ∈ [0x20, 0x21, 0x22, 0x23, 0x24, 0x25, 0x29, 0x2A, 0x2B, 0x2C, 0x2D, 0x2E, 0x26, 0x27, 0x28, 0x2F],
      ∃ rows, RowReady code (slotFor code 0) 8 rows (elemWith 0 0x01 three) := by
  refine ⟨by decide +kernel, ?_⟩
  simp only [List.mem_cons, List.not_mem_nil, or_false]
  rintro code (rfl | rfl | rfl | rfl | rfl | rfl | rfl | rfl | rfl | rfl | rfl | rfl | rfl | rfl | rfl | rfl) <;> exact ready_of (by decide +kernel)

theorem test_meets_reduced : ∃ i : IFmt, 1 ≤ i.n ∧ i.n = 1 := ⟨⟨1, true⟩, by decide⟩

theorem test_meets_reductions :
    (∀ code ∈ [0x38, 0x39, 0x3A, 0x3B], ∃ rows, RowReady code (slotFor code 0) 32 rows (elemWith 0 0x10 three)) ∧
    (∃ rows, RowReady 0x53 { slotFor 0x53 0 with mod := 8 } 32 rows
      ((elemWith 0 0x10 three).updElem 0 (fun x => { x with frets := [(0, { valid := [(0, true)] })], fretOn := true, chans := [(0, [{ tok := Token.dat 0 }])] }))) ∧
    (∃ rows, RowReady 0x33 (slotFor 0x33 3) 32 rows (elemWith 0 0x10 three)) ∧ 2^3 ≠ 512 / fp32.bits := by
  refine ⟨?_, ready_of (by decide +kernel), ready_of (by decide +kernel), by decide⟩
  simp only [List.mem_cons, List.not_mem_nil, or_false]
  rintro code (rfl | rfl | rfl | rfl) <;> exact ready_of (by decide +kernel)

/-- `BFLY` across two tokens: inputs 0 and 1, outputs 0 and 1, k = 4 in FP32. -/
def across : Slot := { mod := 0, in0 := 0, in1 := 1, in2 := 0, outmask := 3, tw := 0, imm := 4 }

/-- The outputs of a firing of `BFLY` across two rows. -/
def acrossOut (rows : List Row) : List (Nat × Token) :=
  let x := rowElems 32 (rows.getD 0 0)
  let z := rowElems 32 (rows.getD 1 0)
  [(0, Token.dat (packRow 32 ((x.zip z).map (fun y => fp32.add .rne y.1 y.2)))),
    (1, Token.dat (packRow 32 ((x.zip z).map (fun y => fp32.sub .rne y.1 y.2))))]

theorem ok_eq {ε α : Type} {x : Except ε α} {v : α} (h : x.toOption = some v) : x = .ok v := by
  cases x with
  | error e => simp [Except.toOption] at h
  | ok a => simp only [Except.toOption, Option.some.injEq] at h; rw [h]

/-- Its second operand an input, or `ta` (code 8). -/
theorem test_meets_bfly_across : ∀ sl ∈ [across, { across with in1 := 8 }], ∃ (s : State) (rows : List Row),
    2^4 = 512 / fp32.bits ∧ slotMode sl = .rne ∧ (s.elem s.site.elem).rowsAt (slotChannels 0x33 sl) ∧
    s.operandRows s.site.elem s.site.slot sl 32 false [sl.in0, sl.in1] = .ok rows ∧ maskPorts sl.outmask = [0, 1] ∧
    CanFire 0x33 sl false (acrossOut rows) s := by
  simp only [List.mem_cons, List.not_mem_nil, or_false]
  rintro sl (rfl | rfl)
  · exact ⟨elemWith 0 0x10 three, [5, 6], by decide, by decide +kernel, rowsAt_of (by decide +kernel), ok_eq (by decide +kernel), by decide +kernel,
      fire_of (by decide +kernel)⟩
  · exact ⟨elemWith 0 0x10 three, [5, 0], by decide, by decide +kernel, rowsAt_of (by decide +kernel), ok_eq (by decide +kernel), by decide +kernel,
      fire_of (by decide +kernel)⟩

/-- R145, R126: a slot that adds and subtracts `ta` is no refused slot, nor is one that holds it (R131); R159: a row that a whole tile does not use is none either. -/
theorem test_operands_accepted :
    (Instr.bfly { across with in1 := 8 }).wf = true ∧ (Instr.tldi ⟨0, 0, 0, 0, 0, 0, 3⟩).wf = true ∧
    (Instr.bfly { across with in1 := 9 }).wf = false ∧ (Instr.hold ⟨0, 0, 8, 0, 1, 0, 0⟩).wf = true := by decide +kernel

theorem test_meets_segments :
    (∃ (s : State) (tok : Token), (s.elem s.site.elem).head 0 = some tok ∧ tok.kind = .data ∧ tok.tile = false ∧
      ∀ code ∈ [0x38, 0x39, 0x3A], CanFire code (slotFor code 1) false [] s) ∧
    (∃ (s : State) (tok : Token), (s.elem s.site.elem).head 0 = some tok ∧ tok.kind = .stop 3 ∧
      ∀ code ∈ [0x38, 0x39, 0x3A], CanFire code (slotFor code 1) false [(0, Token.dat 0), (0, tok)] s) := by
  refine ⟨⟨elemWith 0 0x10 three, Token.dat 5, by decide +kernel, rfl, rfl, ?_⟩,
    ⟨elemWith 0 0x10 [(0, [Token.ctl (.stop 3)])], Token.ctl (.stop 3), by decide +kernel, rfl, ?_⟩⟩ <;>
  · simp only [List.mem_cons, List.not_mem_nil, or_false]
    rintro code (rfl | rfl | rfl) <;> exact fire_of (by decide +kernel)

theorem test_meets_conversions :
    (∃ (s : State) (rows : List Row), rows.length = 512 / fp16.bits / Nat.gcd (512 / fp32.bits) (512 / fp16.bits) ∧
      numOf (s.elem s.site.elem).fmt = some (.flt fp16) ∧ numOf ((slotFor 0x30 0x10).imm.toNat % 256) = some (.flt fp32) ∧
      (∃ rest, (s.elem s.site.elem).standing 0 = rows.map Token.dat ++ rest) ∧ CanFire 0x30 (slotFor 0x30 0x10) false [(0, Token.dat 0)] s) ∧
    (∃ (s : State) (rows : List Row), rows.length = 6 ∧ isBlk (s.elem s.site.elem).fmt = true ∧
      (∃ rest, (s.elem s.site.elem).standing 0 = rows.map Token.dat ++ rest) ∧ CanFire 0x31 (slotFor 0x31 0) false [(0, Token.dat 0)] s) ∧
    (∃ (s : State) (tok : Token), isBlk (s.elem s.site.elem).fmt = true ∧ (s.elem s.site.elem).head 0 = some tok ∧ tok.kind = .data ∧
      tok.tile = false ∧ CanFire 0x32 (slotFor 0x32 2) false ((List.replicate 3 (Token.dat 0)).map (fun t => (0, t))) s) :=
  ⟨⟨elemWith 0 0x11 [(0, [Token.dat 1, Token.dat 2])], [1, 2], by decide +kernel, by decide +kernel, by decide +kernel,
     ⟨[], by decide +kernel⟩, fire_of (by decide +kernel)⟩,
   ⟨elemWith 0 0x20 [(0, (List.replicate 6 (Token.dat 1)))], List.replicate 6 1, by decide +kernel, by decide +kernel,
     ⟨[], by decide +kernel⟩, fire_of (by decide +kernel)⟩,
   ⟨elemWith 0 0x20 three, Token.dat 5, by decide +kernel, by decide +kernel, rfl, rfl, fire_of (by decide +kernel)⟩⟩

theorem test_meets_control (tok : Token) (h : tok = Token.ctl .eos ∨ tok = Token.ctl (.stop 1)) :
    tok.kind.isControl = true ∧
    ∀ x ∈ [(0x10, 0x10), (0x13, 0x10), (0x20, 0x01), (0x2F, 0x01), (0x3B, 0x10), (0x38, 0x10), (0x32, 0x20), (0x42, 0), (0x46, 0), (0x48, 0),
        (0x50, 0), (0x51, 0), (0x70, 0)],
      let s := elemWith 0 x.2 [(0, [tok]), (1, [tok]), (2, [tok])]
      slotChannels x.1 (slotFor x.1 0) ≠ [] ∧ (∀ p ∈ slotChannels x.1 (slotFor x.1 0), (s.elem s.site.elem).head p = some tok) ∧
        canFire x.1 (slotFor x.1 0) false (toPorts (slotFor x.1 0).outmask tok) s = true := by
  rcases h with rfl | rfl <;> decide +kernel

theorem test_meets_faults :
    (∃ s : State, numOf (s.elem s.site.elem).fmt = some (.flt fp32) ∧ s.slotHeld s.site.elem 0x10 (slotFor 0x10 0) false = false ∧
      (s.elem s.site.elem).tileWaits s.site.slot (slotFor 0x10 0) = false ∧ (∀ p ∈ slotChannels 0x10 (slotFor 0x10 0), ((s.elem s.site.elem).head p).isSome = true) ∧
      (s.elem s.site.elem).heads (slotChannels 0x10 (slotFor 0x10 0)) = .mismatch 1) ∧
    (∃ s : State, numOf (s.elem s.site.elem).fmt = some (.flt fp32) ∧ s.slotHeld s.site.elem 0x10 (slotFor 0x10 0) false = false ∧
      (s.elem s.site.elem).heads (slotChannels 0x10 (slotFor 0x10 0)) = .data ∧
      (s.elem s.site.elem).wrongShape (slotChannels 0x10 (slotFor 0x10 0)) true = some 0) ∧
    (∃ s : State, (s.elem s.site.elem).rowsAt (slotChannels 0x10 { slotFor 0x10 0 with mod := 8 }) ∧
      s.slotHeld s.site.elem 0x10 { slotFor 0x10 0 with mod := 8 } false = false ∧
      (s.elem s.site.elem).roomFor (toPorts (slotFor 0x10 0).outmask {}) = true ∧
      ∃ i, errOf (s.operandRows s.site.elem 0 { slotFor 0x10 0 with mod := 8 } 32 false (slotOperands 0x10 (slotFor 0x10 0))) = some (0, i)) :=
  ⟨⟨elemWith 0 0x10 [(0, [Token.dat 5]), (1, [Token.ctl .eos])], by decide +kernel, by decide +kernel, by decide +kernel,
     by decide +kernel, by decide +kernel⟩,
   ⟨elemWith 0 0x10 [(0, [Token.tileOf (List.replicate 16 0)]), (1, [Token.dat 5])], by decide +kernel, by decide +kernel, by decide +kernel,
     by decide +kernel⟩,
   ⟨elemWith 0 0x10 three, rowsAt_of (by decide +kernel), by decide +kernel, by decide +kernel, 5, by decide +kernel⟩⟩

-- hypotheses met: sparse, tile and matrix forms --------------------------------------------------------------

/-- A pair token. -/
def pair (c v : Nat) : Token := Token.dat (pairRow c v)

/-- A tile token of zeros. -/
def tileTok : Token := Token.tileOf (List.replicate 16 0)

theorem test_meets_joins :
    (∀ x ∈ [(pair 3 1, pair 4 1), (pair 3 1, Token.ctl .eos), (pair 4 1, pair 3 1), (Token.ctl .eos, pair 3 1), (pair 3 1, pair 3 2),
        (Token.ctl .eos, Token.ctl .eos)],
      let s := elemWith 6 0x10 [(0, [x.1]), (1, [x.2])]; let sl := slotFor 0x40 0;
      (s.elem s.site.elem).head 0 = some x.1 ∧ (s.elem s.site.elem).head 1 = some x.2 ∧
      ((s.elem s.site.elem).slot 0).last0 = none ∧ ((s.elem s.site.elem).slot 0).last1 = none ∧
      canFire 0x40 sl false [] s = true ∧ canFire 0x41 sl false (tripleOut sl 3 (some 1) (some 2)) s = true) ∧
    lane (pair 3 1).row 0 < lane (pair 4 1).row 0 ∧ lane (pair 3 1).row 0 = lane (pair 3 2).row 0 ∧ (Token.ctl .eos).kind.isControl = true := by
  decide +kernel

theorem test_meets_filter_route_dup :
    (let s := elemWith 6 0x10 three;
      (s.elem s.site.elem).head 0 = some (Token.dat 5) ∧ (s.elem s.site.elem).head 1 = some (Token.dat 6) ∧
      canFire 0x42 (slotFor 0x42 1) false [(0, Token.dat 5)] s = true ∧ canFire 0x48 (slotFor 0x48 7) false (List.replicate 8 (0, Token.dat 5)) s = true ∧
      canFire 0x42 (slotFor 0x42 0) false [(0, Token.dat 5)] s = true) ∧
    (let s := elemWith 6 0x10 [(0, [Token.dat 5]), (1, [Token.dat 0])];
      (maskPorts (slotFor 0x46 0).outmask)[lane (Token.dat 0).row 0]? = some 0 ∧ canFire 0x46 (slotFor 0x46 0) false [(0, Token.dat 5)] s = true) ∧
    (let s := elemWith 6 0x10 [(0, [Token.dat 5])]; let sl : Slot := { slotFor 0x46 0 with in1 := 9, outmask := 0x80 };
      (maskPorts sl.outmask)[lane (Token.dat 5).row 0 / 2^0 % 2^0]? = some 7 ∧ canFire 0x46 sl false [(7, Token.dat 5)] s = true) ∧
    (let s := elemWith 6 0x10 [(0, [Token.dat 5])]; let sl : Slot := { slotFor 0x46 0xE0 with in1 := 9 };
      (maskPorts sl.outmask)[lane (Token.dat 5).row 0 / 2^0 % 2^7]? = none ∧ s.slotHeld s.site.elem 0x46 sl false = false ∧
      (s.elem s.site.elem).tileWaits 0 sl = false) := by decide +kernel

theorem test_meets_stop_and_count :
    ∀ t ∈ [Token.dat 5, Token.ctl .eos, Token.ctl (.stop 1), Token.ctl (.stop 3)],
      let s := elemWith 6 0x10 [(0, [t])];
      (s.elem s.site.elem).head 0 = some t ∧ ((s.elem s.site.elem).slot 0).run = 0 ∧
      ∀ x ∈ [(0x43, 0x1000), (0x43, 0x1FFF), (0x44, 3), (0x45, 0)],
        canFire x.1 (slotFor x.1 x.2) false [(0, t), (0, Token.ctl (.stop 1))] s = true := by decide +kernel

theorem test_meets_mux_hold_sink :
    (∀ sel ∈ [Token.dat 0, Token.dat 1, Token.ctl .eos], let s := elemWith 6 0x10 [(0, [Token.dat 5]), (1, [Token.dat 6]), (2, [sel])];
      (s.elem s.site.elem).head 2 = some sel ∧ (s.elem s.site.elem).head 0 = some (Token.dat 5) ∧ (s.elem s.site.elem).head 1 = some (Token.dat 6) ∧
      canFire 0x47 (slotFor 0x47 0) false [(0, Token.dat 5)] s = true ∧ canFire 0x72 { slotFor 0x72 0 with outmask := 0 } false [] s = true) ∧
    (let s := elemWith 6 0x10 [(0, [Token.dat 5]), (1, [Token.dat 6])];
      ((s.elem s.site.elem).slot 0).latch = none ∧ canFire 0x49 (slotFor 0x49 1) false [] s = true) ∧
    (∀ b ∈ [Token.dat 6, Token.ctl (.stop 1), Token.ctl .eos],
      let s := (elemWith 6 0x10 [(1, [b])]).updElem 6 (fun x => x.updSlot 0 (fun y => { y with latch := some (Token.dat 5) }));
      ((s.elem s.site.elem).slot 0).latch = some (Token.dat 5) ∧ (s.elem s.site.elem).head 1 = some b ∧
      canFire 0x49 (slotFor 0x49 1) false [(0, b)] s = true) := by decide +kernel

theorem test_meets_accumulate :
    (∀ c ∈ [2048, 4095, 0, 4096], let s := elemWith 6 0x10 [(0, [pair c 3])]; let sl := slotFor 0x4A 1;
      (s.elem s.site.elem).head 0 = some (pair c 3) ∧ lane (pair c 3).row 0 = c ∧ slotXi sl = false ∧
      s.slotHeld 6 0x4A sl false = false ∧ (s.elem 6).tileWaits 0 sl = false) ∧
    (let s := elemWith 0 0x10 [(0, [pair 2048 3])]; let sl := { slotFor 0x4A 1 with outmask := 0 };
      (s.elem s.site.elem).occ.look false 0 = false ∧ canFire 0x4A sl false [] s = true) ∧
    (let s := (elemWith 0 0x10 [(0, [pair 4095 3])]).updElem 0 (fun x => { x with occ := [(2047, true)] });
      let sl := { slotFor 0x4A 1 with outmask := 0 };
      (s.elem s.site.elem).occ.look false (4095 - 2048) = true ∧ s.isBad (elemHome 0 + 64 * (2047 / 16)) 64 = false ∧
      canFire 0x4A sl false [] s = true) ∧
    (let s := (elemWith 0 0x10 [(0, [Token.ctl .eos])]).updElem 0 (fun x => { x with occ := [(7, true)] }); let sl := slotFor 0x4B 1;
      (s.elem s.site.elem).occ = (7, true) :: [] ∧ s.isBad (elemHome 0 + 64 * (7 / 16)) 64 = false ∧ canFire 0x4B sl false [(0, Token.dat 0)] s = true) ∧
    (let s := elemWith 0 0x10 [(0, [Token.ctl .eos])]; let sl := slotFor 0x4B 1
      (∀ x ∈ (s.elem s.site.elem).occ, x.2 = false) ∧ canFire 0x4B sl false (toPorts sl.outmask (Token.ctl .eos)) s = true) := by
  decide +kernel

theorem test_meets_const_iter_xlt :
    (let s := elemWith 0 0x10 three; s.tlbs = [] ∧ (s.elem s.site.elem).fmt < 0x20 ∧ canFire 0x70 (slotFor 0x70 3) false [(0, Token.dat 0)] s = true ∧
      canFire 0x80 (slotFor 0x80 0) false [(0, Token.dat 0)] s = true) ∧
    (∀ n ∈ [0, 3, 4], let s := (elemWith 0 0x10 []).updElem 0 (fun x => x.updSlot 0 (fun y => { y with emitted := n }));
      ((s.elem s.site.elem).slot 0).ended = false ∧ ((s.elem s.site.elem).slot 0).emitted = n ∧
      canFire 0x71 { slotFor 0x71 3 with in0 := 0 } true [(0, Token.dat 0)] s = true) ∧
    ((((elemWith 0 0x10 []).updElem 0 (fun x => x.updSlot 0 (fun y => { y with ended := true }))).elem 0).slot 0).ended = true := by
  decide +kernel

theorem test_meets_tiles :
    (let s := elemWith 0 0x10 [(0, [tileTok])];
      (s.elem s.site.elem).head 0 = some tileTok ∧ (∀ x ∈ (s.elem s.site.elem).tlValid, x.2 = false) ∧ canFire 0x50 (slotFor 0x50 0) false [] s = true) ∧
    (let s := elemWith 0 0x10 [(0, [Token.dat 5])];
      (s.elem s.site.elem).head 0 = some (Token.dat 5) ∧ (s.elem s.site.elem).tlValid.look false 15 = false ∧
      canFire 0x50 (slotFor 0x50 31) false [] s = true ∧ canFire 0x51 (slotFor 0x51 0x5F) false [(0, Token.dat 0), (0, Token.ctl .xchg)] s = true ∧
      canFire 0x52 { slotFor 0x52 0 with outmask := 0 } false [] s = true ∧ s.bad = []) := by decide +kernel

theorem test_meets_transpose : ∃ r j : Nat, r < 16 ∧ j < 16 ∧ r = 15 ∧ j = 0 := ⟨15, 0, by decide⟩

theorem test_meets_exchanges :
    (∀ v ∈ [true, false], let s := (elemWith 1 0x12 [(3, [Token.ctl .xchg])]).updElem 1 (fun x =>
        { x with tlValid := (List.range 16).map (fun r => (r, v || r != 15)) })
      (s.elem s.site.elem).head 3 = some (Token.ctl .xchg) ∧ (s.elem s.site.elem).kind = .mxe ∧
      (∀ q, q < 3 → (s.elem s.site.elem).head q = none) ∧ ((s.elem s.site.elem).tlValid.look false 15 = v) ∧
      ∀ r, r < 15 → (s.elem s.site.elem).tlValid.look false r = true) ∧
    (let s := elemWith 0 0x10 [(7, [Token.beat .swap 1])];
      (s.elem s.site.elem).head 7 = some (Token.beat .swap 1) ∧ (s.elem s.site.elem).kind = .ce ∧
      ∀ q, q < 7 → (s.elem s.site.elem).head q = none) := by decide +kernel

/-- Element 0 with a token travelling on its route 0 to input 2 of element 1. -/
def travelling : State :=
  plain.updElem 0 (fun x => { x with routes := [(0, { dstElem := 1, dstPort := 2, flight := [Token.dat 5] })] })

theorem test_meets_delivery : ∃ (s : State) (r : Route) (t : Token), (s.elem 0).routes.look r 0 = r ∧ Tab.has (s.elem 0).routes 0 = true ∧
    (∀ x ∈ (s.elem 0).routes, x.1 = 0 → x.2 = r) ∧ r.flight = t :: [] ∧ r.dstElem ≠ 0 ∧ r.link = none :=
  ⟨travelling, { dstElem := 1, dstPort := 2, flight := [Token.dat 5] }, Token.dat 5, by decide +kernel⟩

/-- The ingress of a link virtual channel: free; full for its window, of which as much as its budget has passed; and on a link that is down. -/
theorem test_meets_link_delivery :
    (Bridle.admitsFrom {} 0 [(2, Token.dat 5)] = true) ∧
    (let b : Bridle := { control := BitVec.ofNat 64 (0xFFFF + 2 * 2^16 + 2^48), admitted := 2 }
     b.budget = 2 ∧ b.enabled = true ∧ Bridle.admitsFrom b b.admitted [(2, Token.dat 5)] = false) ∧
    (let s : State := { travelling with cuts := [(3, { link := some 1 })], linksDown := [1] }
     (s.cut 3).link = some 1 ∧ s.linksDown.contains 1 = true) := by decide +kernel

/-- An MXE of BF16 with a tile in input 0 and an entry number in input 1, and weight entry 63 ready: raw, 8 lines from line 0. -/
def weighted : State :=
  (elemWith 1 0x12 [(0, [tileTok]), (1, [Token.dat 63])]).poke (entryAddr 1 63) 8 (8 * 2^9 + 2^17)

theorem test_meets_matrix : ∃ (s : State) (b : List FVal), let sl : Slot := { slotFor 0x60 63 with outmask := 0 };
    let sm : Slot := { slotFor 0x61 0 with outmask := 0 }; let v := s.peek (entryAddr 1 63) 8;
    (s.elem s.site.elem).head 0 = some tileTok ∧ ((s.elem s.site.elem).acc 0).owned = false ∧ s.mmaSpaced 1 = true ∧
    entryError v = false ∧ entryReady v = true ∧ s.mmaBad 1 0 (wentryOf v) = false ∧ s.bTile 1 (wentryOf v) = .ok b ∧
    63 % 64 + ((s.elem 1).slot 0).idx.toNat % (63 / 64 % 64 + 1) = 63 ∧ CanFire 0x60 sl false [] s ∧
    (s.elem s.site.elem).head 1 = some (Token.dat 63) ∧ lane (Token.dat 63).row 0 = 63 ∧ CanFire 0x61 sm false [] s := by
  obtain ⟨b, hb⟩ := ok_some (x := weighted.bTile 1 (wentryOf (weighted.peek (entryAddr 1 63) 8))) (by decide +kernel)
  exact ⟨weighted, b, by decide +kernel, by decide +kernel, by decide +kernel, by decide +kernel, by decide +kernel, by decide +kernel, hb,
    by decide +kernel, fire_of (by decide +kernel), by decide +kernel, by decide +kernel, fire_of (by decide +kernel)⟩

/-- `MMAS` whose first operand is the array `ta`. -/
theorem test_meets_matrix_array : ∃ (s : State) (b : List FVal), let sm : Slot := { slotFor 0x61 0 with in0 := 8, outmask := 0 };
    let v := s.peek (entryAddr 1 63) 8; (Instr.mmas sm).wf = true ∧ s.bad = [] ∧ ((s.elem s.site.elem).acc 0).owned = false ∧ s.mmaSpaced 1 = true ∧
    (s.elem s.site.elem).head 1 = some (Token.dat 63) ∧ lane (Token.dat 63).row 0 = 63 ∧
    entryError v = false ∧ entryReady v = true ∧ s.mmaBad 1 0 (wentryOf v) = false ∧ s.bTile 1 (wentryOf v) = .ok b ∧
    CanFire 0x61 sm false [] s := by
  obtain ⟨b, hb⟩ := ok_some (x := weighted.bTile 1 (wentryOf (weighted.peek (entryAddr 1 63) 8))) (by decide +kernel)
  exact ⟨weighted, b, by decide +kernel, by decide +kernel, by decide +kernel, by decide +kernel, by decide +kernel, by decide +kernel,
    by decide +kernel, by decide +kernel, by decide +kernel, hb, fire_of (by decide +kernel)⟩

theorem test_meets_exact_sums : ∃ (b : List FVal) (flags : BitVec 128) (m n : Nat), m < 16 ∧ n < 16 ∧ n = 15 ∧
    (flagsAt flags n 0).1 = true ∧ (flagsAt flags n 3).2 = true ∧
    (∀ q, q < 4 → (flagsAt flags n q).1 = true → ∀ j, j < 16 → ∃ neg x, b.getD (16 * (16 * q + j) + n) (.fin false 0 0) = .fin neg 0 x) ∧
    ∀ q, q < 4 → (flagsAt flags n q).2 = true → ∀ j, j < 16 → ∃ neg v x, b.getD (16 * (16 * q + j) + n) (.fin false 0 0) = .fin neg v x :=
  ⟨[], BitVec.allOnes 128, 0, 15, by decide, by decide, by decide, by decide +kernel, by decide +kernel, fun _ _ _ _ _ => ⟨false, 0, rfl⟩,
   fun _ _ _ _ _ => ⟨false, 0, 0, rfl⟩⟩

theorem test_meets_accumulators :
    (∀ x ∈ [(1, 0x10), (4, 0x40), (1, 0x24)], let t := Token.ctl (.stop x.1); let s := elemWith 1 0x12 [(0, [t])]; let sl := slotFor 0x63 x.2;
      (s.elem s.site.elem).head 0 = some t ∧ slotChannels 0x63 sl = [0] ∧ (∀ q ∈ maskPorts sl.outmask, (s.elem s.site.elem).room q 2 = true) ∧
      s.isBad (accKey 1 (x.2 % 4)) 1 = false ∧ canFire 0x63 sl false [(0, tileTok), (0, t)] s = true) ∧
    (let s := elemWith 1 0x12 three; canFire 0x62 { slotFor 0x62 3 with outmask := 0 } false [] s = true ∧ s.isBad (accKey 1 3) 1 = false ∧
      canFire 0x64 { slotFor 0x64 3 with outmask := 0 } false [] s = true) := by decide +kernel

-- hypotheses met: stream commands --------------------------------------------------------------------------------

/-- The AGE of element 7, configured and with its `GO`. -/
def ageState (f : Elem → Elem) : State :=
  let s := plain.updElem 7 (fun x => f { x with configured := true, kind := .age, go := true })
  { s with site := { elem := 7 } }

/-- A command of op code `op` in place 0 of the AGE, with its progress as f leaves it. -/
def atPlace (op : Nat) (c : Cmd) (f : Place → Place) : State :=
  let s := ageState (fun x => { x with
    age := { x.age with places := [(0, f { active := true, raw := BitVec.ofNat 128 (encodeCmdFields op c) })] } })
  { s with site := { s.site with place := some 0 } }

/-- Whether the command given takes its next step in place p. -/
def stepsAt (s : State) (p op : Nat) (c : Cmd) : Bool :=
  let x := s.place s.site.elem p
  s.site.place == some p && x.active && !x.held && !x.done && x.outq.isEmpty && x.cmd == c && x.op == op && (!unitOp op || !s.rowHeld)

theorem steps_of {s : State} {p op : Nat} {c : Cmd} (h : stepsAt s p op c = true) : s.Steps p op c := by
  simp only [stepsAt, Bool.and_eq_true, Bool.not_eq_true', beq_iff_eq, List.isEmpty_iff] at h
  obtain ⟨⟨⟨⟨⟨⟨⟨h1, h2⟩, h3⟩, h4⟩, h5⟩, h6⟩, h7⟩, h8⟩ := h
  exact ⟨h1, h2, h3, h4, h5, h6, h7, fun hu => by simpa [hu] using h8⟩

/-- Whether the page walk of an element of the command in place p waits for nothing. -/
def walksAt (s : State) (p : Nat) (a : Int) : Bool :=
  !s.walkWaits (.age s.site.elem) (dieOf (panelOf s.site.elem)) (s.strand (s.place s.site.elem p).strand).job a.toNat

theorem walks_of {s : State} {p : Nat} {a : Int} (h : walksAt s p a = true) :
    s.walkWaits (.age s.site.elem) (dieOf (panelOf s.site.elem)) (s.strand (s.place s.site.elem p).strand).job a.toNat = false := by
  simpa [walksAt] using h

/-- Whether an element of the command in place p is read at once from where l says. -/
def readsAt (s : State) (p space : Nat) (a : Int) (size idx : Nat) (form : AccForm) (l : Loc) : Bool :=
  let r := s.placeReq s.site.elem p idx l a.toNat size .read 0
  (s.checkSpace s.site.elem space a size form false).toOption == some l && !s.isBad l.home size &&
  (space != 4 || (!s.spillBlocks s.site.elem p a.toNat size && walksAt s p a)) && s.prompt &&
  performsAt s r && (s.elem s.site.elem).age.heat.isEmpty

theorem reads_of {s : State} {p space : Nat} {a : Int} {size idx : Nat} {form : AccForm} {l : Loc}
    (h : readsAt s p space a size idx form l = true) : s.Reads p space a size idx form l := by
  simp only [readsAt, Bool.and_eq_true, beq_iff_eq, List.isEmpty_iff, Bool.or_eq_true, Bool.not_eq_true', bne_iff_ne] at h
  obtain ⟨⟨⟨⟨⟨h1, h2⟩, h3⟩, h4⟩, h5⟩, h6⟩ := h
  exact ⟨ok_of h1, h2, fun hs => (h3.resolve_left (fun hn => hn hs)).1, fun hs => walks_of (h3.resolve_left (fun hn => hn hs)).2, h4, performs_of h5, h6⟩

/-- Whether an element of the command in place p is written at once to where l says. -/
def writesAt (s : State) (p space : Nat) (a : Int) (size data : Nat) (form : AccForm) (kind : ReqKind) (l : Loc) : Bool :=
  let r := s.placeReq s.site.elem p (s.place s.site.elem p).j3 l a.toNat size kind data
  (s.checkSpace s.site.elem space a size form true).toOption == some l && (!l.virt || l.kind != 1) && decide (l.home < 2^59) &&
  decide (size ≤ 64) && (space != 4 || (!s.spillBlocks s.site.elem p a.toNat size && walksAt s p a)) && s.prompt &&
  performsAt s r && s.dieLines.isEmpty && (form != .combine || !s.isBad l.home size)

theorem writes_of {s : State} {p space : Nat} {a : Int} {size data : Nat} {form : AccForm} {kind : ReqKind} {l : Loc}
    (h : writesAt s p space a size data form kind l = true) : s.Writes p space a size data form kind l := by
  simp only [writesAt, Bool.and_eq_true, beq_iff_eq, List.isEmpty_iff, Bool.or_eq_true, Bool.not_eq_true', bne_iff_ne, decide_eq_true_eq] at h
  obtain ⟨⟨⟨⟨⟨⟨⟨⟨h1, h2⟩, h3⟩, h4⟩, h5⟩, h6⟩, h7⟩, h8⟩, h9⟩ := h
  refine ⟨ok_of h1, ?_, h3, h4, fun hf => by simpa [hf] using h9, fun hs => (h5.resolve_left (fun hn => hn hs)).1, fun hs => walks_of (h5.resolve_left (fun hn => hn hs)).2,
    h6, performs_of h7, ?_⟩
  · intro hv; rcases h2 with h2 | h2
    · exact absurd hv (by simp [h2])
    · exact h2
  · intro d hd; simp [h8] at hd

-- hypotheses met: starts, loads, gathers, stores, copies, tiles ------------------------------------------------

/-- Fields of a command in space 4 from address 0x100, the rest zero. -/
def fields (size port count : Nat) : Cmd :=
  { fused := 0, size := BitVec.ofNat 4 size, space := 4, port := BitVec.ofNat 8 port, reply := 0, count := BitVec.ofNat 27 count, addr := 0x100, flags := 0 }

/-- Where a virtual address of the test's job is. -/
def locAt (va : Nat) : Loc := { home := va, virt := true, kind := va / 2^27 }

theorem test_meets_starts :
    let s := ageState (fun x => { x with age := { x.age with queue := [{}, { shape := true }] } }); let el := s.elem s.site.elem
    s.site.place = none ∧ el.age.queue = {} :: [{ shape := true }] ∧ s.regionRuns 7 = true ∧ el.age.freePlace = some 0 ∧ el.go = true ∧
    s.edgesReady 7 = true ∧ s.fireReady 7 = false ∧ (∀ y ∈ s.elems, y.2.age.completed.contains y.2.age.doneNext = false) ∧ barrierOf (fields 2 0 4).fused.toNat 0 = none ∧ el.age.busyPorts = [] ∧
    (s.checkChip 7 1 0 64).toOption = some { home := panelHome 0 } ∧ tileKey (panelHome 0) = some 0 ∧ s.tiles.look 0 0 = 0 ∧
    ({ s with tiles := [(0, 2)] } : State).tiles.look 0 0 = 2 := by decide +kernel

theorem test_meets_loads_streaming :
    (∀ x ∈ [(1, 0x01), (2, 0x02), (3, 0x03), (1, 0x21)], let c := fields 2 0 4;
      let s := atPlace x.2 c (fun y => { y with shape := BitVec.ofNat 128 (2^40 + 2^104) });
      stepsAt s 0 x.2 c = true ∧ c.flag 3 = false ∧ (s.place 7 0).phase ≠ 1 ∧ (s.place 7 0).runs ≠ 1 ∧ (s.place 7 0).next ≠ 4 ∧
      Tab.has (s.place 7 0).got 0 = false ∧ (s.place 7 0).j3 < 4 ∧ readsAt s 0 4 0x100 4 0 .streamRead (locAt 0x100) = true) ∧
    (∀ n ∈ [0, 15], let c := fields 2 0 32; let s := atPlace 0x01 c (fun y => { y with got := [(0, 7)], packN := n });
      stepsAt s 0 0x01 c = true ∧ Tab.has (s.place 7 0).got (s.place 7 0).next = true ∧ c.flag 1 = false ∧ c.flag 2 = false ∧
      (s.place 7 0).tileRows = [] ∧ (s.place 7 0).packN = n) ∧
    (let c := fields 4 0 1; let s := atPlace 0x01 c (fun y => { y with got := [(0, 7)] });
      stepsAt s 0 0x01 c = true ∧ c.bytes = 64 ∧ Tab.has (s.place 7 0).got (s.place 7 0).next = true) ∧
    (let c := fields 2 0 4; let s := atPlace 0x01 c (fun y => { y with runs := 1 });
      stepsAt s 0 0x01 c = true ∧ (s.place 7 0).runs = 1 * 1 ∧ isReduce c.fused.toNat = false) := by decide +kernel

theorem test_meets_reduce : ∀ f ∈ [1, 2, 3, 4], let c : Cmd := { fields 2 0 4 with fused := BitVec.ofNat 8 f };
    let s := atPlace 0x01 c (fun y => { y with runs := 1, parts := [(3, 9)] });
    stepsAt s 0 0x01 c = true ∧ (s.place 7 0).phase ≠ 1 ∧ (s.place 7 0).runs = 1 ∧ isReduce c.fused.toNat = true ∧ c.flag 2 = false := by
  decide +kernel

theorem test_meets_gather :
    (let c := fields 2 0x10 0; let s := atPlace 0x10 c (fun y => { y with inq := [5] });
      stepsAt s 0 0x10 c = true ∧ c.flag 0 = false ∧ c.flag 3 = false ∧ (s.place 7 0).pairs = [] ∧ (s.place 7 0).inq = 5 :: []) ∧
    (∀ i ∈ [0xFFFFFFFF, 3], let c := fields 2 0x10 0; let s := atPlace 0x10 c (fun y => { y with pairs := List.replicate 16 (BitVec.ofNat 64 i) });
      stepsAt s 0 0x10 c = true ∧ (s.place 7 0).next < (s.place 7 0).pairs.length ∧ ((s.place 7 0).pairs.getD 0 0).toNat = i ∧
      readsAt s 0 4 (0x100 + 3 * 4) 4 0 .streamRead (locAt 0x10C) = true) ∧
    (let c := fields 2 0x10 0;
      let s := atPlace 0x10 c (fun y => { y with pairs := List.replicate 16 0xFFFFFFFF, next := 16 });
      stepsAt s 0 0x10 c = true ∧ (s.place 7 0).pairs.length = 16 ∧ (s.place 7 0).next = 16 ∧ c.bytes = 4 ∧
      ∀ k, k < 16 → ((s.place 7 0).pairs.getD k 0).toNat = 0xFFFFFFFF) := by decide +kernel

theorem test_meets_stream_writes :
    (∀ x ∈ [(1, 0x05), (2, 0x06), (3, 0x07)], let c := fields 2 8 4; let s := atPlace x.2 c (fun y => { y with cur := [9] });
      stepsAt s 0 x.2 c = true ∧ (s.place 7 0).cur = 9 :: [] ∧ (s.place 7 0).j0 + 1 < 4 ∧
      writesAt s 0 4 0x100 4 (scaled 0 9) (.streamWrite 4) .write (locAt 0x100) = true) ∧
    (∀ x ∈ [(0x10, AmoOp.addf), (0x11, .addi), (0x12, .maxf), (0x13, .minf)], let c : Cmd := { fields 2 8 4 with fused := BitVec.ofNat 8 x.1 };
      let s := atPlace 0x05 c (fun y => { y with cur := [9] });
      stepsAt s 0 0x05 c = true ∧ isCombine c.fused.toNat = true ∧ c.bytes = 4 ∧ scaled x.1 9 < 2^32 ∧
      writesAt s 0 4 0x100 4 (scaled x.1 9) .combine (.amo x.2) (locAt 0x100) = true) ∧
    (let c := fields 2 8 4; let s := atPlace 0x22 c (fun y => { y with cur := [9] });
      stepsAt s 0 0x22 c = true ∧ (s.place 7 0).eos = false ∧ (s.place 7 0).written ≠ 4 ∧
      writesAt s 0 4 0x100 4 9 (.streamWrite 4) .write (locAt 0x100) = true) ∧
    (∀ x ∈ [(0x11, 0x00, ReqKind.write, AccForm.streamWrite 4), (0x12, 0x11, .amo .addi, .combine)],
      let c : Cmd := { fields 2 8 0 with fused := BitVec.ofNat 8 x.2.1 }; let s := atPlace x.1 c (fun y => { y with inq := [pairRow 2 9] });
      stepsAt s 0 x.1 c = true ∧ (s.place 7 0).inq = pairRow 2 9 :: [] ∧ scaled x.2.1 (lane (pairRow 2 9) 1) < 2^32 ∧
      writesAt s 0 4 (0x100 + 8) 4 (scaled x.2.1 9) x.2.2.2 x.2.2.1 (locAt 0x108) = true) ∧
    (∀ n ∈ [0, 6], let c : Cmd := { fields 2 8 0 with flags := BitVec.ofNat 4 n }; let s := atPlace 0x28 c (fun y => { y with inq := [pairRow 2 9] });
      stepsAt s 0 0x28 c = true ∧ (s.place 7 0).phase ≠ 1 ∧ Tab.has (s.place 7 0).got 0 = false ∧ (s.place 7 0).inq = pairRow 2 9 :: [] ∧
      writesAt s 0 4 (0x100 + 8) 4 9 .combine (.amo (amosOp c)) (locAt 0x108) = true) := by decide +kernel

theorem test_meets_store_input :
    (∀ op ∈ [0x05, 0x06, 0x07], ∀ t ∈ [Token.dat 5, Token.ctl .eos], let c := fields 2 8 4;
      let s := (atPlace op c id).updElem 7 (fun x => { x with chans := [(0, [{ tok := t }])] });
      stepsAt s 0 op c = true ∧ s.regionStands 7 = false ∧ (s.place 7 0).cur = [] ∧ (s.place 7 0).inq = [] ∧ (s.place 7 0).eos = false ∧
      (s.elem 7).head (c.portLow - 8) = some t) ∧
    (let c := fields 2 8 4; let s := atPlace 0x05 c (fun y => { y with eos := true });
      stepsAt s 0 0x05 c = true ∧ (s.place 7 0).eos = true ∧ s.writesDone 7 0 = true) ∧
    (∀ n ∈ [0, 2], let c := fields 0 0x10 n; let s := (atPlace 0x23 c id).updElem 7 (fun x => { x with chans := [(1, [{ tok := Token.dat 5 }])] });
      stepsAt s 0 0x23 c = true ∧ (s.place 7 0).phase ≠ 2 ∧ (c.count.toNat = 0 ∨ (s.place 7 0).sent ≠ c.count.toNat) ∧
      (s.elem 7).head c.portMid = some (Token.dat 5)) ∧
    (let c := fields 0 0x10 2; let s := atPlace 0x23 c (fun y => { y with sent := 2 });
      stepsAt s 0 0x23 c = true ∧ c.count.toNat ≠ 0 ∧ (s.place 7 0).sent = c.count.toNat) := by decide +kernel

theorem test_meets_copies :
    (let c : Cmd := { fields 4 0 4 with flags := 1 }; let s := atPlace 0x20 c id;
      stepsAt s 0 0x20 c = true ∧ c.addr.toNat % c.bytes = 0 ∧ (s.place 7 0).phase = 0 ∧ (s.place 7 0).j3 < 2 ∧
      readsAt s 0 4 (0x100 + 4 * 64) 64 0 .streamRead (locAt 0x200) = true) ∧
    (let c : Cmd := { fields 4 0 4 with flags := 1 }; let s := atPlace 0x20 c (fun y => { y with j3 := 2, got := [(0, 1), (1, 2)] });
      stepsAt s 0 0x20 c = true ∧ (s.place 7 0).j3 = 2 ∧ ∀ k, k < 2 → Tab.has (s.place 7 0).got k = true) ∧
    (let c : Cmd := { fields 4 0 4 with flags := 1 }; let s := atPlace 0x20 c (fun y => { y with phase := 2, got := [(0, 1), (1, 2)] });
      stepsAt s 0 0x20 c = true ∧ (s.place 7 0).next < 2 ∧ Tab.has (s.place 7 0).full 0 = false ∧
      writesAt s 0 4 0x100 64 1 (.streamWrite 64) .write (locAt 0x100) = true) ∧
    (let c : Cmd := { fields 4 0 4 with flags := 1 }; let s := atPlace 0x20 c (fun y => { y with phase := 2, next := 2 });
      stepsAt s 0 0x20 c = true ∧ (s.place 7 0).next = 2 ∧ s.writesDone 7 0 = true) ∧
    (let c := fields 0 0 3; let s := atPlace 0x13 c id;
      stepsAt s 0 0x13 c = true ∧ (s.place 7 0).phase = 0 ∧ (s.place 7 0).runs ≠ 3 ∧ Tab.has (s.place 7 0).got bmEntry = false ∧
      (s.place 7 0).walked = 0 ∧ readsAt s 0 4 0x100 4 bmEntry .streamRead (locAt 0x100) = true) ∧
    (let c := fields 0 0 3; let s := atPlace 0x13 c (fun y => { y with got := [(bmEntry, 64)] });
      stepsAt s 0 0x13 c = true ∧ Tab.has (s.place 7 0).got bmEntry = true) ∧
    (let c := fields 0 0 3; let s := atPlace 0x13 c (fun y => { y with phase := 2, result := 0x110, walked := 3 });
      stepsAt s 0 0x13 c = true ∧ (s.place 7 0).phase = 2 ∧ ((s.place 7 0).result - 0x100) % 16 = 0 ∧ (s.place 7 0).walked = 3 ∧
      readsAt s 0 4 (0x110 + 4 * 3) 4 (bmMap + 3) .streamRead (locAt 0x11C) = true) ∧
    (let c := fields 0 0 3;
      let s := atPlace 0x13 c (fun y => { y with phase := 2, result := 0x110, walked := 4, got := (List.range 4).map (fun k => (bmMap + k, 64)) });
      stepsAt s 0 0x13 c = true ∧ (s.place 7 0).walked = 4 ∧ ((s.place 7 0).result - 0x100) % 16 = 0 ∧
      ∀ k, k < 4 → Tab.has (s.place 7 0).got (bmMap + k) = true) ∧
    (let c := fields 0 0 3; let s := atPlace 0x13 c (fun y => { y with runs := 3 });
      stepsAt s 0 0x13 c = true ∧ (s.place 7 0).phase = 0 ∧ (s.place 7 0).runs = 3) := by decide +kernel

/-- A tile command on tile 0 of the panel, whose state is v. -/
def tileAt (op v : Nat) (f : Place → Place) : State := { atPlace op (fields 4 0x10 0) f with tiles := if v = 0 then [] else [(0, v)] }

theorem test_meets_tile_commands :
    (∀ op ∈ [0x2C, 0x2D], let s := tileAt op 1 (fun y => { y with next := 16, j3 := 16 });
      (s.checkChip 7 1 0 64).toOption = some { home := panelHome 0 } ∧ tileKey (panelHome 0) = some 0 ∧
      stepsAt s 0 op (fields 4 0x10 0) = true ∧ Tab.has (s.place 7 0).got 16 = false ∧ s.writesDone 7 0 = true) ∧
    (let s := tileAt 0x2C 1 (fun y => { y with j3 := 15, walked := 15, next := 15 });
      stepsAt s 0 0x2C (fields 4 0x10 0) = true ∧ (s.place 7 0).walked < 16 ∧ (s.place 7 0).walked = (s.place 7 0).next ∧ Tab.has (s.place 7 0).got 15 = false ∧
      readsAt s 0 4 (0x100 + 64 * 15) 64 15 .streamRead (locAt 0x4C0) = true) ∧
    (let s := tileAt 0x2D 3 (fun y => { y with j3 := 1, got := [(0, 5)] });
      stepsAt s 0 0x2D (fields 4 0x10 0) = true ∧ Tab.has (s.place 7 0).got 0 = true ∧
      writesAt s 0 4 0x100 64 5 (.streamWrite 64) .write (locAt 0x100) = true) := by decide +kernel

-- hypotheses met: templates, lines, translations, frets -----------------------------------------------------------

/-- The state with template 3 as given, and queues 5 (a signal trigger) and 6. -/
def withTemplate (t : Template) (s : State) : State :=
  ({ s with templates := s.templates.put 3 t } : State).setQueue 5 { valid := true, cls := 2, scope := 3, depth := 2, count := 1 }

/-- The signal command of template 3. -/
def signal : Cmd := { fields 0 0 3 with space := 0, addr := 0 }

/-- A block for `TARM`: a `COPY` of space 4, trigger queue 5. -/
def block : Nat := encodeCmdFields 0x20 (fields 4 0 4) + 5 * 2^128 + 2^138

/-- A `TARM` of template 3 whose block stands at 0x100 and has been read. -/
def arming (t : Template) (v : Nat) : State :=
  withTemplate t ((atPlace 0x24 (fields 0 0 3) (fun y => { y with pairs := (List.range 4).map (fun k => BitVec.ofNat 64 (v / 2^(64 * k))) })).poke 0x100 32 v)

theorem test_meets_tarm :
    (∀ x ∈ [(({} : Template), block), ({ owned := true }, 0), ({ owned := true }, block + 2^128), ({ owned := true, firing := true }, block),
        ({ owned := true }, block)], let s := arming x.1 x.2; let c := fields 0 0 3;
      stepsAt s 0 0x24 c = true ∧ 3 = c.count.toNat % 256 ∧ s.pullWaits 7 0x100 32 = false ∧
      (s.place 7 0).phase ≠ 2 ∧ (s.checkSpace 7 4 0x100 32 .streamRead false).toOption.isSome = true ∧ (s.place 7 0).pairs.length = 4 ∧
      packBits 64 ((s.place 7 0).pairs.map BitVec.toNat) = x.2 ∧ s.template 3 = x.1 ∧ ({ owned := true } : Template).owner = (s.strand 0).job) ∧
    blockOk 0 = false ∧ blockOk (block + 2^128) = true ∧ (arming { owned := true } 0).blockQueues 3 0 0 (block + 2^128) = false ∧
    blockOk block = true ∧ (arming { owned := true } 0).blockQueues 3 0 0 block = true ∧
    (∀ b ∈ [true, false], let s := withTemplate { owned := true, firing := b } (atPlace 0x24 (fields 0 0 3) (fun y => { y with phase := 2, pairs := [1, 2, 3, 4] }));
      stepsAt s 0 0x24 (fields 0 0 3) = true ∧ (s.place 7 0).phase = 2 ∧ (s.template 3).firing = b) ∧
    (let c : Cmd := { fields 0 0 3 with addr := 0x20000000 }; let s := atPlace 0x24 c id;
      stepsAt s 0 0x24 c = true ∧ errOf (s.checkSpace 7 4 0x20000000 32 .streamRead false) = some 2) ∧
    (∀ b ∈ [[], [0x118]], let s : State := { atPlace 0x24 (fields 0 0 3) (fun y => { y with pairs := [1, 2, 3] }) with bad := b };
      stepsAt s 0 0x24 (fields 0 0 3) = true ∧ (s.place 7 0).pairs.length = 3 ∧ (s.checkSpace 7 4 0x100 32 .streamRead false).toOption.isSome = true ∧
      s.pullWaits 7 0x100 32 = false ∧ ((s.pull 7 0x118 8 .streamRead).toOption = if b = [] then some 0 else none)) := by decide +kernel

/-- An armed template on the AGE of the test. -/
def armed : Template :=
  { owned := true, armed := true, trigger := 5, trigValid := true, snapshot := BitVec.ofNat 128 (encodeCmdFields 0x20 (fields 4 0 4)), age := 7 }

theorem test_meets_tdis_and_tfir :
    (∀ t ∈ [({} : Template), { owned := true, firing := true }, { owned := true }, armed],
      let s := withTemplate t (atPlace 0x25 signal id); stepsAt s 0 0x25 signal = true ∧ s.template 3 = t ∧ signal.count.toNat % 256 = 3) ∧
    (∀ t ∈ [({} : Template), { owned := true }], let s := withTemplate t (atPlace 0x26 signal id);
      stepsAt s 0 0x26 signal = true ∧ (s.place 7 0).phase ≠ 2 ∧ s.template 3 = t) ∧
    (let s := withTemplate armed (atPlace 0x26 signal id);
      stepsAt s 0 0x26 signal = true ∧ s.regionRuns 7 = true ∧ (s.elem 7).age.busyPorts = [] ∧ (s.elem 7).go = true ∧
      (s.elem 7).age.freePlace = some 1 ∧ barrierOf (cmdFields armed.snapshot.toNat).fused.toNat 0 = none) ∧
    (∀ t ∈ [{ armed with fired := some (7, 0) }, armed], let s := withTemplate t (atPlace 0x26 signal (fun y => { y with phase := 2 }));
      stepsAt s 0 0x26 signal = true ∧ (s.place 7 0).phase = 2 ∧ s.template 3 = t) := by decide +kernel

theorem test_meets_template_events :
    (let s := withTemplate armed (ageState id);
      (s.queue 5).spillCount = 0 ∧ (s.queue 5).count ≠ 0 ∧ (s.template 3).trigger = 5 ∧ (s.template 3).trigValid = true ∧ (s.elem 7).age.freePlace = some 0 ∧
      s.regionRuns 7 = true ∧ (s.elem 7).go = true) ∧
    ((withTemplate armed (ageState id)).setQueue 5 { depth := 2 }).queue 5 = { depth := 2 } ∧
    (let s := withTemplate { armed with doneQ := 5, doneValid := true, pushOwed := true } (ageState id);
      (s.queue 5).valid = true ∧ (s.queue 5).spillCap = 0 ∧ (s.queue 5).spillCount = 0 ∧ (s.queue 5).count < (s.queue 5).depth) ∧
    (let s := withTemplate { armed with doneQ := 9, doneValid := true, pushOwed := true } (ageState id);
      (s.template 3).doneQ = 9 ∧ (s.queue 9).valid = false) ∧
    (let s := (withTemplate { armed with doneQ := 5, doneValid := true, pushOwed := true } (ageState id)).setQueue 5 { valid := true, depth := 1, count := 1 };
      (s.queue 5).valid = true ∧ (s.queue 5).depth ≤ (s.queue 5).count ∧ (s.queue 5).spillCap ≤ (s.queue 5).spillCount) := by decide +kernel

/-- A line command of n lines from 0x100 with its progress. -/
def lineCmd (n : Nat) : Cmd := fields 0 0 n

theorem test_meets_lines :
    (∀ op ∈ [0x30, 0x31, 0x32, 0x33], let s := atPlace op (lineCmd 2) (fun y => { y with j3 := 2 });
      stepsAt s 0 op (lineCmd 2) = true ∧ (s.place 7 0).j3 = (lineCmd 2).count.toNat ∧
      ∀ r ∈ s.reqs, r.isSector = true → BitVec.ofNat 64 r.id ∉ (s.place 7 0).pairs) ∧
    (∀ op ∈ [0x30, 0x31, 0x32, 0x33], let c : Cmd := { lineCmd 2 with addr := 0x20000000 }; let s := atPlace op c id;
      stepsAt s 0 op c = true ∧ (s.place 7 0).j3 ≠ 2 ∧ errOf (s.lineAt 7 0x20000000) = some 2) ∧
    (∀ op ∈ [0x31, 0x32], ∀ l ∈ [([] : List DieLine), [{ line := 2, lock := some 0 }], [{ line := 2, lock := some 1 }]], ∀ q ∈ [(0, 0), (2, 1)],
      let s : State := { atPlace op (lineCmd 2) id with dieLines := l, quotas := [(0, q)] };
      stepsAt s 0 op (lineCmd 2) = true ∧ (s.lineAt 7 0x100).toOption = some (locAt 0x100) ∧ (locAt 0x100).kind ≠ 3 ∧ s.lockedWays 0 2 ≤ 14 ∧
      (s.dieLines.filter (fun d => d.die == 0 && l2Set d.line == l2Set 2)).length < 16 ∧
      s.quota 0 0 = q ∧ (s.dieLine 0 2).bind (fun d => d.lock) = (l.head?.bind (fun d => d.lock))) ∧
    (∀ k ∈ [none, some 0], let s : State := { atPlace 0x33 (lineCmd 2) id with dieLines := [{ line := 2, present := 1, changed := 1, lock := k }] };
      stepsAt s 0 0x33 (lineCmd 2) = true ∧ (s.lineAt 7 0x100).toOption = some (locAt 0x100) ∧
      s.dieLines.filter (fun q => q.line == 2) = [{ line := 2, present := 1, changed := 1, lock := k }] ∧ s.queuedAt (s.bankOf 256) = [] ∧
      ∀ r ∈ s.reqs, r.stage = .home → r.isSector = true → r.home / 128 ≠ 2) := by decide +kernel

theorem test_meets_translations :
    (let s := atPlace 0x38 (fields 0 0 2) id; stepsAt s 0 0x38 (fields 0 0 2) = true ∧ (s.place 7 0).phase = 0) ∧
    (let s : State := { atPlace 0x38 (fields 0 0 2) (fun y => { y with phase := 2, result := 9 }) with reqs := [{ id := 8, va := 0x100 }] };
      stepsAt s 0 0x38 (fields 0 0 2) = true ∧ s.purgeWaits 0 9 (fields 0 0 2) = true) ∧
    (let s : State := { atPlace 0x38 (fields 0 0 2) (fun y => { y with phase := 2, result := 9 }) with reqs := [{ id := 9, va := 0x100 }] };
      stepsAt s 0 0x38 (fields 0 0 2) = true ∧ s.purgeWaits 0 9 (fields 0 0 2) = false) ∧
    (let s := atPlace 0x39 (fields 0 0 2) (fun y => { y with j3 := 2 }); stepsAt s 0 0x39 (fields 0 0 2) = true ∧ (s.place 7 0).j3 = 2) ∧
    (let s := atPlace 0x39 (fields 0 0 2) id; stepsAt s 0 0x39 (fields 0 0 2) = true ∧ (s.walkOn 0 0 0x100).isSome = true) ∧
    (let c : Cmd := { fields 0 0 2 with addr := 0x20000000 }; let s := atPlace 0x39 c id; stepsAt s 0 0x39 c = true ∧ s.walkOn 0 0 0x20000000 = none) ∧
    (let c : Cmd := { fields 0 0 2 with addr := BitVec.ofNat 60 (2^60 - 65536) }; let s := atPlace 0x39 c (fun y => { y with j3 := 1 });
      stepsAt s 0 0x39 c = true ∧ 2^60 ≤ c.addr.toNat + 65536 * 1) := by decide +kernel

/-- A `CBLD` of two words to bank 0 of element num of panel 0. -/
def frets (num : Nat) : Cmd := fields 3 0 (1 + num * 2^8)

theorem test_meets_frets :
    kindAt (7 % 64) = .age ∧
    (let s := atPlace 0x58 (frets 6) id; stepsAt s 0 0x58 (frets 6) = true ∧ kindAt 6 = .se ∧ (s.strand 0).panelAt 0 = 0 ∧ (s.place 7 0).phase ≠ 1) ∧
    (let s := atPlace 0x58 (frets 1) (fun y => { y with pairs := [5] });
      stepsAt s 0 0x58 (frets 1) = true ∧ kindAt 1 = .mxe ∧ (s.place 7 0).phase ≠ 1 ∧ (s.place 7 0).pairs.length < 1 + 1 ∧
      s.pullWaits 7 (0x100 + 8 * 1) 8 = false ∧ (s.pull 7 (0x100 + 8 * 1) 8 .fetch).toOption = some 0) ∧
    (∀ b ∈ [true, false], let s := (atPlace 0x58 (frets 1) (fun y => { y with pairs := [5, 6] })).updElem 1 (fun x => { x with active := b });
      stepsAt s 0 0x58 (frets 1) = true ∧ (s.place 7 0).pairs.length = 1 + 1 ∧ (s.elem 1).active = b ∧ (frets 1).flag 0 = false) ∧
    (let s := atPlace 0x58 (frets 1) (fun y => { y with phase := 1, pairs := [5, 6] });
      stepsAt s 0 0x58 (frets 1) = true ∧ (s.place 7 0).phase = 1 ∧ (s.place 7 0).pairs.length = 1 + 1) ∧
    (let c : Cmd := { frets 1 with addr := 0x20000000 }; let s := atPlace 0x58 c id;
      stepsAt s 0 0x58 c = true ∧ s.pullWaits 7 0x20000000 8 = false ∧ errOf (s.pull 7 0x20000000 8 .fetch) = some 2) := by decide +kernel

-- hypotheses met: fibres ------------------------------------------------------------------------------------------------

/-- The address of the test's fibre head, in the FIBRE page; its pool table stands at 0x10000000 and its chunks from 0x10001000 up. -/
def headVa : Nat := 0x10000800

/-- A fibre command of op `op` on the fibre. -/
def fibCmd (port count : Nat) : Cmd := { fields 3 port count with addr := BitVec.ofNat 60 headVa }

/-- A pool of 8 chunks of which one is taken, the head given, and chunk 0 with the pairs (3, 10) and (5, 20) and the next chunk given. -/
def fibre (h : FHead) (next : Nat) (s : State) : State :=
  (((s.updJob 0 (fun j => { j with poolTab := 0x10000000 })).poke 0x10000000 32
    (0x10001000 + 8 * 2^64 + 1 * 2^96 + 0xFFFFFFFF * 2^128 + 2^192)).poke headVa 16 h.bits).poke 0x10001000 64
    (chunkBits next 0 [(3, 10), (5, 20)])

/-- The head of a fibre of INT32 with addition, whose one chunk is chunk 0. -/
def fhead : FHead := { chunk := 0, count := 2, type := 1, op := 1, valid := true }

/-- The pool as it is read. -/
def fpool : FPool := { at_ := 0x10000000, base := 0x10001000, cap := 8, bump := 1, free := 0xFFFFFFFF, freeCount := 0, valid := true }

/-- Chunk 0 as it is read. -/
def fchunk (next : Nat) : FChunk := { idx := 0, pa := 0x10001000, next, pairs := [(3, 10), (5, 20)] }

theorem test_meets_merge_order : ∃ old : List FChunk, old ≠ [] ∧ (old.flatMap (fun k => k.pairs)).Pairwise (fun a b => a.1 < b.1) ∧
    (∀ k ∈ old, 1 ≤ k.pairs.length ∧ k.pairs.length ≤ 6) := ⟨[fchunk 0xFFFFFFFF], by decide⟩

theorem test_meets_fibre_heads_1 :
    ∀ op ∈ [0x40, 0x46, 0x47], ∀ n ∈ [0, 1, 2, 3], let c := fibCmd 0 (1 * 2^8 + 1 * 2^10);
      let s := fibre fhead 0xFFFFFFFF (atPlace op c (fun y => { y with phase := n }));
      stepsAt s 0 op c = true ∧ (s.place 7 0).phase = n ∧ (s.fibHead 7 0 headVa false).toOption = some (headVa, fhead) ∧
      (s.fibHead 7 0 headVa true).toOption = some (headVa, fhead) ∧ s.prompt = true ∧ (s.stitch (s.unitOf headVa)).queue = [] := by decide +kernel

theorem test_meets_fibre_heads_2 :
    ∀ v ∈ [true, false], let c := fibCmd 0 (1 * 2^8 + 1 * 2^10); let s := fibre { fhead with valid := v } 0xFFFFFFFF (atPlace 0x40 c id);
      (s.fibPool 7 0 headVa ((1 * 2^8 + 1 * 2^10) % 2^8) false).toOption = some fpool ∧
      (s.fibHead 7 0 headVa false).toOption = some (headVa, { fhead with valid := v }) ∧ fibAccepts 1 1 = true ∧ fibAccepts 1 0 = false := by decide +kernel

theorem test_meets_fibre_heads_3 :
    let s := fibre fhead 0xFFFFFFFF (atPlace 0x46 (fibCmd 0 0) id);
      (s.fibPool 7 0 headVa 0 false).toOption = some fpool ∧ (s.fibPool 7 0 headVa 0 true).toOption = some fpool ∧
      (s.fibWritable 7 0 fpool [fchunk 0xFFFFFFFF]).toOption = some () ∧ (s.fibWritable 7 0 fpool []).toOption = some () ∧
      (s.fibList 7 0 headVa fpool none 8 0).toOption = some [fchunk 0xFFFFFFFF] := by decide +kernel

theorem test_meets_fibre_heads_4 :
    ∀ h ∈ [fhead, { fhead with chunk := 8 }, { fhead with valid := false }],
      let s := fibre h 0xFFFFFFFF (atPlace 0x45 (fibCmd 0 0) id); stepsAt s 0 0x45 (fibCmd 0 0) = true ∧ (s.stitch (s.unitOf headVa)).queue = [] ∧
      (s.fibHead 7 0 headVa false).toOption = some (headVa, h) ∧ (s.fibPool 7 0 headVa 0 false).toOption = some fpool := by decide +kernel

theorem test_meets_fmrg_1 :
    let c := fibCmd 1 0x5FFFF20; let s := fibre fhead 0xFFFFFFFF (atPlace 0x41 c id);
      stepsAt s 0 0x41 c = true ∧ (s.place 7 0).j3 < 2 ∧
      readsAt s 0 4 ((headVa : Int) + 8 * sint 27 0x5FFFF20 + 0) 8 0 .streamRead (locAt 0x100) = true := by decide +kernel

theorem test_meets_fmrg_2 :
    let c := fibCmd 1 0x5FFFF20; let s := fibre fhead 0xFFFFFFFF (atPlace 0x41 c (fun y => { y with j3 := 2, got := [(0, 3), (1, 4)] }));
      stepsAt s 0 0x41 c = true ∧ (s.place 7 0).j3 = 2 ∧ (∀ k, k < 2 → Tab.has (s.place 7 0).got k = true) ∧
      (s.fibHead 7 0 headVa false).toOption = some (headVa, fhead) ∧ s.prompt = true ∧ (s.stitch (s.unitOf headVa)).queue = [] := by decide +kernel

theorem test_meets_fmrg_3 :
    (let c := fibCmd 1 0x5FFFF20; let s := atPlace 0x41 c (fun y => { y with phase := 1 }); stepsAt s 0 0x41 c = true) ∧
    ∀ v ∈ [true, false], let c : Cmd := { fibCmd 8 0 with flags := 1 }; let s := fibre { fhead with valid := v } 0xFFFFFFFF (atPlace 0x41 c id);
      stepsAt s 0 0x41 c = true ∧ (s.place 7 0).phase = 0 ∧ (s.place 7 0).runs = 0 ∧ (s.stitch (s.unitOf headVa)).queue = [] ∧
      (s.fibHead 7 0 headVa false).toOption = some (headVa, { fhead with valid := v }) ∧
      (s.fibPool 7 0 headVa 0 false).toOption = some fpool := by decide +kernel

theorem test_meets_fmrg_4 :
    ∀ y ∈ [({ runFull := true } : Place), { pairs := List.replicate 256 0 }, { eos := true }, {}], let c : Cmd := { fibCmd 8 0 with flags := 1 };
      let s := atPlace 0x41 c (fun z => { z with runs := 1, runFull := y.runFull, pairs := y.pairs, eos := y.eos });
      stepsAt s 0 0x41 c = true ∧ (s.place 7 0).phase = 0 ∧ (s.place 7 0).runs ≠ 0 ∧ (s.place 7 0).pairs = y.pairs := by decide +kernel

theorem test_meets_fmrg_5 :
    ∀ t ∈ [pair 3 1, Token.ctl (.stop 1), Token.ctl .eos], let c : Cmd := { fibCmd 8 0 with flags := 1 };
      let s := (atPlace 0x41 c (fun y => { y with runs := 1 })).updElem 7 (fun x => { x with chans := [(0, [{ tok := t }])] });
      stepsAt s 0 0x41 c = true ∧ (s.place 7 0).runs ≠ 0 ∧ s.regionStands 7 = false ∧ (s.elem 7).head (c.portLow - 8) = some t := by decide +kernel

/-- A merge of one pair at the head, waiting at its unit, with the writes given still owed. -/
def merging (h : FHead) (ws : List (Nat × Nat × Row)) : State :=
  let s := fibre h 0xFFFFFFFF (atPlace 0x41 (fibCmd 0 0) (fun y => { y with phase := 2 }))
  s.updStitch (s.unitOf headVa) (fun u => { u with
    queue := [{ kind := .merge, age := 7, place := 0, job := 0, head := headVa, pairs := [BitVec.ofNat 64 (4 + 9 * 2^32)], params := 0 }], writes := ws })

theorem test_meets_merges :
    (let s := merging fhead [(0x10001000, 64, 5)]; s.rowHeld = false ∧ (s.stitch (s.unitOf headVa)).writes = [(0x10001000, 64, 5)] ∧
      (s.stitch (s.unitOf headVa)).queue ≠ []) ∧
    (∃ d, (merging fhead []).fibPerform
      { kind := .merge, age := 7, place := 0, job := 0, head := headVa, pairs := [BitVec.ofNat 64 (4 + 9 * 2^32)], params := 0 } = .ok d) ∧
    errOf ((merging { fhead with valid := false } []).fibPerform
      { kind := .merge, age := 7, place := 0, job := 0, head := headVa, pairs := [BitVec.ofNat 64 (4 + 9 * 2^32)], params := 0 }) =
      some (9, headVa, 0) ∧ (plain.stitch 0).queue = [] :=
  ⟨by decide +kernel, ok_some (by decide +kernel), by decide +kernel, by decide +kernel⟩

theorem test_meets_releases_1 :
    let s := plain.updStitch 0 (fun u => { u with
        readers := [{ id := 4, head := headVa, age := 7, place := 0 }]
        releases := [{ desc := 0x10000000, chunks := [(0, 0x10001000)], waits := [4] }] });
      ∀ r ∈ (s.stitch 0).releases, ∃ k ∈ (s.stitch 0).readers, k.id ∈ r.waits := by decide +kernel

theorem test_meets_releases_2 :
    let s := (fibre fhead 0xFFFFFFFF plain).updStitch 0 (fun u => { u with
        releases := [{ desc := 0x10000000, chunks := [(0, 0x10001000)], waits := [4] }] });
      (∀ k ∈ (s.stitch 0).readers, k.id ∉ [4]) ∧ s.rowHeld = false ∧ 0 < 2^32 ∧ (poolOf 0x10000000 (s.peekTag 0x10000000 32)).freeCount + 1 < 2^32 ∧
      0x10001000 % 64 = 0 ∧ 0x10000000 % 32 = 0 ∧ 0x10001000 / 64 ≠ 0x10000000 / 64 := by decide +kernel

/-- A command that walks the fibre, with its progress. -/
def walking (op port count next : Nat) (h : FHead) (f : Place → Place) : State := fibre h next (atPlace op (fibCmd port count) f)

theorem test_meets_scans_1 :
    ∀ op ∈ [0x42, 0x14, 0x44], ∀ r ∈ [none, some 4], ∀ v ∈ [true, false],
      let s := walking op 0 1 0xFFFFFFFF { fhead with valid := v } (fun y => { y with registered := r });
      stepsAt s 0 op (fibCmd 0 1) = true ∧ (s.place 7 0).phase = 0 ∧ (s.place 7 0).registered = r ∧ (s.place 7 0).packVas = [] ∧
      (s.fibHead 7 0 headVa false).toOption = some (headVa, { fhead with valid := v }) ∧ (s.fibSite 7 0 headVa).toOption = some headVa ∧
      (s.stitch (s.unitOf headVa)).readers.length < Config.registrations ∧ (s.fibPool 7 0 headVa 0 false).toOption = some fpool ∧
      ({ fhead with valid := v } : FHead).chunk < fpool.cap ∧ ({ fhead with valid := v } : FHead).type ≠ 2 := by decide +kernel

theorem test_meets_scans_2 :
    let s := (walking 0x42 0 1 0xFFFFFFFF fhead id).updStitch ((walking 0x42 0 1 0xFFFFFFFF fhead id).unitOf headVa) (fun u => { u with
        readers := List.replicate 64 {} });
      Config.registrations ≤ (s.stitch (s.unitOf headVa)).readers.length ∧ (s.place 7 0).registered = none := by decide +kernel

theorem test_meets_scans_3 :
    ∀ op ∈ [0x42, 0x14], let s := walking op 0 1 0xFFFFFFFF fhead (fun y => { y with runs := 1 }); (s.place 7 0).runs = 1 := by decide +kernel

theorem test_meets_scans_4 :
    ∀ op ∈ [0x42, 0x14, 0x44], ∀ n ∈ [1, 6], let s := walking op 0 1 0xFFFFFFFF fhead (fun y => { y with phase := n });
      stepsAt s 0 op (fibCmd 0 1) = true ∧ (s.place 7 0).phase = n ∧ (s.place 7 0).tileRows = [] ∧ (s.place 7 0).packN = 0 := by decide +kernel

theorem test_meets_scans_5 :
    ∀ op ∈ [0x42, 0x14, 0x44], ∀ b ∈ [true, false], ∀ next ∈ [0xFFFFFFFF, 7],
      let s : State := { walking op 0 1 next fhead (fun y => { y with phase := 5, chunk := some 0, walked := 7, shape := BitVec.ofNat 128 fhead.bits }) with prompt := b };
      stepsAt s 0 op (fibCmd 0 1) = true ∧ (s.place 7 0).chunk = some 0 ∧ (s.place 7 0).walked < fpool.cap ∧
      (s.fibPool 7 0 headVa (headOf (s.place 7 0).shape.toNat).pool false).toOption = some fpool ∧
      (s.fibChunk 7 0 headVa fpool 0 false).toOption = some (fchunk next) ∧ s.prompt = b := by decide +kernel

theorem test_meets_probes_0 : ∀ op ∈ [0x43, 0x48], ∀ v ∈ [true, false], ∀ r ∈ [none, some 4], ∀ m ∈ [0, 2],
    let c : Cmd := { fibCmd 0x10 0 with flags := BitVec.ofNat 4 m }
    let s := fibre { fhead with valid := v } 0xFFFFFFFF (atPlace op c (fun y => { y with registered := r }));
      stepsAt s 0 op c = true ∧ c.flags.toNat % 4 = m ∧ (s.place 7 0).packVas = [] ∧ (s.place 7 0).registered = r ∧
      (s.fibSite 7 0 headVa).toOption = some headVa ∧ (s.stitch (s.unitOf headVa)).readers.length < Config.registrations ∧ (s.place 7 0).phase = 0 ∧ (s.place 7 0).runs = 0 ∧ (s.stitch (s.unitOf headVa)).queue = [] ∧
      (s.fibHead 7 0 headVa false).toOption = some (headVa, { fhead with valid := v }) ∧ (s.fibPool 7 0 headVa 0 false).toOption = some fpool := by
  decide +kernel

theorem test_meets_probes_1 :
    ∀ t ∈ [Token.dat 5, Token.ctl .eos, Token.ctl (.stop 1)],
      let s := (walking 0x43 0x10 0 0xFFFFFFFF fhead (fun y => { y with runs := 1 })).updElem 7 (fun x => { x with chans := [(1, [{ tok := t }])] });
      stepsAt s 0 0x43 (fibCmd 0x10 0) = true ∧ (s.place 7 0).phase = 0 ∧ (s.place 7 0).inq = [] ∧ s.regionStands 7 = false ∧
      (s.elem 7).head (fibCmd 0x10 0).portMid = some t := by decide +kernel

theorem test_meets_probes_2 :
    let s := walking 0x43 0x10 0 0xFFFFFFFF fhead (fun y => { y with runs := 1, inq := [5] });
      stepsAt s 0 0x43 (fibCmd 0x10 0) = true ∧ (s.place 7 0).inq = 5 :: [] ∧ (s.place 7 0).lastC = none := by decide +kernel

/-- After a probe that ended at chunk 1 with coordinate 4: the next coordinate is not above it, is above it and in that chunk or beyond, or lies before
where that chunk now begins. -/
theorem test_meets_probes_again : ∀ x ∈ [(4, 0), (5, 5), (5, 6)],
    let s := walking 0x43 0x10 0 0xFFFFFFFF fhead (fun y => { y with
      runs := 1, inq := [BitVec.ofNat 512 x.1], lastC := some 4, chunk := some 1, endLow := x.2, stand := some (0, 0) });
      stepsAt s 0 0x43 (fibCmd 0x10 0) = true ∧ (s.place 7 0).runs ≠ 0 ∧ lane (BitVec.ofNat 512 x.1) 0 = x.1 ∧
      (if x.2 = 0 then x.1 ≤ 4 else 4 < x.1 ∧ (x.2 ≤ x.1 ∨ x.1 < (s.place 7 0).endLow)) := by decide +kernel

theorem test_meets_probes_3 :
    let s := walking 0x43 0x10 0 0xFFFFFFFF fhead (fun y => { y with runs := 1, inq := [5], phase := 4, registered := some 4, next := 5 });
      stepsAt s 0 0x43 (fibCmd 0x10 0) = true ∧ (s.place 7 0).registered.isSome = true ∧ (s.place 7 0).next ≠ 0xFFFFFFFF ∧
      (s.fibHead 7 0 headVa false).toOption = some (headVa, fhead) ∧ (s.fibPool 7 0 headVa fhead.pool false).toOption = some fpool := by decide +kernel

theorem test_meets_probes_4 :
    ∀ x ∈ [(5, 0xFFFFFFFF), (4, 7), (9, 0xFFFFFFFF), (9, 7)],
      let s := walking 0x43 0x10 0 x.2 fhead (fun y => { y with
        runs := 1, inq := [5], phase := 5, chunk := some 0, next := x.1, shape := BitVec.ofNat 128 fhead.bits });
      stepsAt s 0 0x43 (fibCmd 0x10 0) = true ∧ s.prompt = true ∧ (s.place 7 0).walked < fpool.cap ∧
      (s.fibPool 7 0 headVa (headOf (s.place 7 0).shape.toNat).pool false).toOption = some fpool ∧
      (s.fibChunk 7 0 headVa fpool 0 false).toOption = some (fchunk x.2) := by decide +kernel

theorem test_meets_probes_5 :
    (fchunk 7).pairs.find? (fun w => w.1 == 5) = some (5, 20) := by decide +kernel

theorem test_meets_probes_6 :
    (fchunk 7).pairs.find? (fun w => w.1 == 4) = none := by decide +kernel

theorem test_meets_probes_7 :
    4 < ((fchunk 7).pairs.getLastD (0, 0)).1 := by decide +kernel

theorem test_meets_probes_8 :
    ¬ (9 < ((fchunk 7).pairs.getLastD (0, 0)).1 ∨ (fchunk 7).next = 0xFFFFFFFF) := by decide +kernel

theorem test_meets_probes_9 :
    let s := walking 0x43 0x10 0 0xFFFFFFFF fhead (fun y => { y with phase := 1 }); stepsAt s 0 0x43 (fibCmd 0x10 0) = true := by decide +kernel

/-- A sweep header whose grid has cells of size 1, and a row that is no header. -/
def header : Row := packRow 32 [0, 0, 0, 0, 0, 0, 0, 0x3F800000, 0, 0, 0, 0, 0, 0, 0, 1]

theorem test_meets_sweeps_1 :
    let s := walking 0x48 8 0 0xFFFFFFFF fhead (fun y => { y with phase := 1 }); stepsAt s 0 0x48 (fibCmd 8 0) = true := by decide +kernel

theorem test_meets_sweeps_2 :
    ∀ t ∈ [Token.dat 5, Token.ctl .eos],
      let s := (walking 0x48 8 0 0xFFFFFFFF fhead (fun y => { y with runs := 1 })).updElem 7 (fun x => { x with chans := [(0, [{ tok := t }])] });
      stepsAt s 0 0x48 (fibCmd 8 0) = true ∧ (s.place 7 0).phase = 0 ∧ s.regionStands 7 = false ∧
      (s.elem 7).head ((fibCmd 8 0).portLow - 8) = some t := by decide +kernel

theorem test_meets_sweeps_3 :
    lane header 15 % 2^31 ≠ 0 := by decide +kernel

theorem test_meets_sweeps_4 :
    let s := walking 0x48 8 0 0xFFFFFFFF { fhead with type := 0, op := 0 } (fun y => { y with runs := 1, inq := [5], sweep := some header });
      stepsAt s 0 0x48 (fibCmd 8 0) = true ∧ lane (5 : Row) 15 % 2^31 = 0 ∧ (s.place 7 0).sweep = some header ∧
      (s.fibHead 7 0 headVa false).toOption = some (headVa, { fhead with type := 0, op := 0 }) := by decide +kernel

theorem test_meets_sweeps_9 :
    let s := walking 0x48 8 0 0xFFFFFFFF fhead (fun y => { y with runs := 1, inq := [5] });
      stepsAt s 0 0x48 (fibCmd 8 0) = true ∧ (s.place 7 0).sweep = none ∧ (s.place 7 0).inq = 5 :: [] ∧ lane (5 : Row) 15 % 2^31 = 0 := by decide +kernel

theorem test_meets_sweeps_8 : lane (packRow 32 [0, 0, 0, 0, 0x3F800000]) 15 % 2^31 = 0 ∧
    voxValue 0 0 header (packRow 32 [0, 0, 0, 0, 0x3F800000]) = some 0x3F800000 ∧
    lane (packRow 32 [0xC0A00000, 0, 0, 0, 0x3F800000]) 15 % 2^31 = 0 ∧
    voxValue 0 0 header (packRow 32 [0xC0A00000, 0, 0, 0, 0x3F800000]) = some 0x3F800000 := by decide +kernel

theorem test_meets_sweeps_5 :
    (voxCell header (packRow 32 [0, 0, 0, 0, 0x3F800000])).isSome = true := by decide +kernel

theorem test_meets_sweeps_6 :
    voxCell header (packRow 32 [0xC0A00000, 0, 0, 0, 0x3F800000]) = none := by decide +kernel

theorem test_meets_sweeps_7 :
    ∀ n ∈ [0, 26], let c : Cmd := { fibCmd 8 0 with flags := 1 };
      let s := fibre fhead 0xFFFFFFFF (atPlace 0x48 c (fun y => { y with runs := 1, inq := [if n = 0 then 0 else packRow 32 [0xFFFFFFFF]], packN := n }));
      stepsAt s 0 0x48 c = true ∧ c.flags.toNat % 4 ≠ 0 ∧ voxNeighbour (if n = 0 then 0 else 0xFFFFFFFF) n = none := by decide +kernel


-- hypotheses met: banks --------------------------------------------------------------------------------------------------

/-- A job whose fourth page is BANKLINEAR, in stack 3. -/
def bankPage (s : State) : State :=
  { s.poke (18 * 65536 + 24) 8 (1 + 2 + 12 + 2^14 + 6144 * 2^18) with groupLinear := [(0, true)] }

/-- A `BKLD` of n words at 0x100. -/
def bkldCmd (n : Nat) : Cmd := { fields 4 0 n with addr := 0x100 }

theorem test_meets_bkld_1 :
    ∀ n ∈ [0, 257], let s := atPlace 0x50 (bkldCmd n) id; stepsAt s 0 0x50 (bkldCmd n) = true ∧ (n = 0 ∨ 256 < n) := by decide +kernel

theorem test_meets_bkld_2 :
    (let s := atPlace 0x50 (bkldCmd 2) (fun y => { y with pairs := [9, 9] });
      stepsAt s 0 0x50 (bkldCmd 2) = true ∧ (s.place 7 0).phase = 0 ∧ (s.place 7 0).pairs.length = 2) ∧
    (let s := (atPlace 0x50 (bkldCmd 2) (fun y => { y with pairs := [9] })).poke 0x108 8 5;
      stepsAt s 0 0x50 (bkldCmd 2) = true ∧ (s.place 7 0).pairs.length < 2 ∧ s.pullWaits 7 0x108 8 = false ∧
      (s.pull 7 0x108 8 .fetch).toOption = some 5) ∧
    ∀ w ∈ [[0x6800000000000001, 0x8000000000000000], [0x6800000000000001, 0x7000000000000000]],
      let s := atPlace 0x50 (bkldCmd 2) (fun y => { y with phase := 1, pairs := w });
      stepsAt s 0 0x50 (bkldCmd 2) = true ∧ (s.place 7 0).phase ≠ 0 ∧ (s.place 7 0).pairs.length = 2 ∧ s.bankBusy 0 (s.place 7 0) = false := by decide +kernel

theorem test_meets_bkld_3 : ((decodeBank 0x6800000000000001).toOption.isSome && (decodeBank 0x7000000000000000).toOption.isSome &&
    (decodeBank 0x8000000000000000).toOption.isSome) = true := by decide +kernel

/-- A `BKRN` that the job issued before, on the AGE of element 15. -/
theorem test_meets_bkld_4 :
    let s := (atPlace 0x50 (bkldCmd 2) (fun y => { y with phase := 1, pairs := [9, 9], behind := [(15, 1)] })).updElem 15 (fun x => { x with
      age := { x.age with places := [(0, { active := true, raw := BitVec.ofNat 128 (encodeCmdFields 0x51 (bkldCmd 0)) })], started := 1 } });
    stepsAt s 0 0x50 (bkldCmd 2) = true ∧ s.bankBusy 0 (s.place 7 0) = true ∧ s.bankRuns 0 = [(15, 1)] := by decide +kernel

theorem test_meets_bkld_5 :
    bankStatus 0xFFFFFFFFFFFFFFFF = 1 ∧ bankStatus 0x7000000000000001 = 2 ∧ bankStatus 0x6800000000000000 = 0 ∧
    bankStatus 0x6800000000000200 = 3 := by decide +kernel

theorem test_meets_bkld_6 :
    let c := { bkldCmd 1 with addr := 0x40000000 }; let s := atPlace 0x50 c id;
    stepsAt s 0 0x50 c = true ∧ errOf (s.pull 7 0x40000000 8 .fetch) = some 2 ∧ s.pullWaits 7 0x40000000 8 = false := by decide +kernel

/-- A `BKRN` or `BKRL` of one stripe, whose results leave on port 0. -/
def bkrCmd : Cmd := { fields 4 0x10 1 with addr := 0x18000000 }

theorem test_meets_bank_runs_1 :
    ∀ op ∈ [0x51, 0x52], let s := bankPage (atPlace op bkrCmd id);
      stepsAt s 0 op bkrCmd = true ∧ (s.place 7 0).phase = 0 ∧ (s.place 7 0).pairs.length < 1 ∧ (s.stripe 7 0x18000000).toOption = some (2304, 0) ∧
      errOf (s.stripe 7 0x8000000) = some (4, 0x8000000) := by decide +kernel

theorem test_meets_bank_runs_2 :
    ∀ op ∈ [0x51, 0x52], ∀ l ∈ [[], [(0, [0x8000000000000000])]],
      let s : State := { atPlace op bkrCmd (fun y => { y with pairs := [2304] }) with programs := l };
      stepsAt s 0 op bkrCmd = true ∧ (s.place 7 0).phase = 0 ∧ 1 ≤ (s.place 7 0).pairs.length := by decide +kernel

theorem test_meets_bank_runs_3 :
    ∀ op ∈ [0x51, 0x52], ∀ n ∈ [1, 3], let s := atPlace op bkrCmd (fun y => { y with phase := n });
      stepsAt s 0 op bkrCmd = true ∧ (s.place 7 0).phase = n := by decide +kernel

/-- A command of one stripe whose runs are going on. -/
def runningAt (op : Nat) (f : Place → Place) : State := atPlace op bkrCmd (fun y => f { y with pairs := [2304], phase := 2, walked := 64 })

theorem test_meets_bank_runs_4 :
    ∀ op ∈ [0x51, 0x52], let s : State := { runningAt op (fun y => { y with written := 1 }) with
        bankResults := (List.range 64).map (fun k => { age := 7, bank := 2304 + k, result := BitVec.ofNat 16 k }) };
      stepsAt s 0 op bkrCmd = true ∧ (s.place 7 0).runs < (s.place 7 0).written ∧
      (s.runResults 7 0 0 (s.place 7 0).bankList).length = (s.place 7 0).bankList.length := by decide +kernel

theorem test_meets_bank_runs_5 :
    let s := runningAt 0x51 id; stepsAt s 0 0x51 bkrCmd = true ∧ (s.place 7 0).written = 0 ∧ (s.place 7 0).runs = 0 ∧
      (s.place 7 0).bankList.Nodup := by decide +kernel

theorem test_meets_bank_runs_6 :
    let s := runningAt 0x51 (fun y => { y with written := 1, runs := 1 }); stepsAt s 0 0x51 bkrCmd = true ∧ (s.place 7 0).runs = 1 := by decide +kernel

theorem test_meets_bank_runs_7 :
    ∀ q ∈ [([5], false), ([], true)], let s := runningAt 0x52 (fun y => { y with inq := q.1, eos := q.2 });
      stepsAt s 0 0x52 bkrCmd = true ∧ (s.place 7 0).runs = (s.place 7 0).written ∧ (s.place 7 0).inq = q.1 ∧ (s.place 7 0).eos = q.2 := by decide +kernel

/-- Bank 2304 as f leaves it, running a program over rows 4 and 7. -/
def bankAs (f : Bank → Bank) : State :=
  { (bankPage (ageState id)).updBank 2304 (fun x => f { x with running := some { age := 7, rows := [4, 7], lim := 2 } }) with site := { bank := 2304 } }

theorem test_meets_bank_words_1 :
    let s := bankAs (fun x => { x with reopen := true }); (s.bankAt 2304).running.isSome = true ∧ (s.bankAt 2304).cause = 0 ∧
      (s.bankAt 2304).reopen = true ∧ s.bankPending 2304 = false := by decide +kernel

theorem test_meets_bank_words_2 :
    ∀ t ∈ [0, 8], let s := bankAs (fun x => { x with held := true, pass := 1, t := BitVec.ofNat 512 t });
      (s.bankAt 2304).reopen = false ∧ (s.bankAt 2304).pass + 1 ≤ 2 ∧ (s.bankAt 2304).cause = 0 := by decide +kernel

theorem test_meets_bank_words_3 : (8 : BitVec 512).getLsbD 3 = true ∧ ∀ k, k < 3 → (8 : BitVec 512).getLsbD k = false := by decide +kernel

/-- An access that has reached bank 2304. -/
def atBank (s : State) : State := { s with reqs := [{ home := 0x18000000, stage := .home }] }

theorem test_meets_bank_words_4 :
    let s := bankAs id; (2 ≤ 0 + (2 : BitVec 15).toNat) ∧ (0 + (1 : BitVec 15).toNat < 2) ∧ s.bankPending 2304 = false ∧ (atBank s).bankPending 2304 = true ∧
      ((atBank s).bankAt 2304).reopen = false := by decide +kernel

theorem test_meets_bank_words_5 :
    let s := bankAs (fun x => { x with row := 4, held := true, t := 8 }); let a := s.rowAddr 2304 4 0;
      a = 0x18000000 + 4 * 131072 ∧ s.isBad a 2048 = false ∧ ({ s with bad := [a] } : State).isBad a 2048 = true := by decide +kernel

theorem test_meets_bank_words_6 :
    let s := bankAs (fun x => { x with held := true, pass := 2 }); (s.bankAt 2304).held = true ∧ 2 < (s.bankAt 2304).pass + 1 ∧
      ((bankAs id).bankAt 2304).held = false := by decide +kernel

-- hypotheses met: completion, spills, bridles, regions, events ---------------------------------------------------------

/-- A command in place 0 of the AGE as f leaves it, and the AGE's own state as g does. -/
def ending (f : Place → Place) (g : Age → Age) : State :=
  let s := (atPlace 0x01 (fields 2 0 4) f).updElem 7 (fun x => { x with age := g x.age }); s

theorem test_meets_completion :
    ∀ d ∈ [true, false], ∀ n ∈ [0, 1], ∀ o ∈ [[], [({ target := 15, index := 2 } : DoneOut)], [{ target := 15, index := 2, away := true }]],
      let s := ending (fun y => { y with done := d, seq := 4 }) (fun a => { a with doneNext := 4 + n, doneOut := o });
      s.site.place = some 0 ∧ (s.place 7 0).active = true ∧ (s.place 7 0).done = d ∧ (s.place 7 0).template = none ∧
      (s.elem 7).age.completed = [] ∧ ((s.place 7 0).seq = (s.elem 7).age.doneNext ↔ n = 0) ∧
      ∀ k ∈ [254, 255], let u := (s.updAge 15 (fun a => { a with doneIn := [(2, { valid := true, count := k })] })).updAge 7 (fun a => { a with
          doneOut := a.doneOut.map (fun o => { o with sent := k }) });
        ∀ o ∈ (u.elem 7).age.doneOut, u.edgeCount o = k := by decide +kernel

theorem test_meets_completion_of_a_template :
    let s := ending (fun y => { y with done := true, template := some 255 }) id; (s.place 7 0).done = true ∧ (s.place 7 0).template = some 255 := by
  decide +kernel

theorem test_meets_undecoded_command : (ageState id).regionRuns 7 = true ∧
    ((ageState id).updStrand 0 (fun t => { t with region := { t.region with state := .frozen } })).regionRuns 7 = false := by decide +kernel

/-- A spilled write of 4 bytes at 0x100 stands in the AGE's queue. -/
def spilledAt (va : BitVec 60) (g : Age → Age) : State := ending id (fun a => g { a with spills := [{ va, size := 4, op := 0x02, data := 9 }] })

theorem test_meets_spills_1 :
    (spilledAt 0x100 (fun a => { a with spillHeld := true })).elem 7 ≠ {} ∧
    (let s := spilledAt 0x100 (fun a => { a with drainAt := 3 }); s.cyc.ult (s.elem 7).age.drainAt = true) ∧
    ∀ x ∈ [((0x40000000 : BitVec 60), 2), (0x101, 5)], let s := spilledAt x.1 id; let a := (s.elem 7).age;
      a.spillHeld = false ∧ s.cyc.ult a.drainAt = false ∧
      s.walkWaits (.age 7) 0 0 x.1.toNat = false ∧
      errOf (s.checkSpace 7 4 (x.1.toNat : Int) 4 (.streamWrite 4) true) = some x.2 := by decide +kernel

theorem test_meets_spills_2 :
    let s := spilledAt 0x100 id; s.walkWaits (.age 7) 0 0 0x100 = false ∧ (s.checkSpace 7 4 0x100 4 (.streamWrite 4) true).toOption = some (locAt 0x100) ∧ s.prompt = true ∧
      (s.place 7 0).active = true ∧ s.dieLines = [] ∧
      performsAt s { s.placeReq 7 0 0 (locAt 0x100) 0x100 4 .write 9 with agent := .spill 7 0, bar := none } = true := by decide +kernel

/-- An AGE that holds a token to send, its bridle's control word being c, one beat being admitted in the window. -/
def bridled (c : BitVec 64) : State :=
  ending (fun y => { y with outq := [(0, Token.dat 5)] }) (fun a => { a with bridle := { control := c, admitted := 1, window := 2 } })

theorem test_meets_bridles_0 : ∀ x ∈ [((0 : BitVec 64), 0), (0x1000000010003, 1)],
    let s := ending id (fun a => { a with ports := [(0, Token.dat 5)], bridle := { control := x.1, admitted := x.2 } }); let el := s.elem 7;
      el.age.ports = [(0, Token.dat 5)] ∧ el.age.places.find? (fun q => q.2.active && !q.2.held && !q.2.outq.isEmpty) = none ∧
      s.regionRuns 7 = true ∧ el.room 0 1 = true ∧ el.age.bridle.admitsFrom el.age.bridle.admitted [(0, Token.dat 5)] = decide (x.2 = 0) := by
  decide +kernel

/-- An AGE, an element that is none, and the ingress of a link virtual channel. -/
theorem test_meets_bridle_places : 7 < outside ∧ kindAt (7 % 64) = .age ∧ 6 < outside ∧ kindAt (6 % 64) ≠ .age ∧ outside ≤ outside + 3 := by
  decide +kernel

theorem test_meets_bridles_1 : let s := bridled 0xFFFF; let el := s.elem 7;
    ((el.age.places.find? (fun q => q.2.active && !q.2.held && !q.2.outq.isEmpty)).map (·.1)) = some 0 ∧
      s.regionRuns 7 = true ∧ el.room 0 1 = true ∧ el.admits [(0, Token.dat 5)] = true := by decide +kernel

theorem test_meets_bridles_2 : let s := bridled 0x1000000010003; let el := s.elem 7;
    ((el.age.places.find? (fun q => q.2.active && !q.2.held && !q.2.outq.isEmpty)).map (·.1)) = some 0 ∧
      s.regionRuns 7 = true ∧ el.room 0 1 = true ∧ el.admits [(0, Token.dat 5)] = false := by decide +kernel

theorem test_meets_bridles_3 :
    let at_ (c w : Nat) : State := ending id (fun a => { a with bridle := { control := BitVec.ofNat 64 c, window := w } });
    let on (c w : Nat) : Bool := let b := ((at_ c w).elem 7).age.bridle; b.control.toNat / 2^48 % 2 == 1 && decide (b.control.toNat % 2^16 + 1 ≤ b.window);
    on (2^48 + 3) 4 = true ∧ on (2^48 + 3) 3 = false ∧ on 3 4 = false := by decide +kernel

/-- The test's strand as f leaves it, and its job as g does. -/
def regionAs (f : Strand → Strand) (g : Job → Job) : State := (plain.updStrand 0 f).updJob 0 g

theorem test_meets_regions_1 :
    ∀ r ∈ [RegionState.running, .freezing, .frozen, .halted], ∀ b ∈ [true, false],
      let s := regionAs (fun t => { t with region := { t.region with state := r, trap := b } }) id;
      s.self.onFabric = true ∧ (∀ q ∈ s.reqs, q.stage ≠ .returned) ∧ s.self.region.state = r ∧ s.self.region.trap = b ∧ s.still 0 = true ∧ (s.job 0).preempting = false := by decide +kernel

/-- A slot `CNT` with a token before it. -/
def countReady (s : State) : State :=
  s.updElem 6 (fun x => { x with
    configured := true, kind := .se, go := true, slotMask := 1, slots := [(0, BitVec.ofNat 64 (0x45 * 2^56))], chans := [(0, [{ tok := Token.dat 5 }])] })

theorem test_meets_regions_2 : (countReady plain).holdsToken 0 = true ∧ (countReady plain).still 0 = false := by decide +kernel

theorem test_meets_regions_3 :
    ∀ n ∈ [0, 1], ∀ q ∈ [1023, 1024], let s := countReady (regionAs (fun t => { t with stallCtl := BitVec.ofNat 64 n, quiet := BitVec.ofNat 32 q }) id);
      s.self.region.state = .running ∧ s.holdsToken 0 = true ∧ s.rowHeld = false ∧
      ((n ≠ 0 ∧ n * 1024 ≤ q) ↔ (s.self.stallCtl.toNat % 2^16 ≠ 0 ∧ s.self.stallCtl.toNat % 2^16 * 1024 ≤ s.self.quiet.toNat)) := by decide +kernel

theorem test_meets_regions_4 :
    ∀ r ∈ [RegionState.running, .frozen], let s := regionAs (fun t => { t with region := { t.region with state := r } }) (fun j => { j with preempting := true });
      (s.job 0).preempting = true ∧ (s.job 0).stopped = false ∧ s.self.run = .running ∧ s.self.region.state = r := by decide +kernel

theorem test_meets_regions_5 :
    (let s := regionAs id (fun j => { j with launches := [(0, { left := 2 })] }); s.self.onFabric = true ∧ s.self.stack = [] ∧
      ((s.job 0).launches.look {} s.self.node : Launch).left ≠ 0) ∧
    (regionAs (fun t => { t with run := .complete }) id).self.onFabric = false := by decide +kernel

theorem test_meets_events :
    ∀ h ∈ [0, 6], let s : State := { regionAs id (fun j => { j with events := [7], ringPhys := 0x10000 }) with
        rings := [(0, { tail := 5, head := BitVec.ofNat 16 h })] };
      (s.job 0).events = 7 :: [] ∧ s.dieLines = [] ∧ s.rowHeld = false ∧ s.eventOpen 7 = false ∧ s.queuedAt (s.bankOf (0x10000 + 32 * 5)) = [] ∧
      s.answers = true ∧ (s.strands.map (·.1)).Nodup ∧
      (let r : RingCtl := s.rings.look {} 0; ((r.tail.toNat + 1) % 2^(s.job 0).ringLog = r.head.toNat % 2^(s.job 0).ringLog ↔ h = 6)) := by
  decide +kernel

/-- The event of a fault of this cycle stays open until the cycle ends; a package in recovery answers nothing. -/
theorem test_meets_events_that_wait : (let s := (regionAs id id).faultRegion 0 0 0 2 5; ∃ v, (s.job 0).events = [v] ∧ s.eventOpen v = true) ∧
    ({ plain with boot := { plain.boot with recovery := true } } : State).answers = false :=
  ⟨⟨_, rfl, by decide +kernel⟩, by decide +kernel⟩

theorem test_meets_no_events : (plain.job 0).events = [] := by decide +kernel

-- hypotheses met: the ordering machine -------------------------------------------------------------------------------------

/-- A write of 4 bytes to the address by strand 0. -/
def wreq (va : Nat) (f : Req → Req) : Req :=
  f { id := 5, agent := .seq 0, kind := .write, home := va, va, size := 4, data := 9, regionKind := va / 2^27 }

theorem test_meets_departure :
    ∀ l ∈ [[], [wreq 0x100 (fun r => { r with id := 4 })]], let r := wreq 0x102 id; let s : State := { plain with reqs := l ++ [r] };
      s.req 5 = some r ∧ r.stage = .issued ∧ s.earlierAge r = false ∧ (s.earlier r = false ↔ l = []) := by decide +kernel

theorem test_meets_die_points :
    ∀ x ∈ [(0x100, 0, true), (0x100, 2, true), (0x8000000, 0, false)],
      let r := wreq x.1 (fun r => { r with stage := .departed, policy := x.2.1 }); let s : State := { plain with reqs := [r] };
      s.req 5 = some r ∧ r.passesDie = x.2.2 ∧ 1 ≤ r.size ∧
      (s.dieLines.filter (fun d => d.die == r.die && l2Set d.line == l2Set (r.home / 128))).length < 16 ∧ (r.home % 128) / 64 = (r.home % 128 + r.size - 1) / 64 := by decide +kernel

theorem test_meets_send_home :
    (let r := wreq 0x8000000 (fun r => { r with stage := .departed });
      r.passesDie = false ∧ ({ plain with reqs := [r] } : State).pendingFull r = false ∧
      (({ plain with reqs := List.replicate 16 { r with stage := .home } ++ [r] } : State).updBank (plain.bankOf 0x8000000)
        (fun x => { x with held := true })).pendingFull r = true) ∧ (wreq 0x100 (fun r => { r with stage := .passed })).kind ≠ .read ∧
    ∀ c ∈ [0, 1], let s : State := { plain with dieLines := [{ line := 2, present := 3, changed := BitVec.ofNat 128 c }] };
      (∃ d, s.dieLine 0 2 = some d ∧ d.dirty 0 = (c == 1) ∧ d.dirty 1 = false ∧ s.sectorWaits 2 0 = false) := by decide +kernel

theorem test_meets_serialise_1 :
    ∀ x ∈ [(ReqKind.write, Dest.none, 4), (.amo .add64, .reg 0 7, 8)],
      let r := wreq 0x100 (fun r => { r with stage := .home, kind := x.1, dest := x.2.1, size := x.2.2 }); let s : State := { plain with reqs := [r] };
      s.req 5 = some r ∧ s.oldestAt r = true ∧ s.homeHeld r = false ∧ s.tileHolds r = false ∧ r.writers = [] ∧ r.mask = BitVec.allOnes 64 ∧
      s.dieLines = [] := by decide +kernel

theorem test_meets_serialise_2 :
    let r := wreq 0x100 (fun r => { r with stage := .home }); let s : State := { plain with reqs := [wreq 0x100 (fun r => { r with id := 4, stage := .home }), r] };
      s.oldestAt r = false ∧ ({ plain with reqs := [r] } : State).req 5 = some r ∧
      (({ plain with reqs := [r] } : State).updBank (plain.bankOf 0x100) (fun x => { x with held := true })).homeHeld r = true := by decide +kernel

theorem test_meets_reads :
    (∀ x ∈ [(Agent.seq 0, Dest.reg 0 7), (.place 7 0, .elem 7 0 3)], ∀ g ∈ [Stage.departed, .home],
      let r := wreq 0x100 (fun r => { r with stage := g, kind := .read, agent := x.1, dest := x.2 }); let s : State := { plain with reqs := [r] };
      s.req 5 = some r ∧ s.homeHeld r = false ∧ s.tileHolds r = false ∧ (g = .home → s.oldestAt r = true)) ∧
    ∀ n ∈ [0, 16], let r := wreq 0x100 (fun r => { r with stage := .departed, kind := .read });
      let s := ({ plain with reqs := r :: List.replicate n { r with stage := .home, id := 6 } } : State).updBank (plain.bankOf 0x100) (fun x => { x with held := true });
      s.req 5 = some r ∧ s.tileHolds r = false ∧ s.homeHeld r = true ∧ s.pendingFull r = (n == 16) := by decide +kernel

theorem test_meets_host_read :
    let r := wreq 0x18000000 (fun r => { r with stage := .departed, kind := .read, agent := .host, dest := .host, virt := true });
    let s : State := { plain with reqs := [r] };
      s.req 5 = some r ∧ s.homeHeld r = false ∧ s.tileHolds r = false ∧ r.regionKind = 3 := by decide +kernel

theorem test_meets_drops :
    ∀ x ∈ [(0, none), (0, some 0), (1, none)], let d : DieLine := { line := 2, present := 3, changed := BitVec.ofNat 128 x.1, lock := x.2 };
      let s : State := { plain with dieLines := [d] };
      s.dieLine 0 2 = some d ∧ s.dieLine 0 3 = none ∧ s.sectorWaits 2 0 = false ∧ (d.dirty 0 = true ↔ x.1 = 1) ∧ d.dirty 1 = false := by decide +kernel

theorem test_meets_deferral_1 :
    ∀ b ∈ [true, false], let r := wreq 0x8000000 (fun r => { r with stage := .home, kind := .syncRead, size := 8 });
      let s : State := { plain with reqs := [r] }.setFull 0x8000000 b;
      s.req 5 = some r ∧ s.homeHeld r = false ∧ s.oldestAt r = true ∧ s.deferralFull r = false ∧ s.isFull 0x8000000 = b := by decide +kernel

/-- A bank whose deferral table is full, and the request. -/
def crowded (r : Req) : State :=
  { plain with reqs := (List.range Config.deferralEntries).map (fun k => { r with id := 10 + k, stage := .deferred }) ++ [r] }

theorem test_meets_deferral_2 :
    ∀ g ∈ [Stage.home, .departed], let r := wreq 0x8000000 (fun r => { r with stage := g, kind := .syncRead, size := 8 }); let s := crowded r;
      s.req 5 = some r ∧ s.deferralFull r = true ∧ s.isFull 0x8000000 = false ∧ s.prompt = true := by decide +kernel

theorem test_meets_deferral_3 :
    ∀ p ∈ [true, false], let r := wreq 0x8000000 (fun r => { r with stage := .departed, kind := .syncRead, size := 8, dest := .await 0 });
      let s : State := { (plain.updStrand 0 (fun t => { t with awaits := some 5 })).setFull 0x8000000 true with reqs := [r], prompt := p };
      s.req 5 = some r ∧ s.homeHeld r = false ∧ s.isFull 0x8000000 = true ∧ (s.strand 0).awaits = some r.id ∧ s.prompt = p := by decide +kernel

-- hypotheses met: the package and the world outside ------------------------------------------------------------------------

/-- The package in recovery. -/
def recovering : State := { plain with boot := { plain.boot with recovery := true } }

theorem test_meets_registers :
    plain.answers = true ∧ recovering.answers = false ∧
    (let s := plain.updJob 0 (fun j => { j with dieMask := 6 }); ∀ x ∈ [(0, false), (256, true), (512, false), (1024, false)], let die := x.1 / 256;
      decide (die < 4 ∧ (s.job 0).dieMask / 2^die % 2 = 1 ∧ ∀ d, d < die → (s.job 0).dieMask / 2^d % 2 = 0) = x.2) ∧
    plain.jobPlaced 0 = true ∧ plain.jobPlaced 1 = false ∧ (plain.queue 0).valid = false ∧
    (let s := plain.setWindow 0 0 0 1; let w := 1 + 3 * 2 + 4 * 2^18; w % 2 = 1 ∧ s.queueTaken 0 (Machine.queueOf w) = true ∧
      s.queueFits 0 (Machine.queueOf w) = true ∧ s.queueFits 0 (Machine.queueOf 1) = false) ∧ (partFrom (1 + 2^35)).away = 1 ∧
    (({ plain with queues := [(0, { valid := true })] } : State).queue 0).valid = true := by decide +kernel

theorem test_meets_windows :
    let s : State := { plain with windows := [(1, BitVec.ofNat 64 (8 + 4 * 2^10))] };
      1024 < 1000 + 25 ∧ s.windowClash 0 0 11 1 = true ∧ s.windowClash 0 0 12 1012 = false ∧ 12 + 1012 ≤ 1024 ∧
      s.groupLinear.look false 383 ≠ true ∧ s.rowHeld = false ∧ ({ s with banks := [(0, { held := true })] } : State).rowHeld = true := by decide +kernel

theorem test_meets_key_slots_1 :
    let s : State := { plain with reqs := [{ home := 0x100, va := 0x100, virt := true, key := 1023 }] };
      s.boot.running = true ∧ s.boot.recovery = false ∧ s.keyBusy 1 = false ∧ s.keyBusy 1023 = true ∧ (1 ≤ 1023 ∧ 1023 < 1024) ∧
      (s.keys.look {} 1 : KeySlot).material = 0 := by decide +kernel

theorem test_meets_snapshots :
    let s : State := { plain with snapAt := some { at_ := 64 } }; plain.snapAt = none ∧ s.snapAt = some { at_ := 64 } ∧ s.cyc.toNat < 64 ∧
      64 ≤ ({ s with cyc := 64 } : State).cyc.toNat := by decide +kernel

theorem test_meets_links :
    plain.cap.linkMask.toNat / 2^15 % 2 = 1 ∧ plain.cap.linkMask.toNat / 2^16 % 2 = 0 ∧ (plain.strands.map (·.1)).Nodup ∧
    (let s : State := { plain with parts := [(0, { group := 1, number := 1 })], cuts := [(0, { group := 1, srcPart := 1, dstPart := 2, link := some 15 })] };
      s.self.onFabric = true ∧ ∃ p c, s.partOf s.self = some p ∧ c ∈ s.cuts.map (·.2) ∧ c.link = some 15 ∧ c.group = p.group ∧ c.srcPart = p.number) ∧
    plain.partOf plain.self = none :=
  ⟨by decide +kernel, by decide +kernel, by decide +kernel, ⟨by decide +kernel, _, _, rfl, List.mem_singleton.2 rfl, rfl, rfl, rfl⟩, by decide +kernel⟩

theorem test_meets_boot :
    recovering.boot.recovery = true ∧ plain.boot.recovery = false ∧
    (∀ f : FlashImage, f.version = 0 → ¬ (Config.imageSigned (Config.sha256 f.content).toNat = true ∧
      ({ plain with boot := { plain.boot with counter := 1 } } : State).boot.counter ≤ f.version)) :=
  ⟨by decide +kernel, by decide +kernel, fun f hf h => by rw [hf] at h; exact absurd h.2 (by decide)⟩

theorem test_meets_host_windows :
    plain.answers = true ∧ recovering.answers = false ∧ plain.hostReaches 0 0x100 = true ∧ plain.hostReaches 17 0x100 = false ∧ plain.hostReaches 0 (2^41) = false ∧
    plain.dieLines = [] ∧ plain.prompt = true ∧ plain.strandOn 0 = some 0 := by decide +kernel

theorem test_meets_host_memory : ∀ k d, plain.Performs (plain.hostReq 0x100 k d) := fun k _ => by
  cases k <;> exact performs_of rfl

/-- Bytes of storage none of which is listed read as zero. -/
theorem peek_unlisted {s : State} {a : Nat} : ∀ {n : Nat}, (∀ c ∈ s.mem, c.1 < a ∨ a + n ≤ c.1) → s.peek a n = 0 := by
  have look : ∀ (m : List Host.Cell) (b : Nat), (∀ c ∈ m, c.1 ≠ b) → memGet m b = 0 := by
    intro m b h
    induction m with
    | nil => rfl
    | cons c r ih => simp [memGet, Tab.look, h c (by simp)]; exact ih (fun d hd => h d (by simp [hd]))
  intro n
  induction n generalizing a with
  | zero => intro _; rfl
  | succ n ih =>
    intro h
    have h0 : memGet s.mem a = 0 := look _ _ (fun c hc => by have := h c hc; omega)
    have h1 := ih (a := a + 1) (fun c hc => by have := h c hc; omega)
    simp only [State.peek] at h1 ⊢
    simp [memBytes, ofBytes, h0, h1]

/-- A list built from the numbers below n + 1 of which only the first gives anything. -/
theorem flatMap_first {α : Type} (n : Nat) (g : Nat → List α) (h : ∀ k, 1 ≤ k → k ≤ n → g k = []) : (List.range (n + 1)).flatMap g = g 0 := by
  rw [List.range_succ_eq_map, List.flatMap_cons]
  have : List.flatMap g (List.map Nat.succ (List.range n)) = [] := by
    rw [List.flatMap_eq_nil_iff]
    intro x hx
    obtain ⟨k, hk, rfl⟩ := List.mem_map.1 hx
    exact h _ (by omega) (by have := List.mem_range.1 hk; omega)
  rw [this, List.append_nil]

/-- The leaves of a table of which only the first entry is listed. -/
theorem leaves_first (s : State) (fuel frame : Nat) (hs : s.seals = []) (h : ∀ c ∈ s.mem, c.1 < frame * 65536 + 8 ∨ frame * 65536 + 16384 ≤ c.1) :
    s.tableLeaves (fuel + 1) frame = (let e := s.peek (frame * 65536) 8
      if pteOk (4 - fuel) e then
        if bitsAt e 1 1 = 1 then [(bitsAt e 18 36 * 65536, if fuel = 1 then 2^27 else 65536, e)] else s.tableLeaves fuel (bitsAt e 18 36)
      else []) := by
  have hk : ∀ a n, s.peekKey 0 a n = s.peek a n := fun a n => by simp [State.peekKey, State.underKey, hs]
  rw [State.tableLeaves, flatMap_first 2047, Nat.zero_mul, Nat.add_zero]
  · simp only [hk]
  intro k h1 h2
  have : s.peek (frame * 65536 + k * 8) 8 = 0 := peek_unlisted (fun c hc => by have := h c hc; omega)
  simp only [hk, this]
  have : pteOk (4 - fuel) 0 = false := by simp [pteOk, bitsAt]
  simp [this]

/-- The tooling ring of VF 0, one of whose two descriptors is posted: 16 by 16 pixels from 0, egress-marked, to 0x10000000, under key 1. -/
def tooling (k : KeySlot) (alpha : Nat) : State :=
  let s := State.reset.mapFirst 0
  let d := 0x10000000 * 2^64 + 16 * 2^128 + 16 * 2^144 + 16 * 2^160 + alpha * 2^184 + 1 * 2^192
  let s := (s.poke (18 * 65536) 8 (1 + 2 + 2^14 + 2^15)).poke 0x200 64 d
  { s with
    jobs := [(0, { resident := true })], toolRings := [(0, { base := 0x200, entries := 2, tail := 1 })], keys := [(1, k)] }

theorem marked_tooling (k : KeySlot) : (tooling k 1).marked = [(0, 2^27)] := by
  have hm : (tooling k 1).mem = (tooling {} 1).mem := rfl
  have hp : ∀ a n, (tooling k 1).peek a n = (tooling {} 1).peek a n := fun _ _ => rfl
  have ho : ∀ f ∈ [16, 17, 18], ∀ c ∈ (tooling {} 1).mem, c.1 < f * 65536 + 8 ∨ f * 65536 + 16384 ≤ c.1 := by decide +kernel
  have hl : (tooling k 1).tableLeaves 4 16 = [(0, 2^27, 1 + 2 + 2^14 + 2^15)] := by
    rw [leaves_first _ 3 16 rfl (by rw [hm]; exact ho 16 (by simp)), hp, show (tooling {} 1).peek (16 * 65536) 8 = 1 + 17 * 2^18 by decide +kernel,
      if_pos (by decide), if_neg (by decide), show bitsAt (1 + 17 * 2^18) 18 36 = 17 by decide]
    rw [leaves_first _ 2 17 rfl (by rw [hm]; exact ho 17 (by simp)), hp, show (tooling {} 1).peek (17 * 65536) 8 = 1 + 18 * 2^18 by decide +kernel,
      if_pos (by decide), if_neg (by decide), show bitsAt (1 + 18 * 2^18) 18 36 = 18 by decide]
    rw [leaves_first _ 1 18 rfl (by rw [hm]; exact ho 18 (by simp)), hp, show (tooling {} 1).peek (18 * 65536) 8 = 1 + 2 + 2^14 + 2^15 by decide +kernel,
      if_pos (by decide), if_pos (by decide)]
    decide
  have ha : (tooling k 1).allLeaves = [(0, 2^27, 1 + 2 + 2^14 + 2^15)] := by
    rw [State.allLeaves, show Config.jobSlots = 63 + 1 from rfl, flatMap_first 63]
    · rw [show (tooling k 1).roots64 = [(0, BitVec.ofNat 64 (16 + 2^36))] from rfl]
      simpa [Tab.look, bitsAt] using hl
    · intro j h1 h2
      rw [show (tooling k 1).roots64 = [(0, BitVec.ofNat 64 (16 + 2^36))] from rfl]
      simp [Tab.look, bitsAt, show (0 : Nat) ≠ j by omega]
  rw [State.marked, ha]; decide

theorem test_meets_host_egress : inRanges State.reset.marked 0x100 = false ∧ inRanges State.reset.marked 0x107 = false ∧
    inRanges (tooling {} 1).marked 0x100 = true := ⟨by decide +kernel, by decide +kernel, by rw [marked_tooling]; decide⟩

theorem test_meets_reset_of_a_function :
    let s : State := plain.updJob 0 (fun j => { j with vf := 15 }); (s.job 0).resident = true ∧ (s.job 0).vf = 16 - 1 ∧ (s.job 0).status = 0 := by
  decide +kernel

theorem test_meets_tooling_1 : (tooling {} 1).descOk 0 (toolDesc ((tooling {} 1).peek 0x200 64)) = true := by
  unfold State.descOk; rw [marked_tooling]; decide +kernel

theorem test_meets_tooling_2 : (tooling {} 0).descOk 0 (toolDesc ((tooling {} 0).peek 0x200 64)) = false := by decide +kernel

theorem test_meets_tooling_3 :
    ∀ u ∈ [0, 2], let s := tooling { use := u } 1; let r : ToolRing := s.toolRings.look {} 0;
      r.entries ≠ 0 ∧ r.head ≠ r.tail ∧ s.dieLines = [] ∧ s.rowHeld = false ∧ ((s.keys.look {} (toolDesc (s.peek 0x200 64)).key : KeySlot).use = 2 ↔ u = 2) ∧
      (s.keys.look {} (toolDesc (s.peek 0x200 64)).key : KeySlot).owner = (toolDesc (s.peek 0x200 64)).job := by decide +kernel

theorem test_meets_tooling_4 : (plain.toolRings.look {} 0 : ToolRing).entries = 0 := by decide +kernel

-- hypotheses met: jobs ------------------------------------------------------------------------------------------------------

theorem test_meets_mailboxes :
    ∀ b ∈ [true, false], let s : State := { plain with boxes := [(17, { valid := b })] };
      (s.boxes.look {} (1 * 16 + 1) : Mailbox).valid = b ∧ s.answers = true ∧ ({ s with boot := { s.boot with recovery := true } } : State).answers = false ∧ s.rowHeld = false ∧ s.boot.running = true ∧ s.boot.recovery = false := by decide +kernel

/-- A mailbox whose pointer is to a job record at 0x1000 with the die mask given, no windows and an event ring of 16 records. -/
def posted (mask : Nat) : State :=
  { (plain.poke 0x1000 64 (mask * 2^4 + 4 * 2^448)) with boxes := [(17, { addr := 0x1000, valid := true, order := 3 }), (18, { valid := true, order := 5 })] }

theorem test_meets_residency_1 :
    ∀ x ∈ [(0, false), (1, true)], let s := posted x.1; let m : Mailbox := s.boxes.look {} 17; m.valid = true ∧
      recordAccepted m.addr.toNat (ofBytes (s.seenHome m.addr.toNat 64)) = x.2 ∧
      (∀ y ∈ s.boxes, y.2.valid = true → y.1 ≠ 17 → y.2.order < m.order → s.stuck y.2 = true) := by decide +kernel

theorem test_meets_residency_2 :
    let s := posted 1; (∃ s1, State.assignWindows 1 0 [0] s = some s1) ∧ (s.job 1).resident = false ∧ (∀ i, i < 1 → (s.job i).resident = true) ∧
      (let t : State := { s with jobs := (List.range 64).map (fun i => (i, { resident := true })) }; ∀ j, j < 64 → (t.job j).resident = true) := by
  refine ⟨⟨_, rfl⟩, ?_⟩; decide +kernel

/-- Job 1 has a launch to place on die 0, of one panel, whose record is at 0x1000; job 0, of lower priority, holds panel 0. -/
def waiting (f : Job → Job) : State :=
  let s := (State.reset.mapFirst 1).updStrand 0 (fun t => { t with run := .running })
  let s := s.poke 0x1000 16 (0x4000 + 4096 * 2^64)
  { s with
    jobs := [(0, { resident := true }), (1, f {
      resident := true, priority := 2, effective := 2, dieMask := 1, gstate := 1, order := 1, holding := 3 * 2^61
      launches := [(4, { runnable := true, replicas := 1, record := 0x1000 })] })] }

theorem test_meets_aging :
    ∀ c ∈ [3759999, 3760000], let s : State := { waiting (fun j => { j with waitFrom := some 0 }) with cyc := BitVec.ofNat 64 c };
      (s.job 1).waitFrom = some 0 ∧ s.waits 1 = true ∧ (s.job 0).waitFrom = none ∧ s.waits 0 = false := by decide +kernel

/-- No panel is free. -/
def crowdedPanels (s : State) : State := { s with panels := (List.range 128).map (fun p => (p, { state := 2 })) }

theorem test_meets_preemption_1 :
    ∀ b ∈ [true, false], let s := (crowdedPanels (waiting id)).updJob 0 (fun j => { j with stepPre := b });
      s.waits 1 = true ∧ s.canPlace (s.soonUsable 1) 1 = false ∧ (s.strands.map (·.1)).Nodup ∧ s.victim (s.job 1).priority = some 0 ∧ (s.job 0).stepPre = b ∧
      (∀ v ∈ s.jobs, v.2.resident = true → s.jobPlaced v.1 = true → v.2.preemptAt = none ∧ v.2.preempting = false) := by decide +kernel

theorem test_meets_preemption_2 :
    (crowdedPanels (waiting (fun j => { j with priority := 0 }))).victim 0 = none ∧
    (crowdedPanels (waiting (fun j => { j with priority := 0 }))).waits 1 = true := by decide +kernel

theorem test_meets_deadlines :
    ∀ x ∈ [(5, false), (4, false), (5, true), (3, false)], let s : State := { waiting (fun j => { j with preemptAt := some 4, phaseDone := x.2 }) with cyc := BitVec.ofNat 64 x.1 };
      (s.job 1).preemptAt = some 4 ∧ (s.job 1).phaseDone = x.2 ∧ ((4 : Nat) < s.cyc.toNat ↔ x.1 = 5) ∧ (s.cyc = 4 ↔ x.1 = 4) ∧ s.phaseQuiet 1 = false ∧ s.jobPlaced 1 = false ∧
        s.jobPlaced 0 = true ∧ (s.job 0).preemptAt = none := by decide +kernel

theorem test_meets_cancels :
    let s := waiting (fun j => { j with phaseOpen := true }); let l : Launch := (s.job 1).launches.look {} 4;
      (s.job 1).resident = true ∧ l.runnable = true ∧ l.complete = false ∧ l.status = 0 ∧ (s.job 1).gstate = 1 ∧ (s.job 1).phaseOpen = true ∧
      (s.job 1).status = 0 ∧ (s.job 2).resident = false ∧ (s.job 0).gstate ≠ 1 ∧ (s.job 0).gstate ≠ 2 ∧ (s.job 0).phaseOpen = false ∧
      (s.job 1).phaseDone = false ∧ s.phaseQuiet 1 = false := by decide +kernel

/-- A phase that is quiet in the cycle of the cancel completes: a cancel of it comes late, one of the graph does not. -/
theorem test_meets_late_cancels :
    let s := waiting (fun j => { j with phaseOpen := true, holdingReturned := true, launches := [] });
      (s.job 1).resident = true ∧ (s.job 1).phaseDone = false ∧ s.phaseQuiet 1 = true ∧
      (let u := s.settleLevels 1; (u.job 1).resident = true ∧ (u.job 1).phaseDone = true ∧ (u.job 1).gstate = 1 ∧ (u.job 1).status = 0) := by decide +kernel

theorem test_meets_leaving :
    (let s := waiting (fun j => { j with status := 1 }); (s.job 1).resident = true ∧ (s.job 1).status ≠ 0 ∧ (s.job 1).events = [] ∧
      s.jobPlaced 1 = false ∧ s.stitches = []) ∧
    (let s : State := { waiting (fun j => { j with status := 1 }) with stitches := [(0, { queue := [{ job := 1 }] })] };
      ∃ u ∈ s.stitches, ∃ o ∈ u.2.queue, o.job = 1) ∧ (waiting id).jobPlaced 0 = true ∧ (waiting (fun j => { j with events := [0] })).jobs ≠ [] := by decide +kernel

theorem test_meets_placement_1 :
    let s := (waiting id); let l : Launch := (s.job 1).launches.look {} 4; (s.job 1).stopped = false ∧ l.toPlace = true ∧ s.selected 1 = true ∧
      0 ∈ s.launchDies 1 4 ∧ 1 ∉ s.launchDies 1 4 ∧ s.recordShape 1 l.record.toNat = some (1, 1) ∧ l.gang = false ∧ s.rowHeld = false ∧ s.launchRoom (s.usable 1) 1 4 = true ∧
      s.freeRect 1 0 1 1 = some 0 ∧ (let t := crowdedPanels s; t.launchRoom (t.usable 1) 1 4 = false) ∧ s.selected 0 = false := by decide +kernel

theorem test_meets_given : ∃ e left, Given (waiting id |>.job 1).holding e left false := by
  refine ⟨2, BitVec.ofNat 64 (2^62), ?_⟩
  have h : ((waiting id).job 1).holding = BitVec.ofNat 64 (3 * 2^61) := by decide +kernel
  rw [h]; unfold Given; decide +kernel

theorem test_meets_moves :
    ∀ n ∈ [0, 1], ∀ r ∈ [RunState.placed, .loaded], let s := (waiting id).updStrand 0 (fun t => { t with run := r, lead := n });
      s.movable 0 = true ∧ (s.strand 0).run = r ∧ (s.job (s.strand 0).job).preempting = false ∧ s.rowHeld = false ∧ s.freeRect (s.strand 0).job (dieOf n) 1 1 = some 0 ∧
      (waiting id).movable 0 = false := by decide +kernel

/-- Strand 0 is placed with the record at 0x2000; so is strand 1 of the same launch, as f leaves it. -/
def placedTwice (f : Strand → Strand) : State :=
  (recorded.updStrand 0 (fun t => { t with run := .placed })).updStrand 1 (fun t => f { t with replica := 1, lead := 5 })

theorem test_meets_loading :
    (∀ r ∈ [RunState.placed, .loaded, .complete], ∃ (s : State) (p : LoadPlan), s.self.run = .placed ∧ s.rowHeld = false ∧ s.partOf s.self = none ∧
      (s.strandsOf s.self.job s.self.node).filter (fun i => i != 0) = (if r = .complete then [] else [1]) ∧ (s.strand 1).run = r ∧
      s.partOf (s.strand 1) = none ∧ ((s.job s.self.job).launches.look {} s.self.node : Launch).gang = false ∧
      s.loadCheck s.site.strand s.self.cpc.toNat = .ok p) ∧
    (∃ (s : State), s.self.run = .placed ∧ s.rowHeld = false ∧ s.partOf s.self = none ∧
      s.loadCheck s.site.strand s.self.cpc.toNat = .error (.access .translation 0x20000000)) := by
  refine ⟨?_, ⟨plain.updStrand 0 (fun t => { t with run := .placed, cpc := 0x20000000 }), by decide +kernel, by decide +kernel, by decide +kernel,
    error_of (by decide +kernel)⟩⟩
  simp only [List.mem_cons, List.not_mem_nil, or_false]
  rintro r (rfl | rfl | rfl)
  · obtain ⟨p, hp⟩ := ok_some (x := (placedTwice (fun t => { t with run := .placed })).loadCheck 0 0x2000) (by decide +kernel)
    exact ⟨placedTwice (fun t => { t with run := .placed }), p, by decide +kernel, by decide +kernel, by decide +kernel, by decide +kernel,
      by decide +kernel, by decide +kernel, by decide +kernel, hp⟩
  · obtain ⟨p, hp⟩ := ok_some (x := (placedTwice (fun t => { t with run := .loaded })).loadCheck 0 0x2000) (by decide +kernel)
    exact ⟨placedTwice (fun t => { t with run := .loaded }), p, by decide +kernel, by decide +kernel, by decide +kernel, by decide +kernel,
      by decide +kernel, by decide +kernel, by decide +kernel, hp⟩
  · obtain ⟨p, hp⟩ := ok_some (x := (placedTwice (fun t => { t with run := .complete })).loadCheck 0 0x2000) (by decide +kernel)
    exact ⟨placedTwice (fun t => { t with run := .complete }), p, by decide +kernel, by decide +kernel, by decide +kernel, by decide +kernel,
      by decide +kernel, by decide +kernel, by decide +kernel, hp⟩

theorem test_meets_zeroing :
    let s : State := { State.reset with panels := [(3, { state := 1 })] }; (s.panels.look {} 3 : Panel).state = 1 ∧ s.reqs = [] ∧
      (s.panels.look {} 4 : Panel).state ≠ 1 ∧
      (let r : Req := { kind := .write, virt := false, home := panelHome 3 }; r.writes = true ∧ overlaps (panelHome 3) (2^20) r.home r.size = true) := by
  decide +kernel

theorem test_meets_edge_buffers :
    ∀ c ∈ [true, false], ∀ n ∈ [2, 3], let b : EdgeBuf := { space := n, size := 64, consumer := 4 };
      let s := waiting (fun j => { j with edges := [(2, b)], launches := [(4, { complete := c })] });
      (s.job 1).edges.find? (fun e => e.1 == 2) = some (2, b) ∧ ((s.job 1).launches.look {} 4 : Launch).complete = c ∧ s.rowHeld = false ∧ s.reqs = [] ∧
      Tab.has (s.job 1).edges 3 = false ∧
      (n = 3 → ∃ r ∈ s.bufferRuns 1 b, overlaps r.1 r.2.1 r.1 8 = true) := by decide +kernel

/-- Job 0 with its graph header at 0x1000: 8 nodes from 0x2000 up, the first of which is v, and the job as f leaves it. -/
def engine (v : Nat) (f : Job → Job) : State :=
  ((plain.poke 0x1000 32 (7 + 0x2000 * 2^64)).poke 0x2000 32 v).updJob 0 (fun j => f { j with
    graphHdr := 0x1000, gstate := 1, phaseOpen := true, holdingReturned := true })

/-- Whether the engine of job 0 acts on node record v. -/
def atNode (s : State) (v : Nat) : Bool :=
  let x := s.job 0
  x.resident && x.status == 0 && x.gstate == 1 && !x.stopped && !x.preempting && x.preemptAt.isNone && x.phaseOpen && !s.rowHeld &&
  s.graphRecord 0 x.graphHdr.toNat == some (7 + 0x2000 * 2^64) && s.graphRecord 0 (0x2000 + 32 * x.gnode) == some v

theorem atNode_of {s : State} {v : Nat} (h : atNode s v = true) : s.AtNode 0 (7 + 0x2000 * 2^64) v := by
  simp only [atNode, Bool.and_eq_true, Bool.not_eq_true', beq_iff_eq, Option.isNone_iff_eq_none] at h
  obtain ⟨⟨⟨⟨⟨⟨⟨⟨⟨h1, h2⟩, h3⟩, h4⟩, h5⟩, h6⟩, h7⟩, h10⟩, h8⟩, h9⟩ := h
  exact ⟨h1, h2, .inl h3, ⟨h4, h5, h6⟩, h7, h10, h8, h9⟩

theorem test_meets_graph_start :
    (let s := engine 0 (fun j => { j with gstate := 0 }); (s.job 0).resident = true ∧ (s.job 0).status = 0 ∧ (s.job 0).gstate = 0 ∧
      s.stopping 0 = false ∧ s.rowHeld = false ∧ s.graphRecord 0 0x1000 = some (7 + 0x2000 * 2^64) ∧ s.freeRoot 0 = some 0) ∧
    (engine 0 (fun j => { j with gstate := 0, graphHdr := 0x20000000 })).graphRecord 0 0x20000000 = none := by decide +kernel

/-- A node of kind k whose successors are 1 and 2 and whose predicate is the SYNC word at 0x8000000. -/
def nodeRec (k : Nat) : Nat := k + 1 * 2^4 + 2 * 2^16 + 0x8000000 * 2^64

/-- The leaf of that word. -/
def predicate : Leaf := leafAt 0x8000000

theorem test_meets_predicates :
    ∀ k ∈ [2, 3], ∀ x ∈ [(false, 0), (true, 0), (true, 1)],
      let s := ((engine (nodeRec k) (fun j => { j with phaseDone := k == 3 })).poke 0x8000000 8 x.2).setFull 0x8000000 x.1;
      atNode s (nodeRec k) = true ∧ (s.checkVirt (.die 0) 0 0 0x8000000 8 .syncRead false).toOption = some predicate ∧ s.isBad 0x8000000 8 = false ∧
      s.isFull 0x8000000 = x.1 ∧ s.peek 0x8000000 8 = x.2 ∧ (s.job 0).phaseDone = (k == 3) ∧ (s.job 0).holdingReturned = true ∧
      s.freesOwed 0 = false ∧ s.queues = [] ∧ s.dieLines = [] ∧ s.queuedAt (s.bankOf 0x8000000) = [] := by decide +kernel

theorem test_meets_ends :
    ∀ b ∈ [true, false], let s := engine 4 (fun j => { j with phaseDone := b });
      atNode s 4 = true ∧ (s.job 0).phaseDone = b ∧ (s.job 0).holdingReturned = true ∧ s.freesOwed 0 = false ∧ s.queues = [] ∧
      (s.job 0).saved = [] ∧ s.queuedAt 0 = [] ∧ (s.strands.all (fun k => !(k.2.run == .yielded))) = true ∧ (s.strands.map (·.1)).Nodup ∧ s.boxes = [] := by decide +kernel

theorem test_meets_launch_nodes :
    ∀ w ∈ [0, 1], let v := 1 + 1 * 2^4 + w * 2^28 + 3 * 2^32 + 0x3000 * 2^64; let s := engine v id;
      atNode s v = true ∧ (s.job 0).nodeBegun = false ∧ v / 2^30 % 2 = 0 ∧ v / 2^29 % 2 = 0 ∧ v / 2^28 % 2 = w ∧ v / 2^4 % 2^12 = 1 ∧
      ((s.job 0).launches.look {} 0 : Launch).runnable = false ∧ (s.job 0).saved = [] ∧ s.clauseRefused 0 0 = false := by decide +kernel

theorem test_meets_phases :
    ∀ n ∈ [0, 1], let s := engine 0 (fun j => { j with phaseCount := BitVec.ofNat 13 n });
      (s.job 0).resident = true ∧ (s.job 0).phaseDone = false ∧ (s.job 0).phaseOpen = true ∧ (s.job 0).holdingReturned = true ∧
      ((s.job 0).phaseCount = 0 ↔ n = 0) ∧ (s.root 0).returned = (s.root 0).expected := by decide +kernel

theorem test_meets_saves :
    (let s := (plain.updStrand 0 (fun t => { t with region := { t.region with state := .halted } })).updJob 0 (fun j => { j with preempting := true });
      s.self.onFabric = true ∧ (s.job 0).preempting = true ∧ (s.job 0).stopped = false ∧ s.self.region.state = .halted ∧ s.saveWaits 0 = false ∧ s.rowHeld = false ∧
      ∀ r ∈ (s.elem 70).routes, r.2.link = none) ∧
    ({ plain with reqs := [{ agent := .seq 0 }] } : State).saveWaits 0 = true := by decide +kernel

/-- Strand 0 of job 0 is saved with its record at 0x3000, which names the configuration at 0x1000; panel 0 is free. -/
def savedAs (kind : Nat) : State :=
  ((recorded.updStrand 0 (fun t => { t with run := .saved })).poke 0x3000 384 (kind + 2^8 + 0x1000 * 2^64)).updJob 0 (fun j => { j with
    dieMask := 1, stopped := true, saved := [{ addr := 0x3000, strand := { job := 0 } }] })

theorem test_meets_restores_1 :
    ∀ k ∈ [0, 1, 2], let s := savedAs k; (s.job 0).saved[0]?.isSome = true ∧ (s.job 0).saved[1]? = none ∧ (s.job 0).stopped = true ∧ s.selected 0 = true ∧
      0 ∈ s.savedDies 0 { addr := 0x3000, strand := { job := 0 } } ∧ 1 ∉ s.savedDies 0 { addr := 0x3000, strand := { job := 0 } } ∧
      s.freeRect 0 0 1 1 = some 0 ∧ (s.job 0).preempting = false ∧ s.rowHeld = false ∧
      s.together 0 { addr := 0x3000, strand := { job := 0 } } = [(0, { addr := 0x3000, strand := { job := 0 } })] ∧ s.owing 0 = false ∧
      s.partOf (s.strand 0) = none ∧ s.parkedOf 0 = [] ∧ (s.readVirtNat (.die 0) 0 0 0x3000 384).toOption = some (k + 2^8 + 0x1000 * 2^64) := by decide +kernel

theorem test_meets_restores_2 : ((savedAs 0).restoreAt 0 0 { addr := 0x3000, strand := { job := 0 } }).isSome = false ∧
    ((savedAs 1).restoreAt 0 0 { addr := 0x3000, strand := { job := 0 } }).isSome = true := by decide +kernel

-- hypotheses met: a step ---------------------------------------------------------------------------------------------------

/-- The package in which the move is the next to be made. -/
def next_ (m : Move) (s : State) : State := { s with agenda := [m] }

theorem test_meets_power : ({ plain with boot := { plain.boot with powered := false } } : State).boot.powered = false ∧ plain.boot.powered = true ∧
    plain.latchDue = false ∧ ({ plain with agenda := [] } : State).moves ≠ [] := by decide +kernel

theorem test_meets_sequencer_steps :
    ∀ x ∈ [(0x04221800, []), (0x04221800, [3]), (0, [])], let s := next_ (.seq 0) ((plain.poke 0 4 x.1).updStrand 0 (fun t => { t with owedRegs := x.2 }));
      let u : State := { s with agenda := [] }; let t := s.strand 0;
      s.boot.powered = true ∧ s.latchDue = false ∧ t.issues = true ∧ (u.checkVirt (.seq 0) 0 t.job t.spt.toNat 4 .fetch false).toOption = some (leafAt 0) ∧
      s.walkWaits (.seq 0) 0 t.job t.spt.toNat = false ∧ s.fetchHit t.lead t.job t.spt.toNat = none ∧ (s.bankAt (s.bankOf 0)).held = false ∧ (∀ c ∈ s.cuts, c.2.bridle.enabled = false) ∧ s.isBad 0 4 = false ∧ bitsAt (s.lineSeen 0 0).toNat 0 32 = x.1 ∧
      t.owes x.1 = (x.2 == [3]) ∧ ((decodeSeq x.1).toOption.isSome = (x.1 != 0)) ∧ s.fill = false ∧ (∀ e ∈ s.elems, e.2.counts = false) ∧
      (∀ i ∈ (decodeSeq x.1).toOption, (u.issuing 0 x.1).seqWalks i = false) := by decide +kernel

/-- A row is held: a fetch whose page no cache holds waits, one whose page is cached waits where its own bank's is held, and a load whose page is to be
walked waits. -/
theorem test_meets_walks_that_wait :
    let held (b : Nat) (s : State) : State := s.updBank b (fun x => { x with held := true })
    let warm (s : State) : State := State.cacheLeaf (.seq 0) 0 0 0 { s with fill := true }
    (held 9 plain).walkWaits (.seq 0) 0 0 0 = true ∧
    (let s := held (plain.bankOf 0) (warm plain); s.walkWaits (.seq 0) 0 0 0 = false ∧ (s.bankAt (s.bankOf 0)).held = true) ∧
    (let s := held 9 (warm ((regs [(5, 0x8000000)] plain).poke 0 4 0x6C850008)); s.walkWaits (.seq 0) 0 0 0 = false ∧
      (s.issuing 0 0x6C850008).seqWalks (.ldd 4 5 8) = true) := by decide +kernel

theorem test_meets_fetch_hit :
    let s : State := { plain with streamLines := [{ panel := 0, job := 0, line := 0, data := 0x04221800, fetch := true }] };
      s.fetchHit 0 0 0 = some { panel := 0, job := 0, line := 0, data := 0x04221800, fetch := true } := by decide +kernel

theorem test_meets_bad_fetch : ({ plain with bad := [3] } : State).isBad 0 4 = true := by decide +kernel

theorem test_meets_fetch_fault :
    let s := next_ (.seq 0) (plain.updStrand 0 (fun t => { t with spt := 0x20000000 })); (s.strand 0).issues = true ∧
      errOf (s.checkVirt (.seq 0) 0 0 0x20000000 4 .fetch false) = some .translation := by decide +kernel

theorem test_meets_slot_steps :
    (countReady plain |>.elem 6).slotInstr 0 = some (.cnt { mod := 0, in0 := 0, in1 := 0, in2 := 0, outmask := 0, tw := 0, imm := 0 }) := by decide +kernel

theorem test_meets_head_steps :
    ∀ x ∈ [(0x010024000000000F0000000000010000, true), (0, false)],
      let s := ageState (fun e => { e with age := { e.age with queue := [{ raw := BitVec.ofNat 128 x.1 }] } });
      (s.elem 7).age.queue = [{ raw := BitVec.ofNat 128 x.1 }] ∧ (decodeCmd x.1).toOption.isSome = x.2 := by decide +kernel

theorem test_meets_place_steps :
    ∀ d ∈ [true, false], let s := atPlace 0x01 (fields 2 0 4) (fun y => { y with done := d }); (s.place 7 0).active = true ∧ (s.place 7 0).done = d ∧
      (decodeCmd (s.place 7 0).raw.toNat).toOption = some (.sld1 (fields 2 0 4)) := by decide +kernel

theorem test_meets_parked_places : ∀ b ∈ [true, false], let e := parkKey 0 7;
    let s := plain.updElem e (fun x => { x with age := { x.age with places := [(0, { active := true, owed := b })] } });
      parked e = true ∧ (s.place e 0).active = true ∧ (s.place e 0).done = false ∧ (s.place e 0).owed = b := by decide +kernel

theorem test_meets_bank_steps :
    let s : State := { bankAs id with programs := [(0, [0x0800000000000005])] };
      (∃ r, (s.bankAt 2304).running = some r ∧ (s.programs.look [] r.job)[(s.bankAt 2304).word]? = some 0x0800000000000005) ∧
      (decodeBank 0x0800000000000005).toOption = some (.brow 5) := ⟨⟨_, rfl, rfl⟩, by decide +kernel⟩

/-- The element of the `CNT` slot, one or two of whose slots are ready, with the pass-over counts given. -/
def twoReady (a b : Nat) : State :=
  (countReady plain).updElem 6 (fun x => { x with
    slotMask := 3, slots := x.slots ++ [(1, BitVec.ofNat 64 (0x45 * 2^56))], slotSt := [(0, { pass := a }), (1, { pass := b })] })

theorem test_meets_element_steps :
    (∀ x ∈ [(0, 0, 0), (3, 8, 1), (8, 8, 0)], let s := twoReady x.1 x.2.1; let n := x.2.2;
      s.slotReady 6 0 = true ∧ s.slotReady 6 1 = true ∧ ((s.elem 6).slotInstr n).isSome = true ∧
      (if 8 ≤ ((s.elem 6).slot n).pass then ∀ m, m < n → s.slotReady 6 m = true → ((s.elem 6).slot m).pass < 8
       else ∀ m, m < 4 → s.slotReady 6 m = true → ((s.elem 6).slot m).pass < 8 ∧ n ≤ m)) ∧
    (∀ n, n < 4 → plain.slotReady 6 n = false) := by decide +kernel

/-- Whether an instruction leaves an element as it was. -/
def leaves (i : Instr) (s : State) (e : Nat) (same : Bool) : Bool :=
  match exec i (s.atSlot e 0) with
  | .next t => decide (t.elem e = s.elem e) == same
  | _ => false

theorem still_of {i : Instr} {s : State} {e : Nat} (h : leaves i s e true = true) : ∃ t, exec i (s.atSlot e 0) = .next t ∧ t.elem e = s.elem e := by
  unfold leaves at h; split at h
  · next t ht => exact ⟨t, ht, by simpa using h⟩
  · exact absurd h (by simp)
theorem moves_of {i : Instr} {s : State} {e : Nat} (h : leaves i s e false = true) : ∃ t, exec i (s.atSlot e 0) = .next t ∧ t.elem e ≠ s.elem e := by
  unfold leaves at h; split at h
  · next t ht => exact ⟨t, ht, by simpa using h⟩
  · exact absurd h (by simp)

theorem test_meets_no_exchange : (∃ t, exec .tileExchange ((twoReady 0 0).atSlot 6 0) = .next t ∧ t.elem 6 = (twoReady 0 0).elem 6) ∧
    (∃ t, exec .fretSwap ((twoReady 0 0).atSlot 6 0) = .next t ∧ t.elem 6 = (twoReady 0 0).elem 6) :=
  ⟨still_of (by decide +kernel), still_of (by decide +kernel)⟩

/-- A fret swap stands to be made at element 0, and an exchange of a full tile at element 1. -/
theorem test_meets_swap_and_exchange :
    (let s := elemWith 0 0x10 [(7, [Token.beat .swap 1])]; ∃ t, exec .fretSwap (s.atSlot 0 0) = .next t ∧ t.elem 0 ≠ s.elem 0) ∧
    (let s := (elemWith 1 0x12 [(3, [Token.ctl .xchg])]).updElem 1 (fun x => { x with tlValid := (List.range 16).map (fun r => (r, true)) });
      (∃ t, exec .tileExchange (s.atSlot 1 0) = .next t ∧ t.elem 1 ≠ s.elem 1) ∧ (∃ t, exec .fretSwap (s.atSlot 1 0) = .next t ∧ t.elem 1 = s.elem 1) ∧
      ∀ n, n < 4 → s.slotReady 1 n = false) :=
  ⟨moves_of (by decide +kernel), moves_of (by decide +kernel), still_of (by decide +kernel), by decide +kernel⟩

/-- The next state of an outcome. -/
def nextOf : Out → Option State
  | .next t => some t
  | _ => none

theorem next_of {o : Out} (h : (nextOf o).isSome = true) : ∃ t, o = .next t := by
  cases o with
  | next t => exact ⟨t, rfl⟩
  | fault f => exact absurd h (by simp [nextOf])
  | refused r => exact absurd h (by simp [nextOf])

theorem test_meets_invariants : plain.memWf = true ∧ plain.keys.look {} 0 = { use := 1 } ∧ ∃ t, step plain = .next t :=
  ⟨by decide +kernel, by decide +kernel, next_of (by decide +kernel)⟩

/-- The state after reset keeps the memory's form, and so holds the invariant from the start. -/
theorem test_reset_keeps_the_form : State.reset.memWf = true ∧ State.reset.keys.look {} 0 = { use := 1 } := by decide +kernel

-- examples that the manual works out -------------------------------------------------------------------------------------

/-- What register d holds after the instruction at a state. -/
def regAfter (i : Instr) (d : Reg) (s : State) : Option Word := (nextOf (exec i s)).map (fun t => t.reg d)

/-- R69: the borderline results of division. -/
theorem test_division : (regAfter (.div 3 1 2) 3 plain = some (BitVec.allOnes 64)) ∧ (regAfter (.rem 3 1 2) 3 plain = some (BitVec.allOnes 64)) ∧
    (let s := regs [(1, BitVec.ofNat 64 (2^63)), (2, BitVec.allOnes 64)] plain; regAfter (.div 3 1 2) 3 s = some (BitVec.ofNat 64 (2^63)) ∧ regAfter (.rem 3 1 2) 3 s = some 0) ∧
    (let s := regs [(1, BitVec.ofInt 64 (-7)), (2, 2)] plain; regAfter (.div 3 1 2) 3 s = some (BitVec.ofInt 64 (-3)) ∧ regAfter (.rem 3 1 2) 3 s = some (BitVec.allOnes 64)) ∧
    (let s := regs [(1, 7), (2, 2)] plain; regAfter (.divu 3 1 2) 3 s = some 3 ∧ regAfter (.remu 3 1 2) 3 s = some 1) := by decide +kernel

/-- R73: the bit field of 0xA50 at 8, of 4 bits. -/
theorem test_bit_fields : let s := regs [(7, 0xA50)] plain; regAfter (.bfx 6 7 8 3) 6 s = some 0xFFFFFFFFFFFFFFFA ∧ regAfter (.bfxu 6 7 8 3) 6 s = some 0xA := by
  decide +kernel

/-- R75, R76: the last pass of the example's loop falls through, the one before is taken, and the target stands two words back. -/
theorem test_loop : ∀ x ∈ [(2, 12), (1, 24)], let s := plain.updStrand 0 (fun t => { t with ic := [(0, x.1)], spt := 20 });
    (nextOf (exec (.loopd 0 0xFFFE) s)).map (fun t => (t.self.spt, t.self.icn 0)) = some (BitVec.ofNat 60 x.2, x.1 - 1) := by decide +kernel

/-- R105, R108: 1 + 2^-8 to BF16 under each mode; 460 and 470 to E4M3. -/
theorem test_conversions : (["RNE", "RZ", "RD", "RU"].zip ([RMode.rne, .rz, .rd, .ru].map (fun m => bf16.ofVal m false (fp32.read 0x3F808000)))) =
      [("RNE", 0x3F80), ("RZ", 0x3F80), ("RD", 0x3F80), ("RU", 0x3F81)] ∧
    e4m3.ofInt .rne false 460 = 0x7E ∧ e4m3.ofInt .rne false 470 = 0x7F ∧ e4m3.ofInt .rne true 470 = 0x7E := by decide +kernel

/-- The table "Worked encodings" of the formats: -2.5, 500 and +∞ from FP32. -/
theorem test_worked_encodings : ([fp16, bf16, e4m3, e5m2].map (fun f => f.ofVal .rne false (fp32.read 0xC0200000))) = [0xC100, 0xC020, 0xC2, 0xC1] ∧
    ([fp16, bf16, e4m3, e5m2].map (fun f => f.ofVal .rne false (fp32.read 0x43FA0000))) = [0x5FD0, 0x43FA, 0x7F, 0x60] ∧
    ([fp16, bf16, e4m3, e5m2].map (fun f => f.ofVal .rne false (fp32.read 0x7F800000))) = [0x7C00, 0x7F80, 0x7F, 0x7C] ∧
    e4m3.ofVal .rne true (fp32.read 0x43FA0000) = 0x7E ∧ e4m3.ofVal .rne true (fp32.read 0x7F800000) = 0x7E := by decide +kernel

/-- R118, R119: the fixed tree over 2^24, 1 and 1, and the other order that RELAX allows. -/
theorem test_partials : combineTree (fp32.add .rne) 32 [(0, 0x4B800000), (1, 0x3F800000), (2, 0x3F800000)] = some 0x4B800000 ∧
    fp32.add .rne (fp32.add .rne 0x3F800000 0x3F800000) 0x4B800000 = 0x4B800001 := by decide +kernel

/-- R139: the table of `FEXPI`. -/
theorem test_fexpi : ([RMode.rne, .rz, .ru, .rd].map (fun m => fp32.expi m 0x3FC00000 0xC3150000)) = [2, 1, 2, 1] ∧
    ([RMode.rne, .rz, .ru, .rd].map (fun m => fp32.expi m 0x3FC00000 0xC3160000)) = [1, 0, 1, 0] ∧
    ([RMode.rne, .rz, .ru, .rd].map (fun m => fp32.expi m 0xBF800000 0xC3160000)) = [0x80000000, 0x80000000, 0x80000000, 0x80000001] ∧
    ([RMode.rne, .rz, .ru, .rd].map (fun m => fp32.expi m 0x3F800000 0x43000000)) = [0x7F800000, 0x7F7FFFFF, 0x7F800000, 0x7F7FFFFF] := by decide +kernel

/-- The tokens on the way from output 0 of element e after the instruction. -/
def sentBy (i : Instr) (e : Nat) (s : State) : Option (List Token) :=
  (nextOf (exec i (s.updElem e (fun x => { x with routes := [(0, { dstDepth := 9 })] })))).map (fun t => (((t.elem e).routesOf 0).map (fun r => r.2.flight)).flatten)

/-- R141: 300 times 200 in INT16 saturates. -/
theorem test_imad : sentBy (.imad ⟨4, 0, 1, 10, 1, 0, 0⟩) 0 (elemWith 0 0x02 [(0, [Token.dat 300]), (1, [Token.dat 200])]) = some [Token.dat 0x7FFF] := by
  decide +kernel

/-- R145: the butterfly of lanes 1, 2, 3 and 4 at distance 2. -/
theorem test_bfly : sentBy (.bfly ⟨0, 0, 0, 0, 1, 0, 1⟩) 0 (elemWith 0 0x10 [(0, [Token.dat (packRow 32 [0x3F800000, 0x40000000, 0x40400000, 0x40800000])])]) =
    some [Token.dat (packRow 32 [0x40800000, 0x40C00000, 0xC0000000, 0xC0000000])] := by decide +kernel

/-- R107: the sign of a zero difference is by the signs of the operands: −0 − (−0), −0 − (+0), +0 − (−0), and +0 − (+0) rounding down; and a sum of
zeros of different signs. -/
theorem test_zero_signs : fp32.sub .rne 0x80000000 0x80000000 = 0x80000000 ∧ fp32.sub .rne 0x80000000 0 = 0 ∧ fp32.sub .rd 0 0x80000000 = 0x80000000 ∧
    fp32.sub .rd 0 0 = 0 ∧ fp32.add .rne 0x80000000 0 = 0 ∧ fp32.add .rd 0x80000000 0 = 0x80000000 := by decide +kernel

/-- R109: a widening conversion extends the sign and clamps nothing; a narrowing one with SAT clamps. -/
theorem test_widening : convert (.int ⟨8, true⟩) (.int ⟨32, false⟩) .rne true 0xFF = 0xFFFFFFFF ∧
    convert (.int ⟨16, true⟩) (.int ⟨8, false⟩) .rne true 0xFFFF = 0 := by decide +kernel

/-- R147, R103: a NaN that is the first element of a fibre leaves `SCAN` as the canonical NaN. -/
theorem test_scan_nan : (prefixFrom (reduceTwo (.flt fp32) 0x38 .rne) (Machine.Num.canon (.flt fp32)) none [0xFFC00001, 0]).1 = [0x7FC00000, 0x7FC00000] := by
  decide +kernel

/-- R355: the example vectors of the block cipher (FIPS 197, appendices B and C.3) and of its inverse. -/
theorem test_block_ciphers :
    aes256 (bytesOf 32 0x000102030405060708090A0B0C0D0E0F101112131415161718191A1B1C1D1E1F) (bytesDown 0x00112233445566778899AABBCCDDEEFF) =
      bytesDown 0x8EA2B7CA516745BFEAFC49904B496089 ∧
    aes256Inv (bytesOf 32 0x000102030405060708090A0B0C0D0E0F101112131415161718191A1B1C1D1E1F) (bytesDown 0x8EA2B7CA516745BFEAFC49904B496089) =
      bytesDown 0x00112233445566778899AABBCCDDEEFF ∧
    aes128 (bytesDown 0x2B7E151628AED2A6ABF7158809CF4F3C) (bytesDown 0x3243F6A8885A308D313198A2E0370734) =
      bytesDown 0x3925841D02DC09FBDC118597196A0B32 := by decide +kernel

end Sys2Proof.Tests
end

section
/-!
PROOFS. The arithmetic of the words that the integer forms of the panel sequencer write (R68, R69).
-/

namespace Sys2Proof.Machine

-- an instruction that ends in a register's write-back

/-- R63: a form whose meaning is the write-back of v writes v and reaches the next word. -/
theorem answers_wrote {i : Instr} {s : State} {d : Reg} {v w : Word} (hi : exec i s = s.writeBack d v) (h : v = w) :
    Answers i s (Wrote d w s) := by
  obtain ⟨t, ht, hw⟩ := writeBack_wrote d v s
  exact ⟨t, hi.trans ht, h ▸ hw⟩

/-- A word is the word of its natural. -/
theorem word_eq_ofNat (x : Word) : x = BitVec.ofNat 64 x.toNat := by
  rw [BitVec.ofNat_toNat, BitVec.setWidth_eq]

-- products

/-- The low half of a double word is its integer modulo 2^64. -/
theorem extract_low_ofInt (a : Int) : (BitVec.ofInt 128 a).extractLsb' 0 64 = BitVec.ofInt 64 a := by
  apply BitVec.eq_of_toNat_eq
  simp only [BitVec.extractLsb'_toNat, BitVec.toNat_ofInt, Nat.shiftRight_zero]
  omega

/-- The high half of a double word is its integer divided by 2^64, modulo 2^64. -/
theorem extract_high_ofInt (a : Int) : (BitVec.ofInt 128 a).extractLsb' 64 64 = BitVec.ofInt 64 (a / 2^64) := by
  apply BitVec.eq_of_toNat_eq
  simp only [BitVec.extractLsb'_toNat, BitVec.toNat_ofInt, Nat.shiftRight_eq_div_pow]
  omega

/-- The product of the sign-extended words is the product of their integers. -/
theorem mul_signExtend_eq_ofInt (x y : Word) : x.signExtend 128 * y.signExtend 128 = BitVec.ofInt 128 (x.toInt * y.toInt) :=
  (BitVec.ofInt_mul _ _).symm

/-- The product of the zero-extended words is the product of their naturals. -/
theorem mul_setWidth_eq_ofInt (x y : Word) : x.setWidth 128 * y.setWidth 128 = BitVec.ofInt 128 ((x.toNat * y.toNat : Nat) : Int) := by
  apply BitVec.eq_of_toNat_eq
  rw [BitVec.ofInt_natCast]
  simp [BitVec.toNat_mul]

theorem mul_eq_extract (x y : Word) : x * y = (x.signExtend 128 * y.signExtend 128).extractLsb' 0 64 := by
  rw [mul_signExtend_eq_ofInt, extract_low_ofInt, BitVec.ofInt_mul, BitVec.ofInt_toInt, BitVec.ofInt_toInt]

theorem mulh_eq_extract (x y : Word) :
    BitVec.ofInt 64 (x.toInt * y.toInt / 2^64) = (x.signExtend 128 * y.signExtend 128).extractLsb' 64 64 := by
  rw [mul_signExtend_eq_ofInt, extract_high_ofInt]

theorem mulhu_eq_extract (x y : Word) :
    BitVec.ofNat 64 (x.toNat * y.toNat / 2^64) = (x.setWidth 128 * y.setWidth 128).extractLsb' 64 64 := by
  rw [mul_setWidth_eq_ofInt, extract_high_ofInt, ← BitVec.ofInt_natCast]
  rfl

-- shifts

/-- A word under a mask of k ones is the word modulo 2^k. -/
theorem toNat_and_mask (x : Word) {k : Nat} (hk : k ≤ 64) : (x &&& BitVec.ofNat 64 (2^k - 1)).toNat = x.toNat % 2^k := by
  have hlt : 2^k - 1 < 2^64 := by
    have := Nat.pow_le_pow_right (n := 2) (by decide) hk
    have := Nat.two_pow_pos k
    omega
  rw [BitVec.toNat_and, BitVec.toNat_ofNat, Nat.mod_eq_of_lt hlt, Nat.and_two_pow_sub_one_eq_mod]

/-- R68: b[5:0]. -/
theorem toNat_and_63 (y : Word) : (y &&& 63).toNat = y.toNat % 64 := toNat_and_mask y (k := 6) (by decide)

/-- R76: the bits [1:0] of an address. -/
theorem toNat_and_3 (y : Word) : (y &&& 3).toNat = y.toNat % 4 := toNat_and_mask y (k := 2) (by decide)

/-- An arithmetic shift right divides by a power of two, towards minus infinity. -/
theorem sshiftRight_eq_ofInt (x : Word) (n : Nat) : x.sshiftRight n = BitVec.ofInt 64 (x.toInt / 2^n) := by
  rw [BitVec.sshiftRight_eq, Int.shiftRight_eq_div_pow]
  norm_cast

-- minima, maxima and comparisons

theorem flagWord_eq_ite {c : Bool} {p : Prop} [Decidable p] (h : c = true ↔ p) : flagWord c = if p then 1 else 0 := by
  simp only [flagWord, h]

/-- The signed value of a choice by a signed comparison. -/
theorem ite_slt_eq_ofInt (x y u v : Word) (n : Int) (h : (if x.toInt < y.toInt then u.toInt else v.toInt) = n) :
    (if x.slt y then u else v) = BitVec.ofInt 64 n := by
  rw [← h]
  simp only [BitVec.slt_iff_toInt_lt]
  split <;> rw [BitVec.ofInt_toInt]

/-- The unsigned value of a choice by an unsigned comparison. -/
theorem ite_ult_eq_ofNat (x y u v : Word) (n : Nat) (h : (if x.toNat < y.toNat then u.toNat else v.toNat) = n) :
    (if x.ult y then u else v) = BitVec.ofNat 64 n := by
  rw [← h]
  simp only [BitVec.ult_iff_toNat_lt]
  split <;> exact word_eq_ofNat _

-- division

/-- R69: the truncated quotient, reduced to a word: −2^63 by −1 gives −2^63. -/
theorem sdiv_eq_ofInt (x y : Word) : x.sdiv y = BitVec.ofInt 64 (x.toInt.tdiv y.toInt) := by
  apply BitVec.eq_of_toInt_eq
  rw [BitVec.toInt_sdiv, BitVec.toInt_ofInt]

theorem srem_eq_ofInt (x y : Word) : x.srem y = BitVec.ofInt 64 (x.toInt.tmod y.toInt) := by
  rw [← BitVec.toInt_srem, BitVec.ofInt_toInt]

/-- The remainder of a truncated division has the sign of the dividend. -/
theorem tmod_pos_iff {a b : Int} (h : a.tmod b ≠ 0) : 0 < a.tmod b ↔ 0 < a := by
  rcases Int.lt_trichotomy a 0 with ha | ha | ha
  · have := Int.tmod_nonneg b (Int.neg_nonneg_of_nonpos (Int.le_of_lt ha))
    rw [Int.neg_tmod] at this
    omega
  · simp [ha] at h
  · have := Int.tmod_nonneg b (Int.le_of_lt ha)
    omega

/-- R69: the quotient and the remainder by a divisor that is not zero. -/
theorem tdiv_tmod_spec (a : Int) {b : Int} (hb : b ≠ 0) :
    a = a.tdiv b * b + a.tmod b ∧ (a.tmod b).natAbs < b.natAbs ∧ (a.tmod b ≠ 0 → (0 < a.tmod b ↔ 0 < a)) := by
  refine ⟨(Int.tdiv_mul_add_tmod a b).symm, ?_, tmod_pos_iff⟩
  rw [Int.natAbs_tmod]
  exact Nat.mod_lt _ (Int.natAbs_pos.mpr hb)

theorem udiv_eq_ofNat (x y : Word) : x / y = BitVec.ofNat 64 (x.toNat / y.toNat) := word_eq_ofNat (x / y)

theorem umod_eq_ofNat (x y : Word) : x % y = BitVec.ofNat 64 (x.toNat % y.toNat) := word_eq_ofNat (x % y)

-- the ALU forms by groups

/-- R68, R69: by zero every division form writes all ones. -/
theorem division_by_zero (s : State) (d a b : Reg) (hb : s.reg b = 0) :
    Answers (.div d a b) s (Wrote d 0xFFFFFFFFFFFFFFFF s) ∧ Answers (.divu d a b) s (Wrote d 0xFFFFFFFFFFFFFFFF s) ∧
    Answers (.rem d a b) s (Wrote d 0xFFFFFFFFFFFFFFFF s) ∧ Answers (.remu d a b) s (Wrote d 0xFFFFFFFFFFFFFFFF s) :=
  ⟨answers_wrote rfl (if_pos hb), answers_wrote rfl (if_pos hb), answers_wrote rfl (if_pos hb), answers_wrote rfl (if_pos hb)⟩

/-- R68: the unsigned forms by a divisor that is not zero. -/
theorem unsigned_division (s : State) (d a b : Reg) (hb : s.reg b ≠ 0) :
    Answers (.divu d a b) s (Wrote d (BitVec.ofNat 64 ((s.reg a).toNat / (s.reg b).toNat)) s) ∧
    Answers (.remu d a b) s (Wrote d (BitVec.ofNat 64 ((s.reg a).toNat % (s.reg b).toNat)) s) :=
  ⟨answers_wrote rfl ((if_neg hb).trans (udiv_eq_ofNat _ _)), answers_wrote rfl ((if_neg hb).trans (umod_eq_ofNat _ _))⟩

/-- R68, R69: the signed forms by a divisor that is not zero. -/
theorem signed_division (s : State) (d a b : Reg) (hb : s.reg b ≠ 0) :
    Answers (.div d a b) s (Wrote d (BitVec.ofInt 64 ((s.reg a).toInt.tdiv (s.reg b).toInt)) s) ∧
    Answers (.rem d a b) s (Wrote d (BitVec.ofInt 64 ((s.reg a).toInt.tmod (s.reg b).toInt)) s) :=
  ⟨answers_wrote rfl ((if_neg hb).trans (sdiv_eq_ofInt _ _)), answers_wrote rfl ((if_neg hb).trans (srem_eq_ofInt _ _))⟩

/-- Settles O1: each form is a write-back of a word that the arithmetic lemmas above give. -/
theorem aluFormsWriteTheirResult : Obligations.AluFormsWriteTheirResult := by
  refine ⟨fun s d a b => ?_, fun s d a b => ⟨division_by_zero s d a b, fun hb => ?_⟩⟩
  · exact ⟨
      answers_wrote rfl rfl,
      answers_wrote rfl rfl,
      answers_wrote rfl (mul_eq_extract _ _),
      answers_wrote rfl (mulh_eq_extract _ _),
      answers_wrote rfl (mulhu_eq_extract _ _),
      answers_wrote rfl rfl,
      answers_wrote rfl rfl,
      answers_wrote rfl rfl,
      answers_wrote rfl rfl,
      answers_wrote rfl (congrArg (s.reg a <<< ·) (toNat_and_63 _)).symm,
      answers_wrote rfl (congrArg (s.reg a >>> ·) (toNat_and_63 _)).symm,
      answers_wrote rfl ((congrArg (s.reg a).sshiftRight (toNat_and_63 _)).symm.trans (sshiftRight_eq_ofInt _ _)),
      answers_wrote rfl (ite_slt_eq_ofInt _ _ _ _ _ (by split <;> omega)),
      answers_wrote rfl (ite_slt_eq_ofInt _ _ _ _ _ (by split <;> omega)),
      answers_wrote rfl (ite_ult_eq_ofNat _ _ _ _ _ (by split <;> omega)),
      answers_wrote rfl (ite_ult_eq_ofNat _ _ _ _ _ (by split <;> omega)),
      answers_wrote rfl (flagWord_eq_ite BitVec.slt_iff_toInt_lt),
      answers_wrote rfl (flagWord_eq_ite BitVec.ult_iff_toNat_lt),
      answers_wrote rfl (flagWord_eq_ite beq_iff_eq)⟩
  · obtain ⟨hdivu, hremu⟩ := unsigned_division s d a b hb
    obtain ⟨hdiv, hrem⟩ := signed_division s d a b hb
    have hb' : (s.reg b).toInt ≠ 0 := fun h => hb (BitVec.toInt_inj.mp h)
    obtain ⟨hsum, hlt, hsign⟩ := tdiv_tmod_spec (s.reg a).toInt hb'
    exact ⟨hdivu, hremu, _, _, hsum, hlt, hsign, hdiv, hrem⟩

end Sys2Proof.Machine
end

section
/-!
PROOFS. The one-register, immediate and bit-field forms of the panel sequencer (R70-R73), bit by bit.
-/

namespace Sys2Proof.Machine

/-- R63: a form that writes back v, of which a property says what it is bit by bit. -/
theorem exists_answers_wrote {i : Instr} {s : State} {d : Reg} {v : Word} {p : Word → Prop} (hi : exec i s = s.writeBack d v) (h : p v) :
    ∃ w : Word, p w ∧ Answers i s (Wrote d w s) := ⟨v, h, answers_wrote hi rfl⟩

-- counts of bits (R70)

theorem clz_toNat_le (x : Word) : x.clz.toNat ≤ 64 := BitVec.le_def.mp (BitVec.clz_le (x := x))

theorem ne_zero_of_clz_lt {x : Word} (h : x.clz.toNat < 64) : x ≠ 0 :=
  BitVec.clz_lt_iff_ne_zero.mp (BitVec.lt_def.mpr h)

theorem ctz_toNat_le (x : Word) : x.ctz.toNat ≤ 64 := by
  rw [BitVec.ctz_eq_reverse_clz]
  exact clz_toNat_le _

theorem ne_zero_of_ctz_lt {x : Word} (h : x.ctz.toNat < 64) : x ≠ 0 :=
  BitVec.ctz_lt_iff_ne_zero.mp (BitVec.lt_def.mpr h)

/-- The bits above the leading one are clear. -/
theorem getLsbD_false_of_clz (x : Word) {k : Nat} (hk : 64 - x.clz.toNat ≤ k) : x.getLsbD k = false :=
  Nat.testBit_lt_two_pow (Nat.lt_of_lt_of_le BitVec.toNat_lt_two_pow_sub_clz (Nat.pow_le_pow_right (by decide) hk))

/-- The population count from bit 0 up counts the set bits. -/
theorem cpopNatRec_eq_length (x : Word) (n : Nat) :
    x.cpopNatRec n 0 = ((List.range n).filter (fun k => x.getLsbD k)).length := by
  induction n with
  | zero => rfl
  | succ n ih =>
    rw [BitVec.cpopNatRec_succ, BitVec.cpopNatRec_eq, ih, List.range_succ, List.filter_append, List.length_append]
    cases h : x.getLsbD n <;> simp [h]

/-- R70: `CLZ`. -/
theorem clz_counts (s : State) (d a : Reg) :
    Answers (.clz d a) s (fun t => ∃ n : Nat, n ≤ 64 ∧ Wrote d (BitVec.ofNat 64 n) s t ∧
      (∀ k, 64 - n ≤ k → (s.reg a).getLsbD k = false) ∧ (n < 64 → (s.reg a).getLsbD (63 - n) = true)) := by
  obtain ⟨t, ht, hw⟩ := answers_wrote (i := .clz d a) (s := s) rfl (word_eq_ofNat (s.reg a).clz)
  exact ⟨t, ht, _, clz_toNat_le _, hw, fun k => getLsbD_false_of_clz _,
    fun h => BitVec.getLsbD_true_clz_of_ne_zero (by decide) (ne_zero_of_clz_lt h)⟩

/-- R70: `CTZ`. -/
theorem ctz_counts (s : State) (d a : Reg) :
    Answers (.ctz d a) s (fun t => ∃ n : Nat, n ≤ 64 ∧ Wrote d (BitVec.ofNat 64 n) s t ∧
      (∀ k, k < n → (s.reg a).getLsbD k = false) ∧ (n < 64 → (s.reg a).getLsbD n = true)) := by
  obtain ⟨t, ht, hw⟩ := answers_wrote (i := .ctz d a) (s := s) rfl (word_eq_ofNat (s.reg a).ctz)
  exact ⟨t, ht, _, ctz_toNat_le _, hw, fun k => BitVec.getLsbD_false_of_lt_ctz,
    fun h => BitVec.getLsbD_true_ctz_of_ne_zero (ne_zero_of_ctz_lt h)⟩

-- immediates (R71)

theorem slt_sext16_iff (x : Word) (imm : BitVec 16) : x.slt (sext16 imm) = true ↔ x.toInt < imm.toInt := by
  rw [BitVec.slt_iff_toInt_lt, sext16, BitVec.toInt_signExtend_of_le (by decide)]

-- fields (R72, R73)

@[simp] theorem getLsbD_lowOnes (n k : Nat) : (lowOnes n).getLsbD k = (decide (k < 64) && decide (k < n)) := by
  rw [lowOnes, BitVec.getLsbD_ofNat, Nat.testBit_two_pow_sub_one]

/-- R73: a field zero-extended. -/
theorem getLsbD_fieldOf (x : Word) (pos width : Nat) {k : Nat} (hk : k < 64) :
    (fieldOf x pos width).getLsbD k = (decide (k < width) && x.getLsbD (pos + k)) := by
  rw [fieldOf, BitVec.getLsbD_and, BitVec.getLsbD_ushiftRight, getLsbD_lowOnes, decide_eq_true hk, Bool.true_and, Bool.and_comm]

/-- The mask of a field. -/
theorem getLsbD_fieldMask (pos width : Nat) {k : Nat} (hk : k < 64) :
    (lowOnes width <<< pos).getLsbD k = decide (pos ≤ k ∧ k < pos + width) := by
  rw [BitVec.getLsbD_shiftLeft, getLsbD_lowOnes, Bool.eq_iff_iff]
  simp only [Bool.and_eq_true, Bool.not_eq_true', decide_eq_true_eq, decide_eq_false_iff_not]
  omega

/-- R73: the low bits of one word put into a field of another. -/
theorem getLsbD_fieldInsert (x y : Word) (pos width : Nat) {k : Nat} (hk : k < 64) :
    (fieldInsert x y pos width).getLsbD k = if pos ≤ k ∧ k < pos + width then x.getLsbD (k - pos) else y.getLsbD k := by
  rw [fieldInsert, BitVec.shiftLeft_and_distrib, BitVec.getLsbD_or, BitVec.getLsbD_and, BitVec.getLsbD_not, BitVec.getLsbD_and,
    getLsbD_fieldMask pos width hk, BitVec.getLsbD_shiftLeft]
  by_cases h : pos ≤ k ∧ k < pos + width
  · simp [h, hk]
  · simp [h, hk]

/-- R42: the bits above an immediate are clear. -/
theorem zext16_and_lowOnes (imm : BitVec 16) : zext16 imm &&& lowOnes 16 = zext16 imm := by
  refine BitVec.eq_of_getLsbD_eq fun k hk => ?_
  rw [BitVec.getLsbD_and, getLsbD_lowOnes, zext16, BitVec.getLsbD_setWidth]
  rcases Nat.lt_or_ge k 16 with h | h
  · simp [hk, h]
  · simp [BitVec.getLsbD_of_ge imm k h]

/-- R72: a quarter replaced is the immediate put into the quarter's field. -/
theorem setQuarter_eq_fieldInsert (x : Word) (q : Nat) (imm : BitVec 16) : setQuarter x q imm = fieldInsert (zext16 imm) x (16 * q) 16 := by
  rw [setQuarter, fieldInsert, zext16_and_lowOnes]

/-- R72: a quarter replaced. -/
theorem getLsbD_setQuarter (x : Word) (q : Nat) (imm : BitVec 16) {k : Nat} (hk : k < 64) :
    (setQuarter x q imm).getLsbD k = if 16 * q ≤ k ∧ k < 16 * q + 16 then imm.getLsbD (k - 16 * q) else x.getLsbD k := by
  have hz : (zext16 imm).getLsbD (k - 16 * q) = imm.getLsbD (k - 16 * q) := by
    rw [zext16, BitVec.getLsbD_setWidth, decide_eq_true (by omega), Bool.true_and]
  rw [setQuarter_eq_fieldInsert, getLsbD_fieldInsert _ _ _ _ hk, hz]

/-- The signed value of the low n + 1 bits is that of a word of n + 1 bits. -/
theorem sint_eq_toInt (n v : Nat) : sint (n + 1) v = (BitVec.ofNat (n + 1) v).toInt := by
  rw [BitVec.toInt_eq_toNat_cond, BitVec.toNat_ofNat, sint, Nat.add_sub_cancel]
  exact ite_congr (propext (by rw [Nat.pow_succ', Nat.mul_lt_mul_left Nat.zero_lt_two])) (fun _ => rfl) (fun _ => rfl)

/-- R73: a field sign-extended is the word of the field's width, sign-extended. -/
theorem fieldSigned_eq_signExtend (x : Word) (pos n : Nat) :
    fieldSigned x pos (n + 1) = ((fieldOf x pos (n + 1)).setWidth (n + 1)).signExtend 64 := by
  rw [fieldSigned, sint_eq_toInt, BitVec.ofNat_toNat]
  rfl

/-- R73: a field sign-extended, bit by bit. -/
theorem getLsbD_fieldSigned (x : Word) (pos : Nat) {n k : Nat} (hn : n < 64) (hk : k < 64) :
    (fieldSigned x pos (n + 1)).getLsbD k = x.getLsbD (pos + min k n) := by
  have hbit {j : Nat} (hj : j < n + 1) : ((fieldOf x pos (n + 1)).setWidth (n + 1)).getLsbD j = x.getLsbD (pos + j) := by
    rw [BitVec.getLsbD_setWidth, getLsbD_fieldOf _ _ _ (Nat.lt_of_lt_of_le hj hn), decide_eq_true hj, Bool.true_and, Bool.true_and]
  rw [fieldSigned_eq_signExtend, BitVec.getLsbD_signExtend, BitVec.msb_eq_getLsbD_last, decide_eq_true hk, Bool.true_and]
  rcases Nat.lt_or_ge k (n + 1) with h | h
  · rw [if_pos h, hbit h, Nat.min_eq_left (Nat.le_of_lt_succ h)]
  · rw [if_neg (Nat.not_lt.mpr h), Nat.add_sub_cancel, hbit (Nat.lt_succ_self n), Nat.min_eq_right (Nat.le_of_succ_le h)]

/-- Settles O2: each form is a write-back of a word whose bits the lemmas above give. -/
theorem immediateAndFieldFormsWriteTheirResult : Obligations.ImmediateAndFieldFormsWriteTheirResult := by
  intro s d a imm sh q x
  refine ⟨clz_counts s d a, ctz_counts s d a,
    answers_wrote rfl (congrArg (BitVec.ofNat 64) (cpopNatRec_eq_length x 64)),
    answers_wrote rfl rfl,
    answers_wrote rfl rfl,
    answers_wrote rfl rfl,
    answers_wrote rfl rfl,
    answers_wrote rfl rfl,
    answers_wrote rfl rfl,
    answers_wrote rfl (sshiftRight_eq_ofInt x sh.toNat),
    answers_wrote rfl (flagWord_eq_ite (slt_sext16_iff x imm)),
    exists_answers_wrote rfl fun k => getLsbD_setQuarter (s.reg d) q.toNat imm,
    fun pos widthM1 _ => ?_⟩
  exact ⟨
    exists_answers_wrote rfl fun k => getLsbD_fieldSigned x pos.toNat widthM1.isLt,
    exists_answers_wrote rfl fun k => getLsbD_fieldOf x pos.toNat (widthM1.toNat + 1),
    exists_answers_wrote rfl fun k => getLsbD_fieldInsert x (s.reg d) pos.toNat (widthM1.toNat + 1)⟩

end Sys2Proof.Machine
end

section
/-!
PROOFS. Control transfer of the panel sequencer (R74-R76): where each form goes, and that it changes nothing else.
-/

namespace Sys2Proof.Machine

/-- R74: a branch on c goes where a proposition says that c decides. -/
theorem answers_branch {i : Instr} {s : State} {off : BitVec 16} {c : Bool} {p : Prop} [Decidable p]
    (hi : exec i s = s.branchIf c off) (hc : c = true ↔ p) :
    Answers i s (Jumped (if p then s.self.spt + 4 * off.signExtend 60 else s.self.spt + 4) s) := by
  obtain ⟨t, ht, hj⟩ := branchIf_jumped c off s
  rw [branchTarget_eq _ _ (by decide)] at hj
  simp only [hc] at hj
  exact ⟨t, hi.trans ht, hj⟩

theorem not_slt_iff (x y : Word) : (!x.slt y) = true ↔ y.toInt ≤ x.toInt := by
  rw [Bool.not_eq_true', ← Bool.not_eq_true, BitVec.slt_iff_toInt_lt, Int.not_lt]

theorem not_ult_iff (x y : Word) : (!x.ult y) = true ↔ y.toNat ≤ x.toNat := by
  rw [Bool.not_eq_true', ← Bool.not_eq_true, BitVec.ult_iff_toNat_lt, Nat.not_lt]

/-- R74: `BNE` goes on where the registers are equal. -/
theorem bne_jumped (s : State) (a b : Reg) (off : BitVec 16) :
    Answers (.bne a b off) s (Jumped (if s.reg a = s.reg b then s.self.spt + 4 else s.self.spt + 4 * off.signExtend 60) s) := by
  rw [← ite_not]
  exact answers_branch rfl bne_iff_ne

/-- A strand with its iteration counters and its word pointer replaced, which waits no more. -/
def Strand.counted (t : Strand) (ic : Tab (BitVec 32)) (spt : BitVec 60) : Strand := { t with ic := ic, spt := spt, waiting := false }

/-- R75: the iteration counters that `LOOPD` leaves. -/
def Strand.countDown (t : Strand) (n : Nat) : Tab (BitVec 32) := if t.icn n = 0 then t.ic else t.ic.put n (t.icn n - 1)

/-- R64, R75: the counter named by `LOOPD` goes down by one where it is not zero, and no other changes. -/
theorem Strand.look_countDown (t : Strand) (n m : Nat) :
    (t.countDown n).look 0 m = if m = n then t.icn n - (if t.icn n = 0 then 0 else 1) else t.icn m := by
  unfold Strand.countDown Strand.icn
  by_cases hm : m = n
  · subst hm
    split <;> simp
  · simp only [if_neg hm]
    split
    · rfl
    · exact Tab.look_put_ne _ _ _ hm

/-- R75: the branch of a counter that is not zero is taken while it is above one. -/
theorem sub_one_bne_zero {c : BitVec 32} (hc : c ≠ 0) : (c - 1 != 0) = true ↔ 1 < c.toNat := by
  rw [bne_iff_ne]
  bv_omega

/-- R75: `LOOPD` replaces the acting strand's counters and its word pointer. -/
theorem exec_loopd (s : State) (n : BitVec 2) (off : BitVec 16) :
    exec (.loopd n off) s = .next (s.setStrand s.site.strand (s.self.counted (s.self.countDown n.toNat)
      (if 1 < (s.self.icn n.toNat).toNat then s.self.spt + 4 * off.signExtend 60 else s.self.spt + 4))) := by
  show execLoopd n off s = _
  unfold execLoopd Strand.countDown
  by_cases hc : s.self.icn n.toNat = 0
  · simp only [hc, if_true]
    rfl
  · simp only [if_neg hc, State.branchIf, sub_one_bne_zero hc, goto_eq, advance_eq, State.updSelf_eq, State.setStrand_site,
      State.self_setStrand, State.put_put, branchTarget_eq _ off (by decide)]
    split <;> rfl

/-- A general register written and `spt` set, as `JAL` does. -/
theorem setReg_goto_spec (d : Reg) (v : Word) (a : BitVec 60) (s : State) :
    RegsBut d v s ((s.setReg d v).goto a) ∧ ((s.setReg d v).goto a).self.spt = a ∧
    ((s.setReg d v).goto a).self.alike s.self ∧ OnlySelf s ((s.setReg d v).goto a) := by
  have h : (s.setReg d v).goto a = s.setStrand s.site.strand { s.self.setReg d.toNat v with spt := a, waiting := false } := by
    simp only [goto_eq, State.setReg, State.updSelf_eq, State.setStrand_site, State.self_setStrand, State.put_put]
  rw [h, State.self_setStrand]
  refine ⟨fun r => (regs_set _ _ _).trans (Strand.reg_setReg s.self d r v), rfl, ?_, onlySelf_set _ _⟩
  exact congrArg (fun q : Strand => { q with spt := s.self.spt, waiting := s.self.waiting }) (Strand.setReg_alike s.self d.toNat v)

/-- R76: `JMP`. -/
theorem jmp_jumped (s : State) (off : BitVec 26) : Answers (.jmp off) s (Jumped (s.self.spt + 4 * off.signExtend 60) s) :=
  ⟨_, rfl, branchTarget_eq s.self.spt off (by decide) ▸ goto_jumped _ s⟩

/-- R76: `JAL`. -/
theorem jal_links (s : State) (off : BitVec 26) :
    Answers (.jal off) s (fun t => RegsBut 31 ((s.self.spt + 4).setWidth 64) s t ∧
      t.self.spt = s.self.spt + 4 * off.signExtend 60 ∧ t.self.alike s.self ∧ OnlySelf s t) :=
  ⟨_, rfl, branchTarget_eq s.self.spt off (by decide) ▸ setReg_goto_spec _ _ _ s⟩

/-- R75: `LOOPD`. -/
theorem loopd_counts (s : State) (n : BitVec 2) (off : BitVec 16) :
    Answers (.loopd n off) s (fun t =>
      t.self.icn n.toNat = s.self.icn n.toNat - (if s.self.icn n.toNat = 0 then 0 else 1) ∧
      (∀ m : BitVec 2, m ≠ n → t.self.icn m.toNat = s.self.icn m.toNat) ∧
      t.self.spt = (if 1 < (s.self.icn n.toNat).toNat then s.self.spt + 4 * off.signExtend 60 else s.self.spt + 4) ∧
      { t.self with ic := s.self.ic, spt := s.self.spt, waiting := s.self.waiting } = s.self ∧ SameRegs s t ∧ OnlySelf s t) := by
  refine ⟨_, exec_loopd s n off, ?_⟩
  dsimp only
  rw [State.self_setStrand]
  refine ⟨(Strand.look_countDown _ _ _).trans (if_pos rfl), fun m hm => ?_, rfl, rfl, fun r => regs_set _ _ _, onlySelf_set _ _⟩
  exact (Strand.look_countDown _ _ _).trans (if_neg fun h => hm (BitVec.eq_of_toNat_eq h))

/-- R76, R46: whether the target of a `JR` is a word's address. -/
theorem aligned_iff (v : Word) : v &&& 3 = 0 ↔ v.toNat % 4 = 0 := by
  rw [← BitVec.toNat_inj, toNat_and_3]
  rfl

/-- R76: `JR` to an address of a word. -/
theorem jr_jumped (s : State) (a : Reg) (h : s.reg a &&& 3 = 0) : Answers (.jr a) s (Jumped ((s.reg a).setWidth 60) s) :=
  ⟨_, if_neg (not_not_intro ((aligned_iff _).mp h)), goto_jumped _ s⟩

/-- R76, R46: `JR` to any other address is an illegal instruction. -/
theorem jr_faulted (s : State) (a : Reg) (h : s.reg a &&& 3 ≠ 0) : Answers (.jr a) s (Faulted 1 0 s.selfWord 0 s) :=
  ⟨_, if_pos fun h' => h ((aligned_iff _).mpr h'), raise_faulted _ _ _ _ s⟩

/-- Settles O3, form by form. -/
theorem branchesLoopsAndJumpsTransferControl : Obligations.BranchesLoopsAndJumpsTransferControl := by
  refine ⟨fun s a b off => ?_, fun s => ⟨loopd_counts s, fun off => ⟨jmp_jumped s off, jal_links s off⟩,
    fun a => ⟨jr_jumped s a, jr_faulted s a⟩⟩⟩
  exact ⟨answers_branch rfl beq_iff_eq, bne_jumped s a b off, answers_branch rfl BitVec.slt_iff_toInt_lt,
    answers_branch rfl (not_slt_iff _ _), answers_branch rfl BitVec.ult_iff_toNat_lt, answers_branch rfl (not_ult_iff _ _)⟩

end Sys2Proof.Machine
end
